-- ==== Sys2Proof/Word.lean ====
section
/-! DEFINITION. The word types of the BRF-6448-A1 and the sparse table every large store of it is held in. -/
namespace Sys2Proof

abbrev Byte := BitVec 8
abbrev W16 := BitVec 16
abbrev W32 := BitVec 32
/-- A management register, a scalar register or an instruction word (02 R58, 03 R59, 04 R86). -/
abbrev W64 := BitVec 64
/-- A raw accumulator entry (06 Table 6.2). -/
abbrev A36 := BitVec 36

/-- A sparse table: keys with the values that differ from a default. One canonical form: keys strictly rising,
no entry equal to the default (`Tab.wf`). -/
abbrev Tab (α : Type) := List (Nat × α)

variable {α : Type}

/-- What the table holds at `k`; `d` where it lists nothing. -/
def Tab.get (d : α) : Tab α → Nat → α
  | [], _ => d
  | (j, v) :: m, k => if j = k then v else Tab.get d m k

/-- The table without key `k`. -/
def Tab.del (m : Tab α) (k : Nat) : Tab α := m.filter (fun p => p.1 != k)

/-- Key `k` at `v`, at its place in rising order, over a table that does not list `k`. -/
def Tab.ins : Tab α → Nat → α → Tab α
  | [], k, v => [(k, v)]
  | (j, u) :: m, k, v => if k < j then (k, v) :: (j, u) :: m else (j, u) :: Tab.ins m k v

/-- Write `v` at `k`; writing the default removes the entry. -/
def Tab.put [DecidableEq α] (d : α) (m : Tab α) (k : Nat) (v : α) : Tab α :=
  if v = d then Tab.del m k else Tab.ins (Tab.del m k) k v

/-- Apply `f` to the value at `k`. -/
def Tab.upd [DecidableEq α] (d : α) (m : Tab α) (k : Nat) (f : α → α) : Tab α :=
  Tab.put d m k (f (Tab.get d m k))

/-- The canonical form: keys strictly rise and no entry holds the default. -/
def Tab.wf [DecidableEq α] (d : α) : Tab α → Bool
  | [] => true
  | (_, v) :: [] => v != d
  | (j, v) :: (k, u) :: m => decide (j < k) && v != d && Tab.wf d ((k, u) :: m)

end Sys2Proof
end

