-- ==== Sys2Proof/Machine/Bits.lean ====
section
/-! DEFINITION. Bit fields, byte order (00 R7) and the check codes: CRC-64 (09 R234), CRC-32C (02, 13, 15). -/
namespace Sys2Proof.Machine

variable {w : Nat}

/-- Bits [lo + n - 1 : lo] of a word, as a number (00 R7). -/
def fld (x : BitVec w) (lo n : Nat) : Nat := (x.toNat >>> lo) % 2 ^ n

/-- Bit `i` of a word. -/
def bit (x : BitVec w) (i : Nat) : Bool := x.toNat.testBit i

/-- The word with bits [lo + n - 1 : lo] replaced by `v`. -/
def setFld (x : BitVec w) (lo n v : Nat) : BitVec w :=
  BitVec.ofNat w (x.toNat - (fld x lo n) * 2 ^ lo + (v % 2 ^ n) * 2 ^ lo)

/-- A number placed at bit `lo` of a 64-bit word, for composing a word from its fields. -/
def at64 (lo n v : Nat) : W64 := BitVec.ofNat 64 ((v % 2 ^ n) * 2 ^ lo)

def b2n (b : Bool) : Nat := if b then 1 else 0

/-- A field read as a two's-complement number of `n` bits. -/
def sfld (x : BitVec w) (lo n : Nat) : Int :=
  let v := fld x lo n
  if v < 2 ^ (n - 1) then (v : Int) else (v : Int) - 2 ^ n

/-- The number spelled by bytes, least significant first (00 R7). -/
def ofBytesLE : List Byte → Nat
  | [] => 0
  | b :: bs => b.toNat + 256 * ofBytesLE bs

/-- The `k` bytes of a number, least significant first (00 R7). -/
def toBytesLE : Nat → Nat → List Byte
  | 0, _ => []
  | k + 1, n => BitVec.ofNat 8 n :: toBytesLE k (n / 256)

/-- The little-endian number in bytes [off, off + k) of a byte list; bytes past its end count as 0. -/
def leAt (bs : List Byte) (off k : Nat) : Nat := ofBytesLE ((bs.drop off).take k)

/-- Bits [lo + n - 1 : lo] of a byte string read as one number, bit 0 the first byte's least significant bit. -/
def bitsAt (bs : List Byte) (lo n : Nat) : Nat := (leAt bs (lo / 8) ((lo % 8 + n + 7) / 8) >>> (lo % 8)) % 2 ^ n

/-- A byte list padded with zeros to a multiple of `k` bytes. -/
def padTo (k : Nat) (bs : List Byte) : List Byte :=
  bs ++ List.replicate ((k - bs.length % k) % k) 0

def ceilDiv (a b : Nat) : Nat := (a + b - 1) / b

def asSigned32 (n : Nat) : Int := (BitVec.ofNat 32 n).toInt

/-- The compare of R46: value minus threshold, as a signed 32-bit number, is 0 or more. -/
def reached32 (value thresh : W32) : Bool := (value - thresh).msb == false

/-- A split of a list into pieces of `k` (`fuel` at least the list's length). -/
def chunksAux {α : Type} (k : Nat) : Nat → List α → List (List α)
  | 0, _ => []
  | _ + 1, [] => []
  | fuel + 1, x :: xs => (x :: xs).take k :: chunksAux k fuel ((x :: xs).drop k)

def chunks {α : Type} (k : Nat) (l : List α) : List (List α) := chunksAux (max k 1) l.length l

/-! ## Check codes -/

/-- One bit of a most-significant-first CRC-64 with the ECMA-182 polynomial (09 R234). -/
def crc64Bit (c : W64) (b : Bool) : W64 :=
  let s := c <<< 1
  if c.msb != b then s ^^^ 0x42F0E1EBA9EA3693#64 else s

def crc64Byte (c : W64) (b : Byte) : W64 :=
  [7, 6, 5, 4, 3, 2, 1, 0].foldl (fun c i => crc64Bit c (bit b i)) c

def crc64Init : W64 := 0xFFFFFFFFFFFFFFFF#64

/-- CRC-64 of a byte string with the parameters of R234: all ones to start, no final inversion. -/
def crc64 (bs : List Byte) : W64 := bs.foldl crc64Byte crc64Init

/-- One bit step of CRC-32C, least significant bit first. -/
def crc32cBit (c : W32) : W32 := if bit c 0 then (c >>> 1) ^^^ 0x82F63B78#32 else c >>> 1

def crc32cByte (c : W32) (b : Byte) : W32 :=
  [0, 1, 2, 3, 4, 5, 6, 7].foldl (fun c _ => crc32cBit c) (c ^^^ b.setWidth 32)

/-- CRC-32C without the final inversion, to be continued (PRESUMED, log 7: the spec names the standard code and does
not write out its parameters). -/
def crc32cCont (c : W32) (bs : List Byte) : W32 := bs.foldl crc32cByte c

/-- CRC-32C of a byte string (PRESUMED, log 7). -/
def crc32c (bs : List Byte) : W32 := ~~~ (crc32cCont 0xFFFFFFFF#32 bs)

end Sys2Proof.Machine
end

