-- ==== Sys2Proof/Wire.lean ====
section
/-! DEFINITION. What commands and events carry: ports, packets, engines and the other operand types of Sys2Proof.Instr. -/
namespace Sys2Proof

/-- A link port: PXU, PXD or one of FAB0 to FAB15 (02, 13). -/
inductive PortId where
  | pxu
  | pxd
  | fab (n : BitVec 4)
  deriving DecidableEq, Repr

/-- The port's key in the port table. -/
def PortId.idx : PortId → Nat
  | .pxu => 0
  | .pxd => 1
  | .fab n => 2 + n.toNat

/-- A PXL packet: four header words and the payload (02 R39). -/
structure Packet where
  dw0 : W32
  dw1 : W32
  dw2 : W32
  dw3 : W32
  payload : List Byte
  deriving DecidableEq, Repr

/-- The engines of a tile that hold a queue (03 Table 3.2). -/
inductive Eng where
  | matrix
  | vector
  | madder
  | rd (n : BitVec 2)
  | wr (n : BitVec 1)
  | sync
  deriving DecidableEq, Repr

/-- The engine's key in a tile's queue table. -/
def Eng.idx : Eng → Nat
  | .matrix => 0
  | .vector => 1
  | .madder => 2
  | .rd n => 3 + n.toNat
  | .wr n => 7 + n.toNat
  | .sync => 9

/-- One configuration report of a training state that met its exit condition (02 R26, R27; 13 R323). -/
structure TrainReport where
  /-- Lanes that EQ left unmarked, bit i for lane i. -/
  good : BitVec 4
  /-- Lane reversal found in ALIGN. -/
  rev : Bool
  /-- Identity and port number the far end sent in CONFIG (fabric ports). -/
  peer : BitVec 12
  peerPort : BitVec 4
  /-- Initial credit exchanged in CONFIG, by class (one class on PXL, 32 on the fabric): what the far end gives, and how the
  near end's receive buffer is shared (02 R34, 13 R324). -/
  credit : List (BitVec 16)
  share : List (BitVec 16)
  deriving DecidableEq, Repr

/-! ## Messages between modules (08, 10, 11, 13, 14)

The spec gives what these messages say and not their bits: they are typed (log 21). -/

/-- An outcome of the commit barrier (10 R260). -/
inductive Decision where
  | flip
  /-- The cause of R262 and the member whose ABANDON decided. -/
  | abandon (cause : Nat) (member : BitVec 12)
  deriving DecidableEq, Repr

/-- What a member contributes to the handshake of a collective (11 R281, R290). -/
structure CollDesc where
  ghash : W64
  op : Nat
  dtype : Nat
  count : Nat
  root : Nat
  red : Nat
  xfmt : Nat
  alg : Nat
  step : Bool
  /-- A RECV, where op 7 is a SEND (11 R281). -/
  recv : Bool
  shoff : Nat
  shlen : Nat
  deriving DecidableEq, Repr

/-- What a piece of data of a collective is (11 R283, R285): a rank's contribution, a domain's result, finished data. -/
inductive PieceKind where
  | contrib
  | domain
  | fin
  deriving DecidableEq, Repr

/-- A message of the signal lane or of a protocol of the fabric. -/
inductive Msg where
  | ringHash (r : BitVec 2) (h : W64)
  | ringBlock (r : BitVec 2) (ccw : Bool) (data : List Byte)
  | ringPartial (r : BitVec 2) (data : List Byte)
  | ringCredit (r : BitVec 2) (ccw : Bool)
  | ready (ver : W64)
  | abandon (ver : W64) (cause : Nat)
  | decision (ver : W64) (d : Decision) (target : W64)
  | norm (g : BitVec 8) (seq : W32) (rec : W64)
  | digest (ver : W64) (lanes : BitVec 256)
  /-- The descriptor hash and the fields it is formed from (R281). -/
  | collHand (g : BitVec 8) (seq : W32) (dhash : W64) (d : CollDesc)
  /-- A piece of data at a byte offset: its kind, the rank it comes from (of a domain's result, the domain index), the flags of the
  fold that formed it and its saturations (R283, R286). -/
  | collPiece (g : BitVec 8) (seq : W32) (kind : PieceKind) (rank off : Nat) (flags : BitVec 5) (sat : W32) (data : List Byte)
  /-- After a takeover an owner names the contributions of the failed rank that it has, by byte offset (R294). -/
  | collHeld (g : BitVec 8) (seq : W32) (offs : List Nat)
  | collCredit (g : BitVec 8) (seq : W32)
  | collTimeout (g : BitVec 8) (seq : W32) (rank : Nat)
  | collAbort (g : BitVec 8) (seq : W32) (cause rank : Nat)
  | backupReady (i : BitVec 4) (backup : Bool)
  | backupSelect (i : BitVec 4) (backup : Bool)
  | heartbeat
  | declare (id : BitVec 12)
  | declared (id : BitVec 12)
  /-- A member of the digest comparison has been expelled: its role is taken over (10 R267). -/
  | expelled (id : BitVec 12)
  | linkState (id : BitVec 12) (up : BitVec 16)
  /-- Identity flood of the master election (13 R338). -/
  | identity (id : BitVec 12)
  /-- One half of a round trip: the sender's TICK; and the master's answer: its TICK, step base and settings, with the tick of the
  question it answers (13 R330, R338). -/
  | tickAsk (t : W64)
  | tick (t step : W64) (phase : W32) (cfg win asked : W64)
  /-- A step change decided by the master: STEP, start tick, tick of its effect (13 R331). -/
  | stepChange (step start effect : W64)
  /-- A module's answer to the master: its settings and TICK, with the tick of the question (13 R338); and the master's verdict. -/
  | stbCheck (cfg win tick asked : W64)
  | aligned (ok : Bool)
  /-- The master's R, E, CAD and MISS count (13 R339). -/
  | cadence (r e : W64) (cad miss : Nat)
  /-- A formation request, and the master's decision: DOM_STAT.STATE and DOM_PRESENT (15 R393). -/
  | formGo
  | domain (st : Nat) (present : W64)
  deriving DecidableEq, Repr

/-- A loaded image part that carries a CRC (14 R372). -/
inductive ImgPart where
  | micro (c : BitVec 4)
  | phy
  | ochre
  | lake
  /-- Table slot of a tile's table store. -/
  | store (t : BitVec 8) (slot : BitVec 2)
  deriving DecidableEq, Repr

/-- An adder SELFTEST applies residue patterns to (14 R375). -/
inductive AddUnit where
  | vault (v : BitVec 8)
  | fabric (u : BitVec 2)
  deriving DecidableEq, Repr

/-- Data a message carries; one that carries data goes on the bulk lane, in parts of at most 8,192 bytes (13 R325, R326). -/
def Msg.load : Msg → Option Nat
  | .ringBlock _ _ d => some d.length
  | .ringPartial _ d => some d.length
  | .collPiece _ _ _ _ _ _ _ d => some d.length
  | _ => none

/-- What a fabric packet carries, by TYPE (13 Table 13.4); `bulk` is part i of a message that carries data. -/
inductive FabBody where
  | data (addr : W64) (bytes : List Byte)
  | sig (obj : BitVec 14) (add : W32)
  | ctl (m : Msg)
  | bulk (m : Msg) (i : Nat)
  deriving DecidableEq, Repr

/-- What a read of memory or of the scratchpad found (09 R222, R225; 14 R369): granules (location ÷ 64) with a corrected
byte, granules found uncorrectable; and how often the residue check of the adder missed on a granule (09 R235). -/
structure MemFind where
  corr : List Nat
  ue : List Nat
  res : List (Nat × BitVec 2)
  deriving DecidableEq, Repr

/-- What the checks of an engine found at an instruction's completion (14 R360, R369). -/
structure EngFind where
  mem : MemFind
  /-- Corrected scratchpad and accumulator words, and an uncorrectable one. -/
  spadCorr : Nat
  spadUe : Bool
  /-- A row whose checksum missed its tolerance (plausibility mode). -/
  flag : Bool
  deriving DecidableEq, Repr

end Sys2Proof
end

