-- ==== Sys2Proof/Syntax.lean ====
section
/-! DEFINITION. The commands and events of the module: one constructor per row of the table of operations. -/
namespace Sys2Proof

/-- The commands and events (spec/opcode_table.json), each with the rule that gives it. -/
inductive Instr where
  /-- R26. Signal appears on a lane of a PXL or fabric port in DETECT, and the port leaves DETECT and starts EQ. -/
  | signalDetect (p : PortId)
  /-- R26. A training state (EQ, ALIGN or CONFIG) meets its exit condition; the port moves to the next state or to ACTIVE, with the lane-width choice of R27 and the fabric miswire check of R323. -/
  | trainingStateDone (p : PortId) (r : TrainReport)
  /-- R26. A port exceeds the bound of its training or RETRAIN state, counts a training failure and returns to DETECT or restarts RETRAIN. -/
  | trainingBoundExpiry (p : PortId)
  /-- R26. Every 100 ms a port in DOWN restarts training at DETECT. -/
  | downRetryTimer (p : PortId) (farChanged : Bool)
  /-- R31. A port receives a flit, corrects up to 8 byte errors, accepts it or discards it and sends a NAK, and takes its ACKSEQ to free replay entries. -/
  | dataFlitReceive (p : PortId) (bytes : List Byte)
  /-- R34. A CTRL flit arrives, carrying credit and possibly a NAK that makes the sender replay every DATA flit after the ACKSEQ. -/
  | ctrlFlitReceive (p : PortId) (bytes : List Byte)
  /-- R32. 10 ms pass without a correctly decoded flit, and the port enters RETRAIN. -/
  | linkIdleTimeout (p : PortId)
  /-- R35. A packet arriving on PXU that this module does not consume is forwarded on PXD or dropped, or answered under R37 when PXD is not ACTIVE. -/
  | pxuPacketRelay (k : Packet)
  /-- R35. A packet arriving on PXD is forwarded on PXU when its DIR is 1, and dropped and counted otherwise. -/
  | pxdPacketRelay (k : Packet)
  /-- R38. An ENUM packet assigns the module its identity when HOP is 0, or is forwarded with HOP decremented. -/
  | enum (k : Packet)
  /-- R48. A CMD packet is checked command by command and enqueued whole or rejected whole, arming result slots and answering with a CMD response. -/
  | cmd (k : Packet)
  /-- R42. A register read packet is checked and answered with the value within 10 µs. -/
  | regRd (k : Packet)
  /-- R58. A REG_WR to a register that has no row of its own is checked and stored, or rejected with ERR_RANGE. -/
  | registerWrite (k : Packet)
  /-- R9. A read of an RC register field returns its value and clears it, keeping any event of the same cycle. -/
  | readToClear (k : Packet) (ev : W64)
  /-- R43. A DATA_PUT writes its payload to module memory before any later command or read from the link, and is answered with a status. -/
  | dataPut (k : Packet)
  /-- R43. A DATA_GET reads module memory and returns it, or LEN 0 with MEM_UNCORRECTABLE when failure handling cannot mask an error. -/
  | dataGet (k : Packet) (f : MemFind)
  /-- R54. A RESULT_RD is answered with a RESULT packet whose status and data depend on the slot's generation and state. -/
  | resultRd (k : Packet)
  /-- R336. A broadcast TIME packet is taken and scheduled to apply its step-base value at AT_TICK, or ignored and counted. -/
  | time (k : Packet)
  /-- R336. TICK reaches the AT_TICK of a TIME packet and STEP and PHASE are set from it, subject to the window and backward checks. -/
  | timeApply
  /-- R51. The queue intake dispatches the head command of a ready queue by class priority and round robin once its dependencies are met. -/
  | commandDispatch (q : BitVec 6)
  /-- R51. A BULK queue head stays ready longer than BULK_AGE and gains the next dispatch slot after ready LIVE work. -/
  | bulkAgeExpiry (q : BitVec 6)
  /-- R47. A command's dependencies are still unmet when its DEP_TO runs out, and it completes with DEP_TIMEOUT without executing. -/
  | depTimeoutExpiry (q : BitVec 6)
  /-- R52. A command's effects become visible; the module writes the result slot, advances DONE_SEQ, resolves waiting dependencies and sends RESULT_READY or CMD_ERROR. -/
  | commandComplete (q : BitVec 6) (seq : W32)
  /-- R49. A FENCE command waits for earlier commands of its queue, or of the queues in QMASK, and then completes OK. -/
  | fence (q : BitVec 6) (seq : W32)
  /-- R79. A LAUNCH command is checked at submission and, once dispatched, runs one program image on a tile set. -/
  | launch (q : BitVec 6) (seq : W32)
  /-- R80. A dispatched LAUNCH claims every tile of its set in one step once they are available, preloads the instruction cache and initialises tile state. -/
  | launchClaimTiles (q : BitVec 6) (seq : W32)
  /-- R76. A running STEP or BULK tile reaches a yield point taken by a LIVE LAUNCH, and its context is saved for the LIVE work. -/
  | livePreempt (t : BitVec 8)
  /-- R75. The copy of a tile context ends; the vault switch is reconfigured, tables are refilled and the program resumes on the new position. -/
  | contextMoveComplete (t : BitVec 8)
  /-- R66. A missed instruction-cache line arrives, replacing the least recently used line, and issue resumes. -/
  | icacheLineFill (t : BitVec 8) (parity : Bool)
  /-- R69. An engine or sync instruction at the head of its queue finds its waited events at 1 or more, decrements them and starts. -/
  | engineInstrStart (t : BitVec 8) (e : Eng)
  /-- R69. An engine instruction's last write becomes visible, and it increments the events it signals. -/
  | engineInstrComplete (t : BitVec 8) (e : Eng) (f : EngFind)
  /-- R70. A blkend's drain ends, the flow signatures are compared and reset, and the tile reaches a yield point. -/
  | blkendComplete (t : BitVec 8) (mon : W32)
  /-- R84. A halt's drain ends, the tile stops, and the module folds its numeric record into the step accounting. -/
  | tileHalted (t : BitVec 8) (mon : W32) (f : MemFind)
  /-- R72. A block exceeds 48,000 active cycles; the tile reaches a fault stop point, and the block reruns elsewhere or the LAUNCH ends with WATCHDOG. -/
  | watchdogFire (t : BitVec 8)
  /-- R92. Scalar no-operation. -/
  | nop (t : BitVec 8) (w : W64)
  /-- R92. Scalar register addition. -/
  | add (t : BitVec 8) (w : W64)
  /-- R92. Scalar register subtraction. -/
  | sub (t : BitVec 8) (w : W64)
  /-- R92. Scalar bitwise and. -/
  | and (t : BitVec 8) (w : W64)
  /-- R92. Scalar bitwise or. -/
  | or (t : BitVec 8) (w : W64)
  /-- R92. Scalar bitwise exclusive or. -/
  | xor (t : BitVec 8) (w : W64)
  /-- R92. Scalar shift left by register. -/
  | shl (t : BitVec 8) (w : W64)
  /-- R92. Scalar logical shift right by register. -/
  | shr (t : BitVec 8) (w : W64)
  /-- R92. Scalar arithmetic shift right by register. -/
  | sra (t : BitVec 8) (w : W64)
  /-- R92. Low 64 bits of the scalar product. -/
  | mul (t : BitVec 8) (w : W64)
  /-- R92. High 64 bits of the unsigned scalar product. -/
  | mulhu (t : BitVec 8) (w : W64)
  /-- R92. Signed scalar minimum. -/
  | min (t : BitVec 8) (w : W64)
  /-- R92. Signed scalar maximum. -/
  | max (t : BitVec 8) (w : W64)
  /-- R92. Unsigned scalar minimum. -/
  | minu (t : BitVec 8) (w : W64)
  /-- R92. Unsigned scalar maximum. -/
  | maxu (t : BitVec 8) (w : W64)
  /-- R92. Signed set-less-than. -/
  | slt (t : BitVec 8) (w : W64)
  /-- R92. Unsigned set-less-than. -/
  | sltu (t : BitVec 8) (w : W64)
  /-- R92. Set if equal. -/
  | seq (t : BitVec 8) (w : W64)
  /-- R92. Add a sign-extended immediate. -/
  | addi (t : BitVec 8) (w : W64)
  /-- R92. And with a sign-extended immediate. -/
  | andi (t : BitVec 8) (w : W64)
  /-- R92. Or with a sign-extended immediate. -/
  | ori (t : BitVec 8) (w : W64)
  /-- R92. Exclusive or with a sign-extended immediate. -/
  | xori (t : BitVec 8) (w : W64)
  /-- R93. Shift left by an immediate of 0 to 63. -/
  | shli (t : BitVec 8) (w : W64)
  /-- R93. Logical shift right by an immediate of 0 to 63. -/
  | shri (t : BitVec 8) (w : W64)
  /-- R93. Arithmetic shift right by an immediate of 0 to 63. -/
  | srai (t : BitVec 8) (w : W64)
  /-- R92. Signed compare with a sign-extended immediate. -/
  | slti (t : BitVec 8) (w : W64)
  /-- R92. Load a sign-extended immediate. -/
  | li (t : BitVec 8) (w : W64)
  /-- R92. Shift a register left by 26 and or in the immediate. -/
  | lsi (t : BitVec 8) (w : W64)
  /-- R94. Load 1 byte from the scratchpad, zero-extended. -/
  | ldu1 (t : BitVec 8) (w : W64)
  /-- R94. Load 2 bytes from the scratchpad, zero-extended. -/
  | ldu2 (t : BitVec 8) (w : W64)
  /-- R94. Load 4 bytes from the scratchpad, zero-extended. -/
  | ldu4 (t : BitVec 8) (w : W64)
  /-- R94. Load 8 bytes from the scratchpad. -/
  | ld8 (t : BitVec 8) (w : W64)
  /-- R94. Load 1 byte from the scratchpad, sign-extended. -/
  | lds1 (t : BitVec 8) (w : W64)
  /-- R94. Load 2 bytes from the scratchpad, sign-extended. -/
  | lds2 (t : BitVec 8) (w : W64)
  /-- R94. Load 4 bytes from the scratchpad, sign-extended. -/
  | lds4 (t : BitVec 8) (w : W64)
  /-- R94. Store 1 byte to the scratchpad. -/
  | st1 (t : BitVec 8) (w : W64)
  /-- R94. Store 2 bytes to the scratchpad. -/
  | st2 (t : BitVec 8) (w : W64)
  /-- R94. Store 4 bytes to the scratchpad. -/
  | st4 (t : BitVec 8) (w : W64)
  /-- R94. Store 8 bytes to the scratchpad. -/
  | st8 (t : BitVec 8) (w : W64)
  /-- R95. Branch if equal. -/
  | beq (t : BitVec 8) (w : W64)
  /-- R95. Branch if not equal. -/
  | bne (t : BitVec 8) (w : W64)
  /-- R95. Branch if signed less than. -/
  | blt (t : BitVec 8) (w : W64)
  /-- R95. Branch if signed greater or equal. -/
  | bge (t : BitVec 8) (w : W64)
  /-- R95. Branch if unsigned less than. -/
  | bltu (t : BitVec 8) (w : W64)
  /-- R95. Branch if unsigned greater or equal. -/
  | bgeu (t : BitVec 8) (w : W64)
  /-- R95. Jump and link, PC-relative. -/
  | jal (t : BitVec 8) (w : W64)
  /-- R95. Jump and link through a register. -/
  | jalr (t : BitVec 8) (w : W64)
  /-- R92. Decrement a register and branch if the result is not zero. -/
  | dbnz (t : BitVec 8) (w : W64)
  /-- R92. Read a capability word into a register. -/
  | capr (t : BitVec 8) (w : W64)
  /-- R96. Set a local event counter directly. -/
  | eset (t : BitVec 8) (w : W64)
  /-- R92. Read a local event counter. -/
  | eget (t : BitVec 8) (w : W64)
  /-- R92. Stall the control core until an event is 1 or more. -/
  | ewait (t : BitVec 8) (w : W64)
  /-- R96. The event awaited by an ewait reaches 1 or more; it is decremented and issue resumes. -/
  | ewaitMet (t : BitVec 8)
  /-- R70. Issue of the end-of-block instruction, which starts its drain. -/
  | blkend (t : BitVec 8) (w : W64)
  /-- R92. Issue of the end-of-program instruction for this tile. -/
  | halt (t : BitVec 8) (w : W64)
  /-- R99. Load a stream descriptor from the scratchpad. -/
  | dld (t : BitVec 8) (w : W64)
  /-- R99. Store a stream descriptor to the scratchpad. -/
  | dsv (t : BitVec 8) (w : W64)
  /-- R99. Write one word of a stream descriptor. -/
  | dwr (t : BitVec 8) (w : W64)
  /-- R99. Read one word of a stream descriptor. -/
  | drd (t : BitVec 8) (w : W64)
  /-- R100. Stream transfer from memory into the scratchpad, with runs assigned at issue. -/
  | sld (t : BitVec 8) (w : W64)
  /-- R100. Stream transfer from the scratchpad to memory. -/
  | sst (t : BitVec 8) (w : W64)
  /-- R100. Stream transfer from the scratchpad into memory-side arithmetic. -/
  | sacc (t : BitVec 8) (w : W64)
  /-- R105. Add a value to a local or peer sync object. -/
  | ssig (t : BitVec 8) (w : W64)
  /-- R107. Wait until a sync object reaches a threshold. -/
  | swait (t : BitVec 8) (w : W64)
  /-- R108. Publish items to a credit queue locally and at the peer. -/
  | cqput (t : BitVec 8) (w : W64)
  /-- R108. Wait for room in a credit queue. -/
  | cqacq (t : BitVec 8) (w : W64)
  /-- R108. Wait for an item in a credit queue. -/
  | cqget (t : BitVec 8) (w : W64)
  /-- R108. Return room to a credit queue locally and at the peer. -/
  | cqrel (t : BitVec 8) (w : W64)
  /-- R110. Read the step count and phase. -/
  | sbrd (t : BitVec 8) (w : W64)
  /-- R110. Wait until the step base reaches a target. -/
  | sbwait (t : BitVec 8) (w : W64)
  /-- R185. Pin the current page-table epoch of a context. -/
  | ptpin (t : BitVec 8) (w : W64)
  /-- R185. Release a pin on an epoch, advancing RECL_EPOCH and signalling RSYNC where due. -/
  | ptrel (t : BitVec 8) (w : W64)
  /-- R106. A local signal reaches its home cluster controller and is applied before that cycle's waits are evaluated. -/
  | syncSignalApply (obj : BitVec 14)
  /-- R107. A sync wait's condition becomes true; it writes its outcome and signals its events. -/
  | syncWaitMet (t : BitVec 8)
  /-- R107. A sync wait's timeout expires; it writes outcome 2 and signals its events. -/
  | syncWaitTimeout (t : BitVec 8)
  /-- R109. A sync wait outlasts its stall bound; a cqacq raises STAGE_STALL once. -/
  | syncStallBoundExpiry (t : BitVec 8)
  /-- R112. Debug copy of raw accumulator entries to the scratchpad. -/
  | drda (t : BitVec 8) (w : W64)
  /-- R112. Debug read of the bank-stall counter, clearing it in the Full form. -/
  | drbs (t : BitVec 8) (w : W64)
  /-- R118. Matrix product in BF16 into an accumulator half. -/
  | mmBf16 (t : BitVec 8) (w : W64)
  /-- R118. Matrix product in FP16. -/
  | mmF16 (t : BitVec 8) (w : W64)
  /-- R118. Matrix product in FP8 with A36 accumulation. -/
  | mmF8 (t : BitVec 8) (w : W64)
  /-- R122. Matrix product in FP8 with A16 chunks and overflow replay. -/
  | mmF8c (t : BitVec 8) (w : W64)
  /-- R118. Matrix product in the MX formats. -/
  | mmMx (t : BitVec 8) (w : W64)
  /-- R118. Matrix product with PX16 A operand. -/
  | mmPx (t : BitVec 8) (w : W64)
  /-- R123. Fused attention block with range supervision into both halves. -/
  | mmAtt (t : BitVec 8) (w : W64)
  /-- R210. Copy both accumulator halves into a park slot. -/
  | mmPark (t : BitVec 8) (w : W64)
  /-- R210. Restore both accumulator halves from a park slot. -/
  | mmUnpark (t : BitVec 8) (w : W64)
  /-- R126. Vector addition. -/
  | vadd (t : BitVec 8) (w : W64)
  /-- R126. Vector subtraction. -/
  | vsub (t : BitVec 8) (w : W64)
  /-- R126. Vector multiplication. -/
  | vmul (t : BitVec 8) (w : W64)
  /-- R126. Vector maximum. -/
  | vmax (t : BitVec 8) (w : W64)
  /-- R126. Vector minimum. -/
  | vmin (t : BitVec 8) (w : W64)
  /-- R126. Vector scale by σ. -/
  | vscale (t : BitVec 8) (w : W64)
  /-- R126. Vector σ × A + B. -/
  | vaxpy (t : BitVec 8) (w : W64)
  /-- R140. Vector format conversion, including MX blocks. -/
  | vcvt (t : BitVec 8) (w : W64)
  /-- R129. Vector compare into a mask register. -/
  | vcmp (t : BitVec 8) (w : W64)
  /-- R129. Vector compare with a scalar into a mask register. -/
  | vcmps (t : BitVec 8) (w : W64)
  /-- R126. Epilogue converting an accumulator half. -/
  | vep (t : BitVec 8) (w : W64)
  /-- R126. Epilogue adding a bias to an accumulator half. -/
  | vepBias (t : BitVec 8) (w : W64)
  /-- R132. Attention epilogue dividing by the denominators and writing row statistics. -/
  | vepAtt (t : BitVec 8) (w : W64)
  /-- R160. Layer normalisation per row. -/
  | vnorm (t : BitVec 8) (w : W64)
  /-- R160. RMS normalisation per row. -/
  | vrms (t : BitVec 8) (w : W64)
  /-- R130. Read VSTICKY into a register, optionally clearing it. -/
  | vstk (t : BitVec 8) (w : W64)
  /-- R133. Madder exponential. -/
  | mdrExp (t : BitVec 8) (w : W64)
  /-- R133. Madder natural logarithm. -/
  | mdrLog (t : BitVec 8) (w : W64)
  /-- R133. Madder reciprocal. -/
  | mdrRcp (t : BitVec 8) (w : W64)
  /-- R133. Madder reciprocal square root. -/
  | mdrRsqrt (t : BitVec 8) (w : W64)
  /-- R133. Madder erf from the built-in table. -/
  | mdrErf (t : BitVec 8) (w : W64)
  /-- R133. Madder GELU with erf. -/
  | mdrGelu (t : BitVec 8) (w : W64)
  /-- R133. Madder GELU with tanh. -/
  | mdrGelut (t : BitVec 8) (w : W64)
  /-- R133. Madder SiLU. -/
  | mdrSilu (t : BitVec 8) (w : W64)
  /-- R133. Madder evaluation of a loaded table slot. -/
  | mdrTab (t : BitVec 8) (w : W64)
  /-- R134. Recompute backward attention probabilities in PX16. -/
  | mdrPexp (t : BitVec 8) (w : W64)
  /-- R135. Load and check a lake table into a slot. -/
  | mdrTld (t : BitVec 8) (w : W64)
  /-- R240. COPY command moves or accumulates a memory range in a copy engine. -/
  | copy (q : BitVec 6) (seq : W32) (f : MemFind)
  /-- R238. FILL command writes a repeating pattern. -/
  | fill (q : BitVec 6) (seq : W32)
  /-- R279. COLL command is checked, numbered in its group and run as a collective. -/
  | coll (q : BitVec 6) (seq : W32)
  /-- R195. KV_APPEND command converts keys and values into every copy of the context's pages. -/
  | kvAppend (q : BitVec 6) (seq : W32) (f : MemFind)
  /-- R191. PT_EDIT command writes page-table entries into the open epoch. -/
  | ptEdit (q : BitVec 6) (seq : W32) (f : MemFind)
  /-- R192. PT_COMMIT command makes the open epoch current. -/
  | ptCommit (q : BitVec 6) (seq : W32)
  /-- R184. No pin holds epoch N − 4 any more, and the next epoch opens by copying the current buffer. -/
  | nextEpochOpen (c : BitVec 6)
  /-- R314. CODE command encodes or decodes one frame of a stream. -/
  | code (q : BitVec 6) (seq : W32)
  /-- R316. An Ochre engine finishes a unit of 256 blocks and takes the next unit by class and deadline order. -/
  | ochreUnitComplete (e : BitVec 1) (f : MemFind)
  /-- R267. DIGEST command digests a weight range and compares it across the replica group. -/
  | digest (q : BitVec 6) (seq : W32) (f : MemFind)
  /-- R267. A replica's (VER, digest) arrives on the signal lane for the comparison. -/
  | digestPublishReceive (src : BitVec 12) (ver : W64) (lanes : BitVec 256)
  /-- R267. KTO passes and the comparison decides majority, expulsion or DIGEST_SPLIT among those who published. -/
  | digestPublishTimeout
  /-- R258. COMMIT command enters the module into the commit barrier for a version. -/
  | commit (q : BitVec 6) (seq : W32)
  /-- R269. CHECKPOINT command copies the committed state with a header to a destination. -/
  | checkpoint (q : BitVec 6) (seq : W32) (f : MemFind)
  /-- R348. SYNC_SIGNAL command adds a value to a local or peer sync object. -/
  | syncSignal (q : BitVec 6) (seq : W32)
  /-- R349. SYNC_WAIT command waits for a local sync object to reach a threshold. -/
  | syncWait (q : BitVec 6) (seq : W32)
  /-- R349. A SYNC_WAIT's timeout expires before its condition, and it completes with DEP_TIMEOUT. -/
  | syncWaitCommandTimeout (q : BitVec 6) (seq : W32)
  /-- R343. STEP_EVENT_SET command writes a step-event entry in queue order. -/
  | stepEventSet (q : BitVec 6) (seq : W32)
  /-- R375. SELFTEST command runs tile tests, image CRC checks and adder residue patterns. -/
  | selftest (q : BitVec 6) (seq : W32) (imgs : List ImgPart) (adds : List AddUnit)
  /-- R229. A memory-side contribution reaches its vault controller and is applied, held, refused or discarded by its token. -/
  | contributionArrive (i : Nat) (f : MemFind)
  /-- R224. The copy to the reserve vault ends and every access goes there. -/
  | vaultRemapCopyDone (v : BitVec 9) (what : BitVec 2)
  /-- R370. The patrol scrub reads a granule, rewrites corrected data, repairs or logs an uncorrectable one. -/
  | patrolScrubVisit (g : Nat) (res : BitVec 2)
  /-- R241. A write to DPM_ALLOC creates and places a DPM buffer and records the outcome in DPM_RESULT. -/
  | dpmAlloc (k : Packet)
  /-- R241. A write to DPM_FREE invalidates a handle, releasing its storage once earlier commands complete. -/
  | dpmFree (k : Packet)
  /-- R242. A write to PLAN_REQ starts computing a memory plan from a request in memory. -/
  | planReq (k : Packet)
  /-- R242. The memory plan is written back, BUSY clears and STATUS is set. -/
  | planComplete (f : MemFind)
  /-- R233. A write of CLR to MSA_SQ clears the vault's SQ register, its DONE and NEXT, and held SQACC contributions. -/
  | msaSqClr (k : Packet)
  /-- R243. A write to MEM_CFG changes the interleave mode when no command is queued or running. -/
  | memCfgWrite (k : Packet)
  /-- R181. A write to CTX_CFG enables, keeps or disables a sequence context under its acceptance conditions. -/
  | ctxCfgWrite (k : Packet)
  /-- R202. A write to WR_CFG enables, keeps or disables a Woad ring under its acceptance conditions. -/
  | wrCfgWrite (k : Packet)
  /-- R209. A write to PARK_CFG sets the park store when no command is queued or running. -/
  | parkCfgWrite (k : Packet)
  /-- R203. Every 1 ms a forming ring member sends its configuration hash to both neighbours. -/
  | ringHashSend (r : BitVec 2)
  /-- R203. A neighbour's ring hash arrives; matching hashes make the member RUNNING, a different hash sets MISMATCH. -/
  | ringHashReceive (r : BitVec 2) (src : BitVec 12) (h : W64)
  /-- R205. START reaches its threshold and the member pins its epoch, checks pages, zeroes SUM[0] and starts a rotation. -/
  | rotationStart (r : BitVec 2) (f : MemFind)
  /-- R206. A key and value block from the ring neighbour is written into every copy and LANDED is incremented. -/
  | ringBlockLanded (r : BitVec 2) (ccw : Bool) (data : List Byte) (f : MemFind)
  /-- R207. FREE reaches its threshold and forwarding ends, and the member grants the sender credit for a new use of a slot. -/
  | ringCreditGrant (r : BitVec 2) (ccw : Bool)
  /-- R212. GDONE reaches its threshold and the predecessor's partial has landed, and the member forwards SUM plus IN. -/
  | ringGradientForward (r : BitVec 2) (f : MemFind) (u res : BitVec 2)
  /-- R208. All forwards and gradient returns of a rotation are done; the member releases its pin and increments ROT and DONE. -/
  | rotationEnd (r : BitVec 2)
  /-- R214. After a takeover the ring resets its objects, repeats the hash exchange and becomes RUNNING again. -/
  | ringReform (r : BitVec 2) (cfg gbuf : W64)
  /-- R245. A write setting TRN_CFG.ENABLE starts the step protocol, zeroes the gradient buffer and starts the mirror. -/
  | trnEnableSet (k : Packet)
  /-- R245. A write clearing TRN_CFG.ENABLE stops the step protocol when no step command is queued or running. -/
  | trnEnableClear (k : Packet)
  /-- R248. Every tile of a STEP LAUNCH has waited SWITCH × 10 µs at sync waits, and the module saves it and dispatches another. -/
  | microbatchSwitch (xq : BitVec 6) (xseq : W32) (yq : BitVec 6)
  /-- R251. The module's reduced shard is complete; it scans squares and forms its norm contribution for the SIGNAL fold. -/
  | normContribution (f : MemFind)
  /-- R252. The folded norm arrives and the member decides skip or commit-eligible, writes TRN_NORM and the step record and completes the COLL. -/
  | normFoldComplete
  /-- R259. All readiness conditions hold and the member sends READY, or ABANDON with its cause, to the leader. -/
  | commitReadySend
  /-- R260. A READY, ABANDON or decision reaches a member or the leader, which may decide FLIP or abandon. -/
  | barrierMessageReceive (src : BitVec 12) (m : Msg)
  /-- R260. The leader's commit timeout expires first and it decides abandon with cause TIMEOUT. -/
  | commitTimeout
  /-- R261. The FLIP target instant arrives and every member sets TRN_VER, zeroes gradients, starts the mirror and completes its COMMIT. -/
  | flip
  /-- R255. The buddy accepts the last byte of a mirror slot write and MIRROR_BUSY clears. -/
  | mirrorAccepted
  /-- R263. The step base reaches a backup designation's DEADLINE, after which the first complete contribution is taken. -/
  | backupDeadline (i : BitVec 4)
  /-- R291. The lowest live rank announces which of primary and backup sends the primary's term. -/
  | backupSelection (i : BitVec 4)
  /-- R264. KTO passes without a contribution and the missing member is reported to the fault manager. -/
  | contributionTimeout
  /-- R265. The spare's restore and copy end; it sets RESUME and raises a FAULT event. -/
  | takeoverRestoreComplete (hdr w o : List Byte) (hasG : Bool) (gr weights : List Byte)
  /-- R273. A write to GRP_CFG enables a collective group after checking its member list, or disables it. -/
  | grpCfgWrite (k : Packet)
  /-- R280. A dispatched collective becomes current when its group's previous one completes, and starts its handshake and timer. -/
  | collBecomesCurrent (g : BitVec 8)
  /-- R281. A member's descriptor hash arrives; mismatches complete the collective with COLL_MISMATCH. -/
  | collHandshakeReceive (g : BitVec 8) (seq : W32) (src : BitVec 12) (h : W64) (d : CollDesc)
  /-- R283. A 64 KiB data piece of a collective lands under a credit and is folded or written. -/
  | collPieceReceive (g : BitVec 8) (seq : W32) (src : BitVec 12) (kind : PieceKind) (rank off : Nat) (flags : BitVec 5) (sat : W32) (data : List Byte) (f : MemFind) (u res : BitVec 2)
  /-- R293. A collective's timer expires and the member sends TIMEOUT to every member. -/
  | collTimeoutExpiry (g : BitVec 8)
  /-- R293. A TIMEOUT arrives and the member completes or records COLL_TIMEOUT. -/
  | collTimeoutMessage (g : BitVec 8) (seq : W32) (rank : BitVec 12)
  /-- R295. A write of GO to COLL_ABORT sends ABORT for the group's current collective. -/
  | collAbort (k : Packet)
  /-- R295. An ABORT or WITHDRAW arrives and the member completes the collective with COLL_ABORT. -/
  | collAbortMessage (g : BitVec 8) (seq : W32) (cause : BitVec 4) (rank : BitVec 12)
  /-- R294. After a takeover a suspended collective resumes with the spare sending missing contributions. -/
  | collResume (g : BitVec 8) (r : BitVec 12)
  /-- R299. A write to OCH_CFG enables, keeps or disables an Ochre stream under its acceptance conditions. -/
  | ochCfgWrite (k : Packet)
  /-- R329. A write to FAB_CFG sets the torus shape when no command is queued or running. -/
  | fabCfgWrite (k : Packet)
  /-- R329. A write to FAB_XROUTE sets the route to another domain. -/
  | fabXrouteWrite (k : Packet)
  /-- R326. A fabric DATA packet arrives, is checked and delivered in ESEQ order or routed onward and acknowledged. -/
  | fabData (p : BitVec 4) (sl : Bool) (bytes : List Byte)
  /-- R346. A SIG packet reaches the sync-object directory and is applied once in ESEQ order and acknowledged. -/
  | fabSig (p : BitVec 4) (sl : Bool) (bytes : List Byte)
  /-- R326. An acknowledgement arrives and the source releases the packet. -/
  | fabAck (p : BitVec 4) (sl : Bool) (bytes : List Byte)
  /-- R326. A NAK arrives and the source resends the packet. -/
  | fabNak (p : BitVec 4) (sl : Bool) (bytes : List Byte)
  /-- R327. A CTL packet arrives, such as a flooded link state that triggers a routing-table recompute. -/
  | fabCtl (p : BitVec 4) (sl : Bool) (bytes : List Byte) (m : Option Msg) (f : MemFind)
  /-- R326. 20 µs pass without an acknowledgement and the source resends the packet. -/
  | fabResendTimer
  /-- R326. 10 ms pass without an acknowledgement and the destination is reported unreachable. -/
  | fabUnreachableTimeout
  /-- R332. A write to STB_CFG or STB_WIN changes the step-base source, phase unit or window and restarts cadence state. -/
  | stbCfgWrite (k : Packet)
  /-- R332. A read of STB_STEP latches PHASE into STB_PHASE. -/
  | stbStepRead (k : Packet)
  /-- R334. A pulse on CAD_P/N is filtered, timestamped and accepted or rejected by the interval window. -/
  | cadencePulse (width : Nat) (take : Bool)
  /-- R335. No pulse is accepted by R + MAX; a MISS starts a flywheel step or moves CAD to HOLDOVER or FROZEN. -/
  | cadenceMiss
  /-- R331. A step change decided at tick D takes effect at every module at tick D + 2,000. -/
  | stepChangeEffect
  /-- R338. A flooded identity arrives and the lowest live identity becomes step-base master, with TICK aligned. -/
  | masterElection (id : BitVec 12) (tick step : W64) (phase : W32)
  /-- R338. Every 10 ms the master checks each module's offset and settings, clearing ALIGNED on a fault. -/
  | alignmentCheck (src : BitVec 12) (off : Bool) (cfg win : W64)
  /-- R339. The master sends nothing for 2 ms and the next lowest live identity takes over. -/
  | masterSilence
  /-- R340. A write to word 0 of a step-event entry is staged. -/
  | stbEvtWord0Write (k : Packet)
  /-- R340. A write to word 1 takes both words of the entry together, or is rejected. -/
  | stbEvtWord1Write (k : Packet)
  /-- R341. The step base reaches an armed entry, which applies its SIGNAL, RELEASE, TEST, DIGEST or COMMIT action and re-arms or disarms. -/
  | stepEventFire
  /-- R342. A write to STB_QHOLD holds or releases queues. -/
  | stbQholdWrite (k : Packet)
  /-- R344. A write to LG_CFG sets a lock group's period when no LAUNCH uses it. -/
  | lgCfgWrite (k : Packet)
  /-- R344. PHASE reaches a multiple of PERIOD or jumps, and waiting blkends of the group complete. -/
  | lockGroupTick (g : BitVec 4)
  /-- R356. A write to CHK_CFG sets the check mode and rate when no command is queued or running. -/
  | chkCfgWrite (k : Packet)
  /-- R358. The Mordant tile finishes a check unit and compares signatures with the visited tile. -/
  | checkUnitComplete (t : BitVec 8) (sigTile sigChecker : W64)
  /-- R359. The arbitration run finishes and three signatures decide which tile was wrong or CHECK_UNRESOLVED. -/
  | thirdExecutionComplete (t : BitVec 8) (sig : W64)
  /-- R367. A margin step or retirement is written into the margin record of the settings flash. -/
  | marginRecordWrite
  /-- R367. A write of LEVELS to MRG_CLR clears margin levels and restores clocks and voltages. -/
  | mrgClrLevels (k : Packet)
  /-- R367. A write of RETIRED to MRG_CLR returns retired positions to service pending their next test. -/
  | mrgClrRetired (k : Packet)
  /-- R362. A cluster's MAX_MS timer expires, or a TEST event arrives, and an in-field test window opens on the next position. -/
  | testWindowOpen (c : BitVec 4)
  /-- R363. The position under test reaches a yield point and its role moves to the spare position. -/
  | testPositionClear (c : BitVec 4)
  /-- R364. A structural test ends; the position becomes the spare or is retired with a TILE_TEST detection. -/
  | structuralTestComplete (c : BitVec 4) (pass : Bool)
  /-- R371. The clock monitor finds a cluster PLL unlocked or off frequency; tiles stop and the PLL relocks. -/
  | clockFault (c : BitVec 4)
  /-- R371. A PLL fails to relock within 100 µs and the cluster is lost. -/
  | relockTimeout (c : BitVec 4)
  /-- R420. A domain leaves its limits after the filter; its units stop. -/
  | voltageFault (i : BitVec 6)
  /-- R371. A domain stays outside its limits for 1 ms and is lost. -/
  | voltageLossTimeout (i : BitVec 6)
  /-- R371. A junction reaches 105 °C or DRAM 95 °C and the die's arithmetic stops. -/
  | thermalFault (k : BitVec 3)
  /-- R371. A die stays over its limit for 100 ms and is lost. -/
  | thermalLossTimeout (k : BitVec 3)
  /-- R372. The periodic CRC of a loaded image part is recomputed; a mismatch reloads it as an IMAGE detection. -/
  | imageCrcCheck (p : ImgPart) (good : Bool)
  /-- R373. Every 1 ms a module sends a heartbeat to each torus neighbour. -/
  | heartbeatSend
  /-- R373. A neighbour misses 5 consecutive heartbeats and the module declares it failed to the master. -/
  | heartbeatMiss (id : BitVec 12)
  /-- R373. A failure declaration is flooded by the master and every module records it, triggering ring, takeover, collective and signal handling. -/
  | moduleDeclaration (id : BitVec 12)
  /-- R374. A module cannot reach its master for 10 ms and fences itself. -/
  | masterUnreachable
  /-- R377. A write to FLT_TENSOR sets a tensor slot and resets its count when TENSOR or VALID changes. -/
  | fltTensorWrite (k : Packet)
  /-- R383. MOD_PWR_EN rises and the module starts switching on its power domains in order. -/
  | modPwrEnRise
  /-- R421. A power-sequencing group is inside its limits and the next group starts, or MOD_PGOOD rises after the last. -/
  | powerGroupInLimits (adr : BitVec 3)
  /-- R421. A group is not inside its limits within 1.5 ms; sequencing stops with MOD_PGOOD low and MOD_ALERT_N asserted. -/
  | powerGroupTimeout (d : BitVec 6)
  /-- R384. The later of MOD_RST_N rising and MOD_PGOOD rising takes the module out of reset into the ROM stage. -/
  | effectiveRelease
  /-- R385. A low of at least 1 µs on MOD_RST_N stops every unit and returns registers to reset. -/
  | modRstNPulse (ns : Nat) (take : Bool)
  /-- R386. MOD_PWR_EN falls; MOD_PGOOD drops and domains switch off in reverse order. -/
  | modPwrEnFall
  /-- R417. P48 leaves its ride-through limits; the module fences, drops MOD_PGOOD and switches off all but MISC. -/
  | inputVoltageFault
  /-- R387. A boot stage ends and the next starts, with slot choice, verification, fallback or RECOVERY in the IMAGE stage. -/
  | bootStageEnd (a b : BitVec 3) (imgs : List ImgPart) (adds : List AddUnit) (bad : List (BitVec 4 × BitVec 5))
  /-- R388. A flash read times out after 1 ms and is retried or the device drops to a slower mode. -/
  | flashReadTimeout (d : Bool)
  /-- R412. A write to DOM_CFG or DOM_EXPECT sets formation settings while BOOTING or FORMING. -/
  | domCfgWrite (k : Packet)
  /-- R393. A write of GO to DOM_FORM makes the master decide the domain state. -/
  | domFormGo (k : Packet)
  /-- R393. DOM_PRESENT changes and the master decides READY, DEGRADED or INCOMPLETE and floods it. -/
  | domainDecision
  /-- R393. FORM_TO milliseconds pass from the election without READY and the master decides. -/
  | formTimeout
  /-- R412. A write to UPD_SRC sets the image address in IDLE or STAGED. -/
  | updSrcWrite (k : Packet)
  /-- R404. UPD_CTL PROGRAM checks the image in memory and writes it into the idle slot. -/
  | program (k : Packet)
  /-- R404. PROGRAM finishes writing and reading back the slot and the state becomes STAGED or IDLE. -/
  | programComplete (ok : Bool) (blk : BitVec 15)
  /-- R404. UPD_CTL ACTIVATE writes BOOTCTL so the staged image boots as a trial. -/
  | activate (k : Packet)
  /-- R406. UPD_CTL CONFIRM makes the trial image confirmed and blows SVN fuses if asked. -/
  | confirm (k : Packet)
  /-- R404. UPD_CTL CANCEL clears the trial and returns to IDLE. -/
  | cancel (k : Packet)
  /-- R412. UPD_CTL SAVE_DOMAIN writes a DOMAIN record from the current settings. -/
  | saveDomain (k : Packet)
  /-- R407. Every 60 s of a trial the module adds 60 to TRIAL_S in BOOTCTL. -/
  | trialTimer
  /-- R407. TRIAL_S reaches 900 without CONFIRM; the module falls back, fences and resets into the confirmed image. -/
  | trialFallback
  /-- R411. A write of GO to ATT_CTL starts building an attestation report. -/
  | attCtlGo (k : Packet)
  /-- R411. The attestation report is written and ATT_STAT.DONE is set. -/
  | attReportDone
  /-- R430. Every 1 ms the thermal loop raises or lowers each cluster's thermal level. -/
  | thermalLoopEval (c : BitVec 4) (tj td : BitVec 8)
  /-- R431. Every 1 ms the power loop compares input power with CAP_W and raises or lowers the power level. -/
  | powerLoopEval (pin vin : W16)
  /-- R431. Power averaged over 20 µs exceeds CAP_W + 200 W and the power level goes to 8. -/
  | powerFastLimit
  /-- R434. A write to PWR_CAP sets the input power cap from the next evaluation. -/
  | pwrCapWrite (k : Packet)
  /-- R432. A hardware comparator trips at 115 °C junction or 105 °C DRAM; THERM_TRIP_N asserts and domains switch off. -/
  | thermalTrip
  /-- R426. SMBus command 0x01 returns the STATUS byte. -/
  | smbStatus (pec : Bool)
  /-- R426. SMBus command 0x02 returns ALERT_CAUSE. -/
  | smbAlertCause (pec : Bool)
  /-- R426. SMBus command 0x03 returns the index of the first failed domain. -/
  | smbFailedDomain (pec : Bool)
  /-- R426. SMBus command 0x04 returns BOOT_STAT bits 7:0. -/
  | smbBootStat (pec : Bool)
  /-- R426. SMBus command 0x10 returns VIN_MV. -/
  | smbVinMv (pec : Bool)
  /-- R426. SMBus command 0x11 returns PIN_W. -/
  | smbPinW (pec : Bool)
  /-- R426. SMBus command 0x20 returns TJ_MAX. -/
  | smbTjMax (pec : Bool)
  /-- R426. SMBus command 0x21 returns TD_MAX. -/
  | smbTdMax (pec : Bool)
  /-- R426. SMBus command 0x22 returns the coolant inlet temperature. -/
  | smbTIn (pec : Bool)
  /-- R426. SMBus command 0x23 returns the coolant outlet temperature. -/
  | smbTOut (pec : Bool)
  /-- R426. SMBus command 0x30 returns DEVNUM as a block read. -/
  | smbDevnum (pec : Bool)
  /-- R426. SMBus command 0x31 returns MOD_ID bits 12:0. -/
  | smbModId (pec : Bool)
  /-- R426. SCL is held low beyond the timeout and the interface releases the lines and resets. -/
  | smbusSclTimeout
  /-- R427. JTAG BYPASS instruction. -/
  | bypass
  /-- R427. JTAG IDCODE instruction returning 0x1644_8A5B. -/
  | idcode
  /-- R427. JTAG SAMPLE/PRELOAD instruction. -/
  | samplePreload (pins load : BitVec 480)
  /-- R427. JTAG EXTEST instruction, loaded only while reset is held. -/
  | extest (pins load : BitVec 480)
  /-- R427. JTAG CLAMP instruction, loaded only while reset is held. -/
  | clamp
  /-- R427. JTAG HIGHZ instruction, loaded only while reset is held. -/
  | highz
  /-- R427. IEEE 1149.6 EXTEST_PULSE instruction on the high-speed lanes. -/
  | extestPulse (pins load : BitVec 480)
  /-- R427. IEEE 1149.6 EXTEST_TRAIN instruction on the high-speed lanes. -/
  | extestTrain (pins load : BitVec 480)
  /-- R262. The restore of TRN_OPT from the mirror's O region ends, RESTORE_BUSY clears and held writes into TRN_OPT may proceed. -/
  | optimiserRestoreComplete (bytes : List Byte)
  /-- R365. A cluster PLL relocks after a margin clock step or a clock fault, and the paused tiles of the cluster resume. -/
  | pllRelockComplete (c : BitVec 4)
  /-- R371. A power domain that left its limits returns inside them within 1 ms, so its stopped units restart and a deferred trim step may apply. -/
  | voltageRestored (i : BitVec 6)
  /-- R371. A junction or near-tier stack that crossed its THERMAL limit falls back below it within 100 ms, and the die's arithmetic and vault access resume. -/
  | thermalLimitCleared (k : BitVec 3)
  /-- R422. The reference clock stops for 100 ns or deviates by more than 0.5 %, and within 5 µs the module treats this as its own loss under R371. -/
  | refclkFault
  /-- R417. With MOD_PWR_EN high, P48 comes within 42 V to 56 V and the module begins the power sequence of R383. -/
  | inputVoltageInRange
  /-- R388. A flash erase or program exceeds four times its SFDP maximum, or 2 s, and the device is marked read-only until the next reset. -/
  | flashWriteTimeout (d : Bool)
  /-- R357. A Mordant visiting slot of 125 µs or 250 µs ends, and the checker moves to the next logical tile in ascending order. -/
  | checkSlotEnd (c : BitVec 4)
  deriving DecidableEq, Repr

end Sys2Proof
end

