-- ==== Sys2Proof/WellFormed.lean ====
section
/-! DEFINITION. Well-formed commands and events: what an operand's type does not say of its length or range. The machine itself
checks nothing here: an ill-formed command is one that no link, unit or engine of the module can bring. -/
namespace Sys2Proof

open Sys2Proof.Machine (fld)

/-- A packet carries the payload its LEN says, in units of 32 bytes; LEN 2,047 says none (02 R39, R40). -/
def Packet.wf (k : Packet) : Bool := fld k.dw0 12 11 == 2047 || k.payload.length == 32 * fld k.dw0 12 11

/-- A flit is 256 bytes (02 R29). -/
def flitWf (bytes : List Byte) : Bool := bytes.length == 256

/-- A granule of the near tier, of a reserve or system vault, or of the outer tier, as a location divided by 64 (09 R215, R220). -/
def granWf (g : Nat) : Bool := decide (g < 0x9000000000 / 64) || (decide (0x10000000000 / 64 ≤ g) && decide (g < 0x30000000000 / 64))

/-- Granules found corrected or uncorrectable exist. -/
def MemFind.wf (f : MemFind) : Bool := f.corr.all granWf && f.ue.all granWf && f.res.all (fun r => granWf r.1)

/-- A fabric packet is a 20-byte header, a payload as long as its 14-bit LEN can say and a CRC (13 R326). -/
def fabWf (bytes : List Byte) : Bool := decide (24 ≤ bytes.length) && decide (bytes.length ≤ 16407)

/-- The checks, by constructor; operands of the others have no ill-formed value. -/
def Instr.wf : Instr → Bool
  | .dataFlitReceive _ b | .ctrlFlitReceive _ b => flitWf b
  | .pxuPacketRelay k | .pxdPacketRelay k | .enum k | .cmd k | .regRd k | .registerWrite k | .dataPut k | .resultRd k | .time k => k.wf
  | .readToClear k _ => k.wf
  | .dataGet k f => k.wf && f.wf
  | .copy _ _ f | .kvAppend _ _ f | .ptEdit _ _ f | .digest _ _ f | .checkpoint _ _ f | .rotationStart _ f |
    .ringBlockLanded _ _ _ f | .ringGradientForward _ f _ _ | .contributionArrive _ f | .planComplete f | .normContribution f => f.wf
  | .engineInstrComplete _ _ f => f.mem.wf
  | .tileHalted _ _ f | .ochreUnitComplete _ f => f.wf
  | .selftest _ _ imgs adds => decide imgs.Nodup && decide adds.Nodup
  | .bootStageEnd _ _ imgs adds bad => decide imgs.Nodup && decide adds.Nodup && decide bad.Nodup && bad.all (fun p => decide (p.2.toNat < 18))
  | .patrolScrubVisit g _ => granWf g
  | .collPieceReceive _ _ _ _ r _ _ _ d f _ _ => decide (r < 4096) && decide (d.length ≤ 65536) && f.wf
  | .fabData _ _ b | .fabSig _ _ b | .fabAck _ _ b | .fabNak _ _ b => fabWf b
  | .fabCtl _ _ b _ f => fabWf b && f.wf
  | .takeoverRestoreComplete h _ _ _ _ _ => decide (272 ≤ h.length)
  | _ => true

end Sys2Proof
end

