-- ==== Sys2Proof/Decode.lean ====
section
/-! DEFINITION. Words of the table of operations. The commands of this block are link packets and events; the table gives none of
them bits, so no word spells one. -/
namespace Sys2Proof

/-- The command a word spells by the table's bits: none, for the table gives no row bits. -/
def decodeTableWord (_nbits _w : Nat) : Option Instr := none

end Sys2Proof
end

