-- ==== Sys2Proof/Config.lean ====
section
/-! DEFINITION. What the spec leaves to the implementation or to time, as constants without a body: free values
(each named in the assumption log) and the cryptographic functions of the cited standards. -/
namespace Sys2Proof.Config

/-- The n-th value the machine draws where the spec states none (log 3). -/
opaque freeValue : Nat → W64

/-- Ed25519 verification: public key, message, signature (log 5; 15 R403, R411). -/
opaque ed25519Verify : List Byte → List Byte → List Byte → Bool
/-- ML-DSA-65 verification: public key, message, signature (log 5). -/
opaque mldsaVerify : List Byte → List Byte → List Byte → Bool
/-- Ed25519 signature of a message under the key of a seed (log 5). -/
opaque ed25519Sign : List Byte → List Byte → List Byte
/-- ML-DSA-65 signature (log 5). -/
opaque mldsaSign : List Byte → List Byte → List Byte
/-- SHA-384 of a byte string, 48 bytes (log 5). -/
opaque sha384 : List Byte → List Byte
/-- AES-256-GCM decryption: key, nonce, additional data, ciphertext, tag; none where the tag fails (log 5; 15 R403). -/
opaque gcmOpen : List Byte → List Byte → List Byte → List Byte → List Byte → Option (List Byte)
/-- The X25519 shared secret of the class key with an ephemeral public key, and the ML-KEM-768 secret decapsulated from a
ciphertext with the class seed (log 5; 15 R403). -/
opaque x25519Shared : List Byte → List Byte
opaque mlkemShared : List Byte → List Byte
/-- Public keys of a 32-byte seed (log 5; 15 R409). -/
opaque ed25519Public : List Byte → List Byte
opaque mldsaPublic : List Byte → List Byte
/-- The unique device secret, 32 bytes (15 R409). -/
opaque deviceSecret : List Byte
/-- The four signing-key digests in ROM, the digest of the LAKE part of ORDER_VER 1, and the digest of the ROM (15 R402,
Table 15.13). -/
opaque signDigest : Nat → List Byte
opaque lakeDigest : List Byte
opaque romDigest : List Byte
/-- The body of a settings record of a type in a format other than 1, from its body in format 1, and back: the spec gives
format 1 (log 39; 15 R408). -/
opaque recordForm : Nat → Nat → List Byte → List Byte
opaque recordRead : Nat → Nat → List Byte → List Byte
/-- What a report measures as the manifest where no image runs, and the DeviceID certificate of a module without a CERT
record: the spec states neither (log 39). -/
opaque noManifest : List Byte
opaque noCert : List Byte

/-- The hash of a ring's settings that members compare: the spec does not give its function (log 3; 08 R203). -/
opaque ringHash : List Nat → W64

/-- How many ticks beyond the 20 µs that R260 of 10 asks for at least a leader puts the target of a FLIP (log 56). -/
opaque flipLead : W32

/-- The bytes of the packets that carry a protocol message: the spec does not give them (log 21). -/
opaque ctlBytes : Msg → List Byte

/-- The candidate component, in 16,384 steps of a quarter cell, for a hint velocity that is no number, or infinite over no frames
(12 R307): it depends on the velocity's code and on the frames alone (R303; log 30). -/
opaque hintOpen : Nat → Nat → BitVec 14

/-- The module's 64-bit unique device number (02 Table 2.4; 16 R426). -/
opaque deviceNumber : W64

end Sys2Proof.Config
end

