-- ==== Sys2Proof/Machine/Num.lean ====
section
/-! DEFINITION. Number formats, exact values, rounding and overflow (06 R138 to R152). Every result is computed exactly
and rounded once. -/
namespace Sys2Proof.Machine

/-- An exact value: a NaN, an infinity or (-1)^neg * m * 2^e. A zero keeps its sign (R150). -/
inductive Num where
  | nan
  | inf (neg : Bool)
  | fin (neg : Bool) (m : Nat) (e : Int)
  deriving DecidableEq, Repr

/-- How a format uses its top exponent (Table 6.1, Table 6.2). -/
inductive FmtKind where
  | ieee      -- infinities and NaN at the all-ones exponent
  | e4m3      -- every code finite but S.1111.111, a NaN
  | allFinite -- every code finite: the MX elements and A16
  | unsigned  -- PX16: no sign, E = 0 is +0
  deriving DecidableEq, Repr

/-- A format: widths of exponent and fraction, bias and kind (Table 6.1, Table 6.2). -/
structure Fmt where
  e : Nat
  f : Nat
  bias : Nat
  kind : FmtKind
  deriving DecidableEq, Repr

def Fmt.bf16 : Fmt := { e := 8, f := 7, bias := 127, kind := .ieee }
def Fmt.fp16 : Fmt := { e := 5, f := 10, bias := 15, kind := .ieee }
def Fmt.e4m3 : Fmt := { e := 4, f := 3, bias := 7, kind := .e4m3 }
def Fmt.e5m2 : Fmt := { e := 5, f := 2, bias := 15, kind := .ieee }
def Fmt.e2m3 : Fmt := { e := 2, f := 3, bias := 1, kind := .allFinite }
def Fmt.e3m2 : Fmt := { e := 3, f := 2, bias := 3, kind := .allFinite }
def Fmt.e2m1 : Fmt := { e := 2, f := 1, bias := 1, kind := .allFinite }
def Fmt.a16 : Fmt := { e := 6, f := 9, bias := 31, kind := .allFinite }
def Fmt.a36 : Fmt := { e := 11, f := 24, bias := 1023, kind := .ieee }
def Fmt.px16 : Fmt := { e := 10, f := 6, bias := 511, kind := .unsigned }

/-- Width of a code in bits. -/
def Fmt.bits (F : Fmt) : Nat := F.e + F.f + (if F.kind = .unsigned then 0 else 1)

/-- Bytes a stored element takes when it is not packed (16-bit or 8-bit formats). -/
def Fmt.bytes (F : Fmt) : Nat := ceilDiv F.bits 8

/-- Least exponent of a normal value. -/
def Fmt.emin (F : Fmt) : Int := 1 - (F.bias : Int)

/-- The magnitude code of the largest finite value. -/
def Fmt.maxCode (F : Fmt) : Nat :=
  match F.kind with
  | .ieee => (2 ^ F.e - 1) * 2 ^ F.f - 1
  | .e4m3 => 2 ^ (F.e + F.f) - 2
  | .allFinite => 2 ^ (F.e + F.f) - 1
  | .unsigned => 2 ^ (F.e + F.f) - 1

def Fmt.signBit (F : Fmt) (neg : Bool) : Nat :=
  if neg && F.kind != .unsigned then 2 ^ (F.e + F.f) else 0

/-- The infinite code (formats of kind ieee). -/
def Fmt.infCode (F : Fmt) (neg : Bool) : Nat := F.signBit neg + (2 ^ F.e - 1) * 2 ^ F.f

/-- The canonical NaN code (R138, Table 6.1, Table 6.2). -/
def Fmt.nanCode (F : Fmt) : Nat :=
  match F.kind with
  | .e4m3 => 0x7F
  | _ => (2 ^ F.e - 1) * 2 ^ F.f + 2 ^ (F.f - 1)

/-- The exact value of a magnitude code that is finite. -/
def Fmt.magOf (F : Fmt) (c : Nat) : Nat × Int :=
  let E := c / 2 ^ F.f
  let fr := c % 2 ^ F.f
  if E = 0 then (if F.kind = .unsigned then 0 else fr, F.emin - F.f)
  else (2 ^ F.f + fr, (E : Int) - F.bias - F.f)

/-- The exact value of a code, subnormals included (R138, R142, R148). -/
def Fmt.decode (F : Fmt) (c : Nat) : Num :=
  let mag := c % 2 ^ (F.e + F.f)
  let neg := F.kind != .unsigned && c.testBit (F.e + F.f)
  let top := mag / 2 ^ F.f == 2 ^ F.e - 1
  match F.kind with
  | .ieee =>
    if top then (if mag % 2 ^ F.f == 0 then .inf neg else .nan)
    else .fin neg (F.magOf mag).1 (F.magOf mag).2
  | .e4m3 =>
    if mag == 2 ^ (F.e + F.f) - 1 then .nan else .fin neg (F.magOf mag).1 (F.magOf mag).2
  | _ => .fin neg (F.magOf mag).1 (F.magOf mag).2

/-! ## Exact arithmetic -/

def Num.neg : Num → Num
  | .nan => .nan
  | .inf s => .inf (!s)
  | .fin s m e => .fin (!s) m e

def Num.isNan : Num → Bool | .nan => true | _ => false
def Num.isInf : Num → Bool | .inf _ => true | _ => false
def Num.isFin : Num → Bool | .fin _ _ _ => true | _ => false
/-- A zero of either sign. -/
def Num.isZero : Num → Bool | .fin _ 0 _ => true | _ => false
def Num.sign : Num → Bool | .nan => false | .inf s => s | .fin s _ _ => s
/-- Below zero; −0 is not a negative number (R133). -/
def Num.isNeg : Num → Bool | .nan => false | .inf s => s | .fin s m _ => s && m != 0
def Num.abs : Num → Num | .nan => .nan | .inf _ => .inf false | .fin _ m e => .fin false m e

def Num.zero : Num := .fin false 0 0
def Num.ofNat (n : Nat) : Num := .fin false n 0
def Num.ofInt (n : Int) : Num := .fin (decide (n < 0)) n.natAbs 0
/-- 2^k. -/
def Num.pow2 (k : Int) : Num := .fin false 1 k

/-- Two mantissas brought to one exponent. -/
def align (m1 : Nat) (e1 : Int) (m2 : Nat) (e2 : Int) : Nat × Nat × Int :=
  if e1 ≤ e2 then (m1, m2 * 2 ^ (e2 - e1).toNat, e1) else (m1 * 2 ^ (e1 - e2).toNat, m2, e2)

/-- The exact sum (R149, R150). The Bool is NAN_GEN: an invalid operation produced a NaN. -/
def Num.addX : Num → Num → Num × Bool
  | .nan, _ => (.nan, false)
  | _, .nan => (.nan, false)
  | .inf s, .inf t => if s = t then (.inf s, false) else (.nan, true)
  | .inf s, .fin _ _ _ => (.inf s, false)
  | .fin _ _ _, .inf t => (.inf t, false)
  | .fin s m e, .fin t n f =>
    let (a, b, g) := align m e n f
    if s = t then (.fin s (a + b) g, false)
    else if a = b then (.fin false 0 g, false)
    else if a > b then (.fin s (a - b) g, false)
    else (.fin t (b - a) g, false)

/-- The exact product (R143, R149). -/
def Num.mulX : Num → Num → Num × Bool
  | .nan, _ => (.nan, false)
  | _, .nan => (.nan, false)
  | .inf s, .inf t => (.inf (s != t), false)
  | .inf s, .fin t n _ => if n = 0 then (.nan, true) else (.inf (s != t), false)
  | .fin s m _, .inf t => if m = 0 then (.nan, true) else (.inf (s != t), false)
  | .fin s m e, .fin t n f => (.fin (s != t) (m * n) (e + f), false)

def Num.add (a b : Num) : Num := (a.addX b).1
def Num.mul (a b : Num) : Num := (a.mulX b).1
def Num.sub (a b : Num) : Num := a.add b.neg

/-- Comparison of two numbers that are no NaN; zeros of either sign are equal. -/
def Num.cmp : Num → Num → Ordering
  | .nan, _ => .eq
  | _, .nan => .eq
  | .inf s, .inf t => if s = t then .eq else if s then .lt else .gt
  | .inf s, .fin _ _ _ => if s then .lt else .gt
  | .fin _ _ _, .inf t => if t then .gt else .lt
  | .fin s m e, .fin t n f =>
    let (a, b, _) := align m e n f
    let x : Int := if s then -(a : Int) else a
    let y : Int := if t then -(b : Int) else b
    compare x y

def Num.lt (a b : Num) : Bool := a.cmp b == .lt && !a.isNan && !b.isNan
def Num.le (a b : Num) : Bool := a.cmp b != .gt && !a.isNan && !b.isNan

/-! ## Rounding (R144, R145) -/

/-- The rounding mode of one result; stochastic rounding carries the generator's bits (R145, R146). -/
inductive Rnd where
  | rne
  | stoch (rbits : W32)
  | rtz
  deriving DecidableEq, Repr

/-- ⌊log2 (n / d)⌋ for positive n and d. -/
def ilog2Q (n d : Nat) : Int :=
  let l : Int := (Nat.log2 n : Int) - (Nat.log2 d : Int)
  let ge : Bool := if 0 ≤ l then decide (d * 2 ^ l.toNat ≤ n) else decide (d ≤ n * 2 ^ (-l).toNat)
  if ge then l else l - 1

/-- Whether the mode takes the upper neighbour, for a remainder r of a step of den and lower neighbour q. -/
def roundsUp (rnd : Rnd) (q r den : Nat) : Bool :=
  match rnd with
  | .rne => decide (den < 2 * r) || (decide (2 * r = den) && q % 2 == 1)
  | .rtz => false
  | .stoch rb => decide (rb.toNat % 2 ^ 24 < r * 2 ^ 24 / den)

/-- n/d * 2^e rounded to a multiple of 2^x: the mantissa, and whether it was exact. -/
def roundAt (rnd : Rnd) (n d : Nat) (e x : Int) : Nat × Bool :=
  let s := e - x
  let num := if 0 ≤ s then n * 2 ^ s.toNat else n
  let den := if 0 ≤ s then d else d * 2 ^ (-s).toNat
  let q := num / den
  let r := num % den
  (if roundsUp rnd q r den then q + 1 else q, r == 0)

/-- The magnitude n/d * 2^e rounded with the format's subnormal spacing and an unbounded top exponent (R145):
mantissa, exponent, exactness. -/
def Fmt.roundMag (F : Fmt) (rnd : Rnd) (n d : Nat) (e : Int) : Nat × Int × Bool :=
  if n = 0 then (0, F.emin - F.f, true)
  else
    let E := ilog2Q n d + e
    let x := max E F.emin - F.f
    let (q, ex) := roundAt rnd n d e x
    (q, x, ex)

/-- The magnitude code of m * 2^x, a value on the format's grid (it may exceed the format: unbounded exponent). -/
def Fmt.magCode (F : Fmt) (m : Nat) (x : Int) : Nat :=
  if m < 2 ^ F.f then m
  else if m < 2 ^ (F.f + 1) then (x + F.f + F.bias).toNat * 2 ^ F.f + (m - 2 ^ F.f)
  else (x + 1 + F.f + F.bias).toNat * 2 ^ F.f + (m / 2 - 2 ^ F.f)

/-- Flags and counts of results (Table 5.11; SATCNT as a plain count, R130, R286). -/
structure Fl where
  nanIn : Bool := false
  infIn : Bool := false
  ovf : Bool := false
  unf : Bool := false
  nanGen : Bool := false
  varClamp : Bool := false
  range : Bool := false
  mxNan : Bool := false
  chReplay : Nat := 0
  sat : Nat := 0
  /-- Variances clamped (R161). -/
  clamps : Nat := 0
  deriving DecidableEq, Repr

def Fl.none : Fl := {}

/-- Flags ORed, counts added (R130). -/
def Fl.join (a b : Fl) : Fl :=
  { nanIn := a.nanIn || b.nanIn, infIn := a.infIn || b.infIn, ovf := a.ovf || b.ovf, unf := a.unf || b.unf,
    nanGen := a.nanGen || b.nanGen, varClamp := a.varClamp || b.varClamp, range := a.range || b.range,
    mxNan := a.mxNan || b.mxNan, chReplay := a.chReplay + b.chReplay, sat := a.sat + b.sat, clamps := a.clamps + b.clamps }

def Fl.joinAll (l : List Fl) : Fl := l.foldl Fl.join {}

/-- NAN_IN and INF_IN of reading an operand (Table 5.11). -/
def Fl.ofRead (v : Num) : Fl := { nanIn := v.isNan, infIn := v.isInf }

/-- The rounded result of a finite exact magnitude in a stored format: overflow by Table 6.4 (R151), then the BF16
flush (R148). `sat` is OVF_POLICY SATURATE. -/
def Fmt.storeFin (F : Fmt) (rnd : Rnd) (sat : Bool) (neg : Bool) (n d : Nat) (e : Int) : Nat × Fl :=
  let (m, x, _) := F.roundMag rnd n d e
  let c := F.magCode m x
  if c > F.maxCode then
    match F.kind with
    | .allFinite => (F.signBit neg + F.maxCode, {})
    | .unsigned => (F.maxCode, { ovf := true })
    | _ =>
      if sat then (F.signBit neg + F.maxCode, { ovf := true, sat := 1 })
      else if rnd = .rtz then (F.signBit neg + F.maxCode, { ovf := true })
      else if F.kind = .e4m3 then (F.nanCode, { ovf := true })
      else (F.infCode neg, { ovf := true })
  else
    let small := decide (c < 2 ^ F.f) && (decide (F = Fmt.bf16) || decide (F.kind = .unsigned))
    let c' := if small then 0 else c
    (F.signBit neg + c', { unf := decide (n ≠ 0) && c' == 0 })

/-- An infinite result in a stored format: Table 6.4, without a flag of its own. -/
def Fmt.storeInf (F : Fmt) (sat : Bool) (neg : Bool) : Nat × Fl :=
  match F.kind with
  | .allFinite => (F.signBit neg + F.maxCode, {})
  | .unsigned => (F.maxCode, {})
  | .e4m3 => if sat then (F.signBit neg + F.maxCode, { sat := 1 }) else (F.nanCode, {})
  | .ieee => if sat then (F.signBit neg + F.maxCode, { sat := 1 }) else (F.infCode neg, {})

/-- Store an exact value: rounded once, policy and flush applied; a NaN is the canonical one (R138, R149). -/
def Fmt.store (F : Fmt) (rnd : Rnd) (sat : Bool) : Num → Nat × Fl
  | .nan => (F.nanCode, {})
  | .inf s => F.storeInf sat s
  | .fin s m e => F.storeFin rnd sat s m 1 e

/-! ## A36 (R142, R144, R151) -/

/-- n/d * 2^e with a sign in A36, round to nearest even; the Bool is OVF (Table 6.4, A36 addition). -/
def a36OfQ (neg : Bool) (n d : Nat) (e : Int) : A36 × Bool :=
  let F := Fmt.a36
  let (m, x, _) := F.roundMag .rne n d e
  let c := F.magCode m x
  if c > F.maxCode then (BitVec.ofNat 36 (F.infCode neg), true) else (BitVec.ofNat 36 (F.signBit neg + c), false)

def rnd36F : Num → A36 × Bool
  | .nan => (BitVec.ofNat 36 Fmt.a36.nanCode, false)
  | .inf s => (BitVec.ofNat 36 (Fmt.a36.infCode s), false)
  | .fin s m e => a36OfQ s m 1 e

/-- rnd36 of the pseudocode of R153, R156 and R160. -/
def rnd36 (v : Num) : A36 := (rnd36F v).1

def A36.val (a : A36) : Num := Fmt.a36.decode a.toNat

/-- One addition rounded to A36, with OVF and NAN_GEN. -/
def a36Add (a b : A36) : A36 × Fl :=
  let (v, g) := (A36.val a).addX (A36.val b)
  let (r, o) := rnd36F v
  (r, { ovf := o, nanGen := g })

/-- A value rounded to A16, and whether it was nonzero and became zero (UNF, R148); none beyond the A16 range (R155). -/
def rnd16 : Num → Option (Num × Bool)
  | .fin s m e =>
    let F := Fmt.a16
    let (q, x, _) := F.roundMag .rne m 1 e
    if F.magCode q x > F.maxCode then none else some (.fin s q x, decide (m ≠ 0) && q == 0)
  | _ => none

/-- Quotient of two values as sign, numerator, denominator and exponent, or a special (R149). -/
inductive Quot where
  | num (v : Num) (nanGen : Bool)
  | q (neg : Bool) (n d : Nat) (e : Int)
  deriving DecidableEq, Repr

/-- a ÷ b exactly: 0 ÷ 0 and ∞ ÷ ∞ are invalid, x ÷ 0 is infinite. -/
def Num.divX : Num → Num → Quot
  | .nan, _ => .num .nan false
  | _, .nan => .num .nan false
  | .inf _, .inf _ => .num .nan true
  | .inf s, .fin t _ _ => .num (.inf (s != t)) false
  | .fin s _ _, .inf t => .num (.fin (s != t) 0 0) false
  | .fin s m e, .fin t n f =>
    if n = 0 then (if m = 0 then .num .nan true else .num (.inf (s != t)) false)
    else .q (s != t) m n (e - f)

/-- A quotient rounded once into a stored format. -/
def Fmt.storeQuot (F : Fmt) (rnd : Rnd) (sat : Bool) : Quot → Nat × Fl
  | .num v g => let (c, fl) := F.store rnd sat v; (c, { fl with nanGen := fl.nanGen || g })
  | .q s n d e => F.storeFin rnd sat s n d e

/-- A quotient rounded to A36. -/
def rnd36Quot : Quot → A36 × Fl
  | .num v g => let (r, o) := rnd36F v; (r, { ovf := o, nanGen := g })
  | .q s n d e => let (r, o) := a36OfQ s n d e; (r, { ovf := o })

/-! ## The stochastic-rounding generator (R146) -/

def rotl32 (v : W32) (n : Nat) : W32 := v.rotateLeft n

/-- One of the 8 rounds of R146. -/
def srRound (r : Nat) (x : W32 × W32 × W32 × W32) : W32 × W32 × W32 × W32 :=
  let (x0, x1, x2, x3) := x
  let x0 := x0 + x1 + BitVec.ofNat 32 r * 0x9E3779B9#32
  let x3 := rotl32 (x3 ^^^ x0) 16
  let x2 := x2 + x3
  let x1 := rotl32 (x1 ^^^ x2) 12
  let x0 := x0 + x1
  let x3 := rotl32 (x3 ^^^ x0) 8
  let x2 := x2 + x3
  let x1 := rotl32 (x1 ^^^ x2) 7
  (x0, x1, x2, x3)

/-- rbits of the four keys (R146). -/
def srBits (seed step : W64) (tensor idx : Nat) : W32 :=
  let x0 := BitVec.ofNat 32 idx ^^^ BitVec.ofNat 32 (fld seed 0 32)
  let x1 := BitVec.ofNat 32 ((tensor % 2 ^ 24) * 256 + (idx / 2 ^ 32) % 256) ^^^ BitVec.ofNat 32 (fld seed 32 32)
  let x2 := BitVec.ofNat 32 (fld step 0 32)
  let x3 := BitVec.ofNat 32 (fld step 32 32) ^^^ 0x6B65726D#32
  let (y0, _, y2, _) := (List.range 8).foldl (fun x r => srRound r x) (x0, x1, x2, x3)
  y0 ^^^ y2

/-! ## The reference order (R153, R154) -/

/-- Sixteen terms, missing ones taken as +0 (R154). -/
def pad16 (ps : List Num) : List Num := ps ++ List.replicate (16 - ps.length) Num.zero

/-- One level of the tree of R153 over exact terms: pairs added and rounded to A36. -/
def treeLevel : List Num → List Num × Fl
  | a :: b :: r =>
    let (v, g) := a.addX b
    let (c, o) := rnd36F v
    let (rest, fl) := treeLevel r
    (A36.val c :: rest, Fl.join { ovf := o, nanGen := g } fl)
  | l => (l, {})

/-- The group sum of up to 16 exact terms by the fixed tree of four levels. -/
def groupSum (ps : List Num) : Num × Fl :=
  let (l1, f1) := treeLevel (pad16 ps)
  let (l2, f2) := treeLevel l1
  let (l3, f3) := treeLevel l2
  let (l4, f4) := treeLevel l3
  (l4.headD Num.zero, Fl.joinAll [f1, f2, f3, f4])

/-- Exact terms summed into the running total t, in groups of 16 (R153). -/
def sum36 (t : A36) (ps : List Num) : A36 × Fl :=
  (chunks 16 ps).foldl
    (fun (acc : A36 × Fl) g =>
      let (s, f1) := groupSum g
      let (v, ng) := (A36.val acc.1).addX s
      let (r, o) := rnd36F v
      (r, Fl.join acc.2 (Fl.join f1 { ovf := o, nanGen := ng })))
    (t, {})

def a36Zero : A36 := 0

/-- L16 (R141): the exact n/d * 2^e with a sign, to the nearest multiple of 2^−9, ties to even. -/
def l16Round (neg : Bool) (n d : Nat) (e : Int) : Int :=
  let (q, _) := roundAt .rne n d e (-9)
  if neg then -(q : Int) else q

end Sys2Proof.Machine
end

