-- ==== Sys2Proof/Machine/Codec.lean ====
section
/-! DEFINITION. The Ochre codec: samples, quantiser, prediction, motion search, refresh, and the arithmetic-coded bitstream
(12 R301 to R310, R315, R318 to R320). -/
namespace Sys2Proof.Machine

/-- What a stream's registers say of its frames (Tables 12.2 and 12.3). -/
structure OchDesc where
  d3 : Bool
  act : Bool
  sty : Nat
  emode : Nat
  x : Nat
  y : Nat
  z : Nat
  t : Nat
  period : Nat
  nbuf : Nat
  nshort : Nat

/-- The frame a block is coded in: its number, REFMARKS, the store buffer, the frame each buffer holds, the reconstructions
of the pool, and values the spec leaves open. -/
structure OchFrame where
  fnum : W32
  marks : List Nat
  store : Option Nat
  nums : List W32
  pool : List (Array Int)
  free : Nat → Nat

/-! ## Samples (R301, Table 12.4) -/

def OchDesc.bits (d : OchDesc) : Nat :=
  match d.sty with
  | 0 => 8
  | 1 => 10
  | 2 => 12
  | _ => 16
/-- Bytes a sample takes in memory. -/
def OchDesc.bps (d : OchDesc) : Nat := if d.sty = 0 then 1 else 2
def OchDesc.isFloat (d : OchDesc) : Bool := d.sty == 4 || d.sty == 5
def OchDesc.fmt (d : OchDesc) : Fmt := if d.sty = 4 then Fmt.fp16 else Fmt.bf16
def OchDesc.n (d : OchDesc) : Nat := d.x * d.y * d.z
/-- R of R308. -/
def OchDesc.rows (d : OchDesc) : Nat := if d.d3 then ceilDiv d.z 8 else ceilDiv d.y 8

def mapSample (d : OchDesc) (c : Nat) : Nat :=
  if d.isFloat then (if c < 0x8000 then c + 0x8000 else 0xFFFF - c) else c
def unmapSample (d : OchDesc) (u : Nat) : Nat :=
  if d.isFloat then (if u ≥ 0x8000 then u - 0x8000 else 0xFFFF - u) else u
/-- The value of a mapped float sample. -/
def OchDesc.val (d : OchDesc) (u : Int) : Num := d.fmt.decode (unmapSample d u.toNat)

/-- The clamp of R302; none where it is not stated and the sum lies outside 16 bits. -/
def clampRec (d : OchDesc) (k : Nat) (r : Int) : Option Int :=
  if !d.isFloat then some (max 0 (min r (2 ^ d.bits - 1)))
  else if k > 0 then
    let m : Int := d.fmt.maxCode
    some (max (0x7FFF - m) (min r (0x8000 + m)))
  else if 0 ≤ r ∧ r < 65536 then some r else none

/-! ## Blocks (R301) -/

def OchDesc.bx (d : OchDesc) : Nat := ceilDiv d.x 8
def OchDesc.by_ (d : OchDesc) : Nat := ceilDiv d.y 8
def OchDesc.bz (d : OchDesc) : Nat := if d.d3 then ceilDiv d.z 8 else 1
def OchDesc.blocks (d : OchDesc) : Nat := d.bx * d.by_ * d.bz

abbrev Pos3 := Nat × Nat × Nat

/-- Position of block i in blocks. -/
def OchDesc.blockPos (d : OchDesc) (i : Nat) : Pos3 := (i % d.bx, i / d.bx % d.by_, i / (d.bx * d.by_))
/-- The block at a position in blocks that may lie outside the frame. -/
def OchDesc.blockAt (d : OchDesc) (x y z : Int) : Option Nat :=
  if 0 ≤ x ∧ x < d.bx ∧ 0 ≤ y ∧ y < d.by_ ∧ 0 ≤ z ∧ z < d.bz then some (x.toNat + d.bx * (y.toNat + d.by_ * z.toNat)) else none
/-- The row of R308 that block i lies in. -/
def OchDesc.rowOf (d : OchDesc) (i : Nat) : Nat := if d.d3 then (d.blockPos i).2.2 else (d.blockPos i).2.1

def span (b n : Nat) : List Nat := (List.range (min 8 (n - 8 * b))).map (fun i => 8 * b + i)

/-- In-frame samples of block i in coding order. -/
def OchDesc.samples (d : OchDesc) (i : Nat) : List Pos3 :=
  let (bx, by_, bz) := d.blockPos i
  let zs := if d.d3 then span bz d.z else [0]
  zs.flatMap (fun z => (span by_ d.y).flatMap (fun y => (span bx d.x).map (fun x => (x, y, z))))

def OchDesc.idx (d : OchDesc) (p : Pos3) : Nat := p.1 + d.x * (p.2.1 + d.y * p.2.2)

/-! ## Intra prediction (R304) -/

def median (a b c : Int) : Int := max (min a b) (min (max a b) c)

/-- The neighbours a, b, c, d of a sample. -/
def neighbours (d : OchDesc) (fr : Array Int) (p : Pos3) : Int × Int × Int × Int :=
  let (x, y, z) := p
  let a := if x > 0 then some (fr.getD (d.idx (x - 1, y, z)) 0) else none
  let b := if y > 0 then some (fr.getD (d.idx (x, y - 1, z)) 0) else none
  let c := if x > 0 ∧ y > 0 then some (fr.getD (d.idx (x - 1, y - 1, z)) 0) else none
  let e := if z > 0 then some (fr.getD (d.idx (x, y, z - 1)) 0) else none
  let alt : Int := ((a.or b).or e).getD (2 ^ (d.bits - 1))
  (a.getD alt, b.getD alt, c.getD alt, e.getD alt)

/-- The value of mode DC for block i. -/
def dcValue (d : OchDesc) (fr : Array Int) (i : Nat) : Int :=
  let (bx, by_, bz) := d.blockPos i
  let zs := if d.d3 then span bz d.z else [0]
  let above := if by_ > 0 then zs.flatMap (fun z => (span bx d.x).map (fun x => (x, 8 * by_ - 1, z))) else []
  let left := if bx > 0 then zs.flatMap (fun z => (span by_ d.y).map (fun y => (8 * bx - 1, y, z))) else []
  let front := if bz > 0 then (span by_ d.y).flatMap (fun y => (span bx d.x).map (fun x => (x, y, 8 * bz - 1))) else []
  let l := (above ++ left ++ front).map (fun p => fr.getD (d.idx p) 0)
  let n := l.length
  if n = 0 then 2 ^ (d.bits - 1) else (l.foldl (· + ·) 0 + ((n / 2 : Nat) : Int)) / (n : Int)

def nmodes (d : OchDesc) : Nat := if d.d3 then 5 else 4

def intraPred (d : OchDesc) (mode : Nat) (dc : Int) (fr : Array Int) (p : Pos3) : Int :=
  let (a, b, c, e) := neighbours d fr p
  match mode with
  | 0 => dc
  | 1 => median a b (a + b - c)
  | 2 => a
  | 3 => b
  | _ => e

/-! ## Inter prediction (R305) -/

/-- A coordinate clamped to the frame's edge. -/
def edge (n : Nat) (v : Int) : Nat := (max 0 (min v ((n : Int) - 1))).toNat

/-- Component a of a vector. -/
def comp (v : List Int) (a : Nat) : Int := v.getD a 0

def interPred (d : OchDesc) (fr : Array Int) (v : List Int) (p : Pos3) : Int :=
  let (x, y, z) := p
  let x0 := (x : Int) + comp v 0 / 4
  let y0 := (y : Int) + comp v 1 / 4
  let z0 := (z : Int) + comp v 2 / 4
  let fx := comp v 0 % 4
  let fy := comp v 1 % 4
  let fz := comp v 2 % 4
  let r (i j k : Int) : Int := fr.getD (d.idx (edge d.x (x0 + i), edge d.y (y0 + j), edge d.z (z0 + k))) 0
  let plane (k : Int) : Int :=
    (4 - fx) * (4 - fy) * r 0 0 k + fx * (4 - fy) * r 1 0 k + (4 - fx) * fy * r 0 1 k + fx * fy * r 1 1 k
  if d.d3 then ((4 - fz) * plane 0 + fz * plane 1 + 32) / 64 else (plane 0 + 8) / 16

/-- How a block is predicted. -/
inductive BlkPred where
  | intra (m : Nat)
  | inter (ref : Nat) (v : List Int)
  deriving DecidableEq, Repr

def predict (d : OchDesc) (f : OchFrame) (pr : BlkPred) (dc : Int) (fr : Array Int) (p : Pos3) : Int :=
  match pr with
  | .intra m => intraPred d m dc fr p
  | .inter ref v => interPred d (f.pool.getD ref #[]) v p

/-! ## Refresh (R308) -/

/-- E(f). -/
def OchDesc.refreshEnd (d : OchDesc) (f : Nat) : Nat := (f + 1) * d.rows / d.period
def OchDesc.phase (d : OchDesc) (n : W32) : Nat := n.toNat % d.period

/-- A block that may only be intra: the refresh slab, frame 0, the activation profile. -/
def intraOnly (d : OchDesc) (n : W32) (i : Nat) : Bool :=
  d.act || n == 0 ||
  (let f := d.phase n; decide (f * d.rows / d.period ≤ d.rowOf i) && decide (d.rowOf i < d.refreshEnd f))

/-- A buffer the frame may reference. -/
def OchFrame.refOk (f : OchFrame) (b : Nat) : Bool := f.marks.getD b 0 != 0 && f.store != some b

/-- Buffer b and vector v are allowed for block i (R308). Every sample the formula of R305 names is read (log 30). -/
def mayRef (d : OchDesc) (f : OchFrame) (i b : Nat) (v : List Int) : Bool :=
  f.refOk b &&
  (let ph := d.phase f.fnum
   if d.rowOf i < d.refreshEnd ph then
     let m := f.nums.getD b 0
     let lim := 8 * d.refreshEnd (d.phase m)
     let ax := if d.d3 then 2 else 1
     let n := if d.d3 then d.z else d.y
     let hi := min (8 * d.rowOf i + 7) (n - 1)
     f.marks.getD b 0 == 1 && decide ((f.fnum - m).toNat ≤ ph) &&
     decide (edge n ((hi : Int) + comp v ax / 4 + 1) < lim)
   else true)

/-! ## Motion search (R307) -/

def clampVec (d : OchDesc) (v : List Int) : List Int :=
  (v.map (fun c => max (-8192) (min c 8191))).take (if d.d3 then 3 else 2)

def axes (d : OchDesc) : Nat := if d.d3 then 3 else 2

/-- The vector of a block at a place relative to block i, in a list of blocks coded. -/
def vecAt (d : OchDesc) (vs : Nat → Option (List Int)) (i : Nat) (dx dy dz : Int) : Option (List Int) :=
  let (x, y, z) := d.blockPos i
  (d.blockAt ((x : Int) + dx) ((y : Int) + dy) ((z : Int) + dz)).bind vs

/-- Velocity × frames, in quarter cells, rounded to the nearest with ties away from zero; a free value for a velocity that is no
number, the same whenever the velocity and the frames are (R303; log 30). -/
def hintComp (code n : Nat) : Int :=
  match Fmt.bf16.decode code with
  | .nan => ((Config.hintOpen code n).toNat : Int) - 8192
  | .inf s => if n = 0 then ((Config.hintOpen code n).toNat : Int) - 8192 else if s then -8192 else 8191
  | .fin s m e =>
    let a := 8 * m * n
    let q := if e ≥ 0 then a * 2 ^ e.toNat else a / 2 ^ (-e).toNat
    let r : Int := (((q + 1) / 2 : Nat) : Int)
    if s then -r else r

/-- The candidates of Table 12.6 for block i and buffer b. `prev` and `cur` are the vectors of the previous frame and of
this one so far. -/
def candidates (d : OchDesc) (f : OchFrame) (hint : Option (List Nat)) (prev cur : Nat → Option (List Int)) (last : Option (List Int))
    (i b : Nat) : List (List Int) :=
  let n := axes d
  let (x, y, z) := d.blockPos i
  let moved (v : List Int) : Option (List Int) :=
    (d.blockAt ((8 * x + comp v 0 / 4) / 8) ((8 * y + comp v 1 / 4) / 8) ((8 * z + comp v 2 / 4) / 8)).bind prev
  let co := prev i
  let hv := hint.map (fun h =>
    (List.range n).map (fun a => hintComp (h.getD (n * i + a) 0) (f.fnum - f.nums.getD b 0).toNat))
  let l : List (Option (List Int)) :=
    [some (List.replicate n 0), co, vecAt d cur i (-1) 0 0, vecAt d cur i 0 (-1) 0,
     if d.d3 then vecAt d cur i 0 0 (-1) else vecAt d cur i 1 (-1) 0, co.bind moved, hv, last]
  (l.filterMap id).map (clampVec d) |>.eraseDups

def sad (l : List (Int × Int)) : Nat := l.foldl (fun t p => t + (p.1 - p.2).natAbs) 0

/-- The block's original samples against a prediction. -/
def sadInter (d : OchDesc) (f : OchFrame) (orig : Array Int) (i b : Nat) (v : List Int) : Nat :=
  sad ((d.samples i).map (fun p => (orig.getD (d.idx p) 0, interPred d (f.pool.getD b #[]) v p)))

def sadIntra (d : OchDesc) (orig : Array Int) (i m : Nat) : Nat :=
  let dc := dcValue d orig i
  sad ((d.samples i).map (fun p => (orig.getD (d.idx p) 0, intraPred d m dc orig p)))

/-- The least of a list by a key, the earliest winning ties. -/
def leastBy {α : Type} (key : α → Nat) : List α → Option (α × Nat)
  | [] => none
  | a :: l =>
    match leastBy key l with
    | some (b, k) => if k < key a then some (b, k) else some (a, key a)
    | none => some (a, key a)

/-- Offsets of a refinement stage in raster order, x fastest. -/
def offsets (n : Nat) (l : List Int) : List (List Int) :=
  match n with
  | 2 => l.flatMap (fun y => l.map (fun x => [x, y]))
  | _ => l.flatMap (fun z => l.flatMap (fun y => l.map (fun x => [x, y, z])))

def inVecRange (v : List Int) : Bool := v.all (fun c => decide (-8192 ≤ c) && decide (c ≤ 8191))

def refine (d : OchDesc) (f : OchFrame) (orig : Array Int) (i b : Nat) (v : List Int) (steps : List Int) : List Int :=
  let cs := ((offsets (axes d) steps).map (fun o => (v.zip o).map (fun p => p.1 + p.2))).filter
    (fun w => inVecRange w && mayRef d f i b w)
  match leastBy (sadInter d f orig i b) cs with
  | some (w, _) => w
  | none => v

/-- The prediction an encoder chooses for block i (R307). -/
def chooseBlock (d : OchDesc) (f : OchFrame) (orig : Array Int) (hint : Option (List Nat)) (prev cur : Nat → Option (List Int))
    (last : Option (List Int)) (i : Nat) : BlkPred :=
  let (m, ks) := (leastBy (sadIntra d orig i) (List.range (nmodes d))).getD (0, 0)
  if intraOnly d f.fnum i then .intra m
  else
    let cs := (List.range d.nbuf).flatMap (fun b =>
      ((candidates d f hint prev cur last i b).filter (mayRef d f i b)).map (fun v => (b, v)))
    match leastBy (fun c => sadInter d f orig i c.1 c.2) cs with
    | none => .intra m
    | some ((b, v), _) =>
      let v1 := refine d f orig i b v [-8, -4, 0, 4, 8]
      let v2 := refine d f orig i b v1 [-2, 0, 2]
      let v3 := refine d f orig i b v2 [-1, 0, 1]
      if sadInter d f orig i b v3 < ks then .inter b v3 else .intra m

/-! ## Quantiser (R302) -/

/-- Code a block with step k over the frame so far: the q of its samples in order, and the frame with the block. -/
def quantBlock (d : OchDesc) (f : OchFrame) (orig fr : Array Int) (pr : BlkPred) (k i : Nat) : List Int × Array Int :=
  let dc := dcValue d fr i
  let w : Int := 2 * k + 1
  (d.samples i).foldl
    (fun (qs, fr) p =>
      let pv := predict d f pr dc fr p
      let q := (orig.getD (d.idx p) 0 - pv + k) / w
      (qs ++ [q], fr.setIfInBounds (d.idx p) ((clampRec d k (pv + q * w)).getD 0)))
    ([], fr)

/-- The least |a - b| ≤ t of exact values. -/
def withinT (t a b : Num) : Bool := ((a.sub b).abs).le t

/-- Largest k of ABS on a float type to start from: min(32,767, T ÷ (2 × ulp(M))). -/
def absStart (t m : Num) : Nat :=
  match t, m with
  | .fin _ mt et, .fin _ _ em =>
    let e := et - em - 1
    min 32767 (if e ≥ 0 then mt * 2 ^ e.toNat else mt / 2 ^ (-e).toNat)
  | _, _ => 0

/-- Halve k until every sample of the block reconstructs within T. -/
def absHalve (d : OchDesc) (f : OchFrame) (orig fr : Array Int) (pr : BlkPred) (i : Nat) : Nat → Nat → Nat
  | 0, _ => 0
  | fuel + 1, k =>
    if k = 0 then 0
    else
      let (_, out) := quantBlock d f orig fr pr k i
      let t := Fmt.bf16.decode d.t
      if (d.samples i).all (fun p => withinT t (d.val (orig.getD (d.idx p) 0)) (d.val (out.getD (d.idx p) 0))) then k
      else absHalve d f orig fr pr i fuel (k / 2)

/-- The step of block i (the table of R302). -/
def chooseK (d : OchDesc) (f : OchFrame) (orig fr : Array Int) (pr : BlkPred) (i : Nat) : Nat :=
  let vs := (d.samples i).map (fun p => d.val (orig.getD (d.idx p) 0))
  match d.emode with
  | 0 => 0
  | 1 =>
    if !d.isFloat then d.t
    else if vs.any (fun v => !v.isFin) then 0
    else
      let m := vs.foldl (fun m v => if m.le v.abs then v.abs else m) ((vs.headD Num.zero).abs)
      absHalve d f orig fr pr i 17 (absStart (Fmt.bf16.decode d.t) m)
  | _ => if vs.any (fun v => !v.isFin) then 0 else d.t

/-! ## Arithmetic coder (R319) -/

def ctxInit : List Nat := List.replicate 29 32768

/-- The encoder: the code so far as one number, the bytes shifted out, the range and the contexts. -/
structure Enc where
  low : Nat
  sh : Nat
  rng : Nat
  ctx : List Nat

def Enc.init : Enc := { low := 0, sh := 0, rng := 0xFFFFFFFF, ctx := ctxInit }

def Enc.norm : Nat → Enc → Enc
  | 0, e => e
  | n + 1, e => if e.rng < 2 ^ 24 then Enc.norm n { e with low := e.low * 256, sh := e.sh + 1, rng := e.rng * 256 } else e

def Enc.cut (e : Enc) (split : Nat) (b : Bool) : Enc :=
  Enc.norm 4 (if b then { e with low := e.low + split, rng := e.rng - split } else { e with rng := split })

/-- The probability of a context after a bin. -/
def adapt (p : Nat) (b : Bool) : Nat := if b then p - p / 32 else p + (65536 - p) / 32

def Enc.bin (e : Enc) (c : Nat) (b : Bool) : Enc :=
  let p := e.ctx.getD c 32768
  Enc.cut { e with ctx := e.ctx.set c (adapt p b) } (e.rng / 65536 * p) b

def Enc.bypass (e : Enc) (b : Bool) : Enc := e.cut (e.rng / 2) b

/-- n bypass bins, most significant first. -/
def Enc.bits (e : Enc) (n v : Nat) : Enc := (List.range n).foldl (fun e i => e.bypass (v.testBit (n - 1 - i))) e

def Enc.uev (e : Enc) (set : Nat) (v : Nat) : Enc :=
  let n := Nat.log2 (v + 1)
  let e1 := (List.range n).foldl (fun e i => e.bin (set + min i 3) true) e
  (e1.bin (set + min n 3) false).bits n (v + 1 - 2 ^ n)

def Enc.sev (e : Enc) (set : Nat) (v : Int) : Enc := e.uev set (if v > 0 then 2 * v.toNat - 1 else 2 * v.natAbs)

/-- The payload: the bytes shifted out and the 4 bytes of the low register. -/
def Enc.bytes (e : Enc) : List Byte := (toBytesLE (e.sh + 4) e.low).reverse

/-- The decoder: bytes not read yet, value, range, contexts. -/
structure Dec where
  bs : List Byte
  val : Nat
  rng : Nat
  ctx : List Nat

def Dec.init (bs : List Byte) : Dec :=
  { bs := bs.drop 4, val := ofBytesLE ((bs ++ [0, 0, 0, 0]).take 4).reverse, rng := 0xFFFFFFFF, ctx := ctxInit }

def Dec.norm : Nat → Dec → Dec
  | 0, e => e
  | n + 1, e =>
    if e.rng < 2 ^ 24 then
      Dec.norm n { e with bs := e.bs.drop 1, val := e.val * 256 % 2 ^ 32 + (e.bs.headD 0).toNat, rng := e.rng * 256 }
    else e

def Dec.cut (e : Dec) (split : Nat) : Bool × Dec :=
  if e.val < split then (false, Dec.norm 4 { e with rng := split })
  else (true, Dec.norm 4 { e with val := e.val - split, rng := e.rng - split })

def Dec.bin (e : Dec) (c : Nat) : Bool × Dec :=
  let p := e.ctx.getD c 32768
  let (b, e1) := e.cut (e.rng / 65536 * p)
  (b, { e1 with ctx := e1.ctx.set c (adapt p b) })

def Dec.bypass (e : Dec) : Bool × Dec := e.cut (e.rng / 2)

def Dec.bits (e : Dec) (n : Nat) : Nat × Dec :=
  (List.range n).foldl (fun (v, e) _ => let (b, e1) := Dec.bypass e; (2 * v + (if b then 1 else 0), e1)) (0, e)

/-- The leading ones of a uev: at most 19 ones. -/
def Dec.ones (set : Nat) : Nat → Nat → Dec → Option (Nat × Dec)
  | 0, _, _ => none
  | fuel + 1, n, e =>
    match Dec.bin e (set + min n 3) with
    | (true, e1) => Dec.ones set fuel (n + 1) e1
    | (false, e1) => some (n, e1)

def Dec.uev (e : Dec) (set : Nat) : Option (Nat × Dec) :=
  match Dec.ones set 20 0 e with
  | none => none
  | some (n, e1) =>
    let (v, e2) := e1.bits n
    some (2 ^ n - 1 + v, e2)

def Dec.sev (e : Dec) (set : Nat) : Option (Int × Dec) :=
  match e.uev set with
  | none => none
  | some (u, e1) => some (if u % 2 = 1 then ((u + 1) / 2 : Nat) else -((u / 2 : Nat) : Int), e1)

/-! ## Blocks in the bitstream (R320) -/

def Ctxs.inter : Nat := 0
def Ctxs.imode : Nat := 1
def Ctxs.mvd : Nat := 5
def Ctxs.dqk : Nat := 9
def Ctxs.zblk : Nat := 13
def Ctxs.sig : Nat := 14
def Ctxs.mag (c : Nat) : Nat := 17 + 4 * c

/-- mvp for block i. -/
def mvp (d : OchDesc) (cur : Nat → Option (List Int)) (i : Nat) : List Int :=
  let z : List Int := []
  let a := (vecAt d cur i (-1) 0 0).getD z
  let b := (vecAt d cur i 0 (-1) 0).getD z
  let c := (if d.d3 then vecAt d cur i 0 0 (-1) else vecAt d cur i 1 (-1) 0).getD z
  (List.range (axes d)).map (fun k => median (comp a k) (comp b k) (comp c k))

/-- The context of SIG and MAG of sample j of a block: how many of its left and above samples in the block are nonzero. -/
def sigCtx (d : OchDesc) (i : Nat) (qs : List Int) (p : Pos3) : Nat :=
  let ps := d.samples i
  let at_ (x y z : Nat) : Nat :=
    match (ps.zip qs).find? (fun e => e.1 == (x, y, z)) with
    | some (_, q) => if q = 0 then 0 else 1
    | none => 0
  let (x, y, z) := p
  (if x > 0 then at_ (x - 1) y z else 0) + (if y > 0 then at_ x (y - 1) z else 0)

def encSamples (d : OchDesc) (i : Nat) (qs : List Int) (e : Enc) : Enc :=
  let ps := d.samples i
  (ps.zip qs).foldl
    (fun (e : Enc) (p, q) =>
      let c := sigCtx d i qs p
      if q = 0 then e.bin (Ctxs.sig + c) false
      else ((e.bin (Ctxs.sig + c) true).bypass (decide (q < 0))).uev (Ctxs.mag c) (q.natAbs - 1))
    e

/-- Code block i: its prediction, kp before it, its step and q. -/
def encBlock (d : OchDesc) (f : OchFrame) (cur : Nat → Option (List Int)) (i : Nat) (pr : BlkPred) (kp k : Nat) (qs : List Int)
    (e : Enc) : Enc :=
  let e1 := if intraOnly d f.fnum i then e else e.bin Ctxs.inter (match pr with | .inter _ _ => true | _ => false)
  let e2 := match pr with
    | .intra m =>
      let e3 : Enc := (List.range m).foldl (fun (e : Enc) j => e.bin (Ctxs.imode + j) true) e1
      if m < nmodes d - 1 then e3.bin (Ctxs.imode + m) false else e3
    | .inter ref v =>
      ((v.zip (mvp d cur i))).foldl (fun (e : Enc) (a, b) => e.sev Ctxs.mvd (a - b)) (e1.bits 4 ref)
  let e3 := if d.emode ≠ 0 then e2.sev Ctxs.dqk ((k : Int) - kp) else e2
  if qs.all (· == 0) then e3.bin Ctxs.zblk true else encSamples d i qs (e3.bin Ctxs.zblk false)

/-- What coding the blocks of a frame has gathered. -/
structure EncRun where
  out : Array Int
  vecs : List (Option (List Int))
  last : Option (List Int)
  kp : Nat
  enc : Enc

/-- Code every block of a frame of mapped samples. -/
def encFrame (d : OchDesc) (f : OchFrame) (orig : Array Int) (hint : Option (List Nat)) (prev : List (Option (List Int))) : EncRun :=
  (List.range d.blocks).foldl
    (fun r i =>
      let cur (j : Nat) : Option (List Int) := (r.vecs[j]?).join
      let pr := chooseBlock d f orig hint (fun j => (prev[j]?).join) cur r.last i
      let k := chooseK d f orig r.out pr i
      let (qs, fr) := quantBlock d f orig r.out pr k i
      let v := match pr with | .inter _ v => some v | .intra _ => none
      { out := fr, vecs := r.vecs ++ [v], last := v.or r.last, kp := k, enc := encBlock d f cur i pr r.kp k qs r.enc })
    { out := Array.replicate d.n 0, vecs := [], last := none, kp := 0, enc := Enc.init }

/-! ## Decoding -/

/-- The q of a block's samples. -/
def decSamples (d : OchDesc) (i : Nat) : List Pos3 → List Int → Dec → Option (List Int × Dec)
  | [], qs, e => some (qs, e)
  | p :: ps, qs, e =>
    let c := sigCtx d i qs p
    match e.bin (Ctxs.sig + c) with
    | (false, e1) => decSamples d i ps (qs ++ [0]) e1
    | (true, e1) =>
      let (s, e2) := e1.bypass
      match e2.uev (Ctxs.mag c) with
      | none => none
      | some (u, e3) =>
        let q : Int := 1 + (u : Int)
        decSamples d i ps (qs ++ [if s then -q else q]) e3

def decMode (d : OchDesc) : Nat → Nat → Dec → Nat × Dec
  | 0, m, e => (m, e)
  | fuel + 1, m, e =>
    if m < nmodes d - 1 then
      match e.bin (Ctxs.imode + m) with
      | (true, e1) => decMode d fuel (m + 1) e1
      | (false, e1) => (m, e1)
    else (m, e)

/-- The vector of a block: its predictor and differences. -/
def decVec : List Int → Dec → Option (List Int × Dec)
  | [], e => some ([], e)
  | b :: bs, e =>
    match e.sev Ctxs.mvd with
    | none => none
    | some (v, e1) =>
      match decVec bs e1 with
      | none => none
      | some (vs, e2) => if inVecRange [b + v] then some ((b + v) :: vs, e2) else none

/-- How block i is predicted; none where that is corrupt (R306, R320). -/
def decPred (d : OchDesc) (f : OchFrame) (cur : Nat → Option (List Int)) (i : Nat) (e : Dec) : Option (BlkPred × Dec) :=
  let (inter, e1) := if intraOnly d f.fnum i then (false, e) else e.bin Ctxs.inter
  if !inter then let (m, e2) := decMode d 5 0 e1; some (.intra m, e2)
  else
    let (ref, e2) := e1.bits 4
    match decVec (mvp d cur i) e2 with
    | none => none
    | some (v, e3) => if f.refOk ref then some (.inter ref v, e3) else none

structure DecRun where
  out : Array Int
  vecs : List (Option (List Int))
  kp : Int
  dec : Dec

def reconBlock (d : OchDesc) (f : OchFrame) (fr : Array Int) (pr : BlkPred) (k i : Nat) (qs : List Int) : Array Int :=
  let dc := dcValue d fr i
  ((d.samples i).zip qs).foldl
    (fun fr (p, q) =>
      let r := predict d f pr dc fr p + q * (2 * k + 1)
      fr.setIfInBounds (d.idx p) ((clampRec d k r).getD ((f.free (d.idx p) % 65536 : Nat) : Int)))
    fr

def decBlock (d : OchDesc) (f : OchFrame) (r : DecRun) (i : Nat) : Option DecRun :=
  let cur (j : Nat) : Option (List Int) := (r.vecs[j]?).join
  match decPred d f cur i r.dec with
  | none => none
  | some (pr, e1) =>
    match (if d.emode = 0 then some (0, e1) else e1.sev Ctxs.dqk) with
    | none => none
    | some (dk, e2) =>
      let kp := r.kp + dk
      if kp < 0 ∨ kp > 32767 then none
      else
        let (z, e3) := e2.bin Ctxs.zblk
        let ps := d.samples i
        match (if z then some (ps.map (fun _ => (0 : Int)), e3) else decSamples d i ps [] e3) with
        | none => none
        | some (qs, e4) =>
          let k := if d.emode = 0 then 0 else kp.toNat
          some { out := reconBlock d f r.out pr k i qs, kp := kp, dec := e4,
                 vecs := r.vecs ++ [match pr with | .inter _ v => some v | .intra _ => none] }

def decBlocks (d : OchDesc) (f : OchFrame) : List Nat → DecRun → Option DecRun
  | [], r => some r
  | i :: is, r =>
    match decBlock d f r i with
    | none => none
    | some r1 => decBlocks d f is r1

/-- Decode an arithmetic payload: the reconstruction; none where it is corrupt. -/
def decFrame (d : OchDesc) (f : OchFrame) (payload : List Byte) : Option (Array Int × List (Option (List Int))) :=
  (decBlocks d f (List.range d.blocks) { out := Array.replicate d.n 0, vecs := [], kp := 0, dec := Dec.init payload }).map
    (fun r => (r.out, r.vecs))

/-! ## Raw payloads (R315, R318) -/

def rawLen (d : OchDesc) : Nat := ceilDiv (d.n * d.bits) 8

def rawPayload (d : OchDesc) (orig : Array Int) : List Byte :=
  toBytesLE (rawLen d) (orig.toList.reverse.foldl (fun a u => a * 2 ^ d.bits + u.toNat) 0)

def rawDecode (d : OchDesc) (payload : List Byte) : Array Int :=
  ((List.range d.n).map (fun i => ((bitsAt payload (d.bits * i) d.bits : Nat) : Int))).toArray

/-! ## Headers (Tables 12.10 and 12.11) -/

def streamHeader (d : OchDesc) : List Byte :=
  toBytesLE 64 (0x4F434852 + 2 ^ 32 + b2n d.d3 * 2 ^ 40 + b2n d.act * 2 ^ 41 + d.sty * 2 ^ 42 + d.emode * 2 ^ 45 +
    (d.x - 1) * 2 ^ 48 + (d.y - 1) * 2 ^ 62 + (d.z - 1) * 2 ^ 76 + d.t * 2 ^ 88 + (d.period - 1) * 2 ^ 104 +
    (d.nbuf - 1) * 2 ^ 112 + (d.nshort - 1) * 2 ^ 116)

def marksNum (marks : List Nat) : Nat := marks.zipIdx.foldl (fun a (m, b) => a + m * 2 ^ (2 * b)) 0

def frameHeader (f : OchFrame) (plen : Nat) (raw long : Bool) (crc : W32) (step : W64) : List Byte :=
  toBytesLE 64 (f.fnum.toNat + plen * 2 ^ 32 + b2n raw * 2 ^ 72 + b2n f.store.isSome * 2 ^ 73 + f.store.getD 0 * 2 ^ 74 +
    b2n long * 2 ^ 78 + marksNum f.marks * 2 ^ 80 + crc.toNat * 2 ^ 112 + step.toNat * 2 ^ 144)

end Sys2Proof.Machine
end

