-- ==== Sys2Proof/Machine/Func.lean ====
section
/-! DEFINITION. The functions of the Madder unit: exponential, logarithm, reciprocal, reciprocal square root
(06 R167), lake tables (06 R162 to R165) and the built-in tables (06 R437).
The transcendental functions are computed in fixed point with 640 fraction bits and rounded once (DEDUCED, log 8:
correct rounding of the exact value; an exact tie cannot occur for an argument other than those answered exactly). -/
namespace Sys2Proof.Machine

/-- Fraction bits of the fixed-point evaluation. -/
def fxP : Nat := 640
/-- 1 in fixed point. -/
def fxOne : Nat := 2 ^ fxP

/-- atan(1/n) (alternating) or atanh(1/n): the series Σ ± 1/((2i+1) n^(2i+1)), `fuel` terms. -/
def fxAtanSeries (alt : Bool) (n : Nat) : Nat → Nat → Nat → Int → Int
  | 0, _, _, acc => acc
  | fuel + 1, i, p, acc =>
    let t : Int := (p / (2 * i + 1) : Nat)
    fxAtanSeries alt n fuel (i + 1) (p / (n * n)) (if alt && i % 2 == 1 then acc - t else acc + t)

def fxAtan (alt : Bool) (n : Nat) : Int := fxAtanSeries alt n 330 0 (fxOne / n) 0

/-- ln 2 = 18 atanh(1/26) − 2 atanh(1/4801) + 8 atanh(1/8749). -/
def fxLn2 : Nat := (18 * fxAtan false 26 - 2 * fxAtan false 4801 + 8 * fxAtan false 8749).toNat
/-- π = 16 atan(1/5) − 4 atan(1/239). -/
def fxPi : Nat := (16 * fxAtan true 5 - 4 * fxAtan true 239).toNat

/-- Integer square root by Newton steps from above; `fuel` steps. -/
def isqrtLoop (n : Nat) : Nat → Nat → Nat
  | 0, x => x
  | fuel + 1, x => let y := (x + n / x) / 2; if y < x then isqrtLoop n fuel y else x

/-- ⌊√n⌋. -/
def isqrt (n : Nat) : Nat :=
  if n = 0 then 0 else isqrtLoop n (Nat.log2 n + 10) (2 ^ (Nat.log2 n / 2 + 1))

/-- Σ f^i / i! for a fixed-point f in [0, 1). -/
def fxExpSeries (f : Nat) : Nat → Nat → Nat → Nat → Nat
  | 0, _, _, acc => acc
  | fuel + 1, i, t, acc => if t = 0 then acc else fxExpSeries f fuel (i + 1) (t * f / fxOne / (i + 1)) (acc + t)

/-- e^x of a fixed-point x: mantissa and exponent, the value being mant * 2^exp. -/
def fxExp (x : Int) : Nat × Int :=
  let k := x / (fxLn2 : Int)
  let f := (x - k * fxLn2).toNat
  (fxExpSeries f 300 0 fxOne 0, k - fxP)

/-- m * 2^e in fixed point, truncated. -/
def fxOf (neg : Bool) (m : Nat) (e : Int) : Int :=
  let s := e + fxP
  let v : Nat := if 0 ≤ s then m * 2 ^ s.toNat else m / 2 ^ (-s).toNat
  if neg then -(v : Int) else v

/-- The exact exponential, near enough to round: arguments beyond ±1024 give values beyond every format. -/
def expNum : Num → Num
  | .nan => .nan
  | .inf s => if s then .zero else .inf false
  | .fin s m e =>
    if m = 0 then .fin false 1 0
    else if Num.lt (.fin false 1024 0) (.fin false m e) then .fin false 1 (if s then -1500 else 1500)
    else let (n, x) := fxExp (fxOf s m e); .fin false n x

/-- Σ z^(2i+1)/(2i+1), fixed point. -/
def fxAtanhSeries (z2 : Nat) : Nat → Nat → Nat → Nat → Nat
  | 0, _, _, acc => acc
  | fuel + 1, i, p, acc =>
    if p = 0 then acc else fxAtanhSeries z2 fuel (i + 1) (p * z2 / fxOne) (acc + p / (2 * i + 1))

/-- ln(m * 2^e) of a positive value, fixed point. -/
def fxLn (m : Nat) (e : Int) : Int :=
  let l := Nat.log2 m
  let y := if l ≤ fxP then m * 2 ^ (fxP - l) else m / 2 ^ (l - fxP)   -- in [1, 2)
  let z := (y - fxOne) * fxOne / (y + fxOne)
  2 * (fxAtanhSeries (z * z / fxOne) 300 0 z 0 : Int) + (e + l) * (fxLn2 : Int)

def numOfFx (x : Int) : Num := .fin (decide (x < 0)) x.natAbs (-(fxP : Int))

/-- 1 ÷ √(m * 2^e) for m > 0, with a sticky bit below the last place. -/
def rsqrtPos (m : Nat) (e : Int) : Num :=
  let (m', e') := if e % 2 = 0 then (m, e) else (2 * m, e - 1)
  let r := isqrt (2 ^ (2 * fxP) / m')
  let exact : Bool := decide (m' * (r * r) = 2 ^ (2 * fxP))
  .fin false (2 * r + (if exact then 0 else 1)) (-(fxP : Int) - 1 - e' / 2)

/-- 1 ÷ √x rounded to A36 (R160 step 4): a zero of either sign gives +∞ with no flag, a negative argument NaN. -/
def rsqrt36 (a : A36) : A36 × Fl :=
  match A36.val a with
  | .nan => (rnd36 .nan, {})
  | .inf s => if s then (rnd36 .nan, { nanGen := true }) else (rnd36 .zero, {})
  | .fin s m e =>
    if m = 0 then (rnd36 (.inf false), {})
    else if s then (rnd36 .nan, { nanGen := true })
    else (rnd36 (rsqrtPos m e), {})

/-! ## Lake tables -/

/-- The header of a table (Table 6.6). -/
structure LakeHdr where
  elo : Int
  shift : Nat
  limLo : Nat
  limHi : Nat
  cLo : Nat
  cHi : Nat
  deriving DecidableEq, Repr

/-- One segment (Table 6.5). -/
structure LakeSeg where
  yl : A36
  yh : A36
  q : A36
  deriving DecidableEq, Repr

/-- A BF16-style code with a 15-bit fraction, as a value (R163). -/
def m24Val (c : Nat) : Num := .fin false (2 ^ 15 + c % 2 ^ 15) ((c / 2 ^ 15 : Nat) - 127 - 15)

/-- The m24 code of a positive finite magnitude m * 2^e that a BF16 or FP16 input holds: its code with a 15-bit
fraction (R163 step 1). Values below the least normal code are only compared against 2^ELO, which is above them. -/
def m24Code (m : Nat) (e : Int) : Nat :=
  let l := Nat.log2 m
  let fr := if l ≤ 15 then m * 2 ^ (15 - l) else m / 2 ^ (l - 15)
  (e + l + 127).toNat * 2 ^ 15 + (fr - 2 ^ 15)

def LakeHdr.klo (h : LakeHdr) : Nat := 128 * (h.elo + 127).toNat

/-- The code of the lower edge of segment j ≥ 1 of a sign half. -/
def LakeHdr.edgeCode (h : LakeHdr) (j : Nat) : Nat := 256 * h.klo + (j - 1) * 2 ^ (h.shift + 8)

/-- Magnitude of the lower edge of segment j of a sign half: 0 for j = 0. -/
def LakeHdr.edge (h : LakeHdr) (j : Nat) : Num := if j = 0 then .zero else m24Val (h.edgeCode j)

/-- XL and XH of segment g (R163): segments 0 to 127 cover x ≤ −0, 128 to 255 x ≥ +0. -/
def LakeHdr.knots (h : LakeHdr) (g : Nat) : Num × Num :=
  if g < 128 then ((h.edge (128 - g)).neg, (h.edge (127 - g)).neg)
  else (h.edge (g - 128), h.edge (g - 127))

/-- Where an input falls (R163). `seg g tn tk`: segment g at u = tn / 2^tk. -/
inductive LakePos where
  | seg (g : Nat) (u : Num)
  | below
  | above
  | isNan
  deriving DecidableEq, Repr

def LakeHdr.locate (h : LakeHdr) : Num → LakePos
  | .nan => .isNan
  | .inf s => if s then .below else .above
  | .fin s m e =>
    if Num.lt (.fin false m e) (.pow2 h.elo) then
      let t := Num.fin false m (e - h.elo)
      if s then .seg 127 (Num.sub (.ofNat 1) t) else .seg 128 t
    else
      let d := m24Code m e - 256 * h.klo
      let j := 1 + d / 2 ^ (h.shift + 8)
      if j > 127 then (if s then .below else .above)
      else
        let t := Num.fin false (d % 2 ^ (h.shift + 8)) (-((h.shift + 8 : Nat) : Int))
        if s then .seg (127 - j) (Num.sub (.ofNat 1) t) else .seg (128 + j) t

/-- y = YL + u (YH − YL) + Q u (u − 1), exactly (R164). -/
def LakeSeg.eval (sg : LakeSeg) (u : Num) : Num :=
  let yl := A36.val sg.yl
  (yl.add (u.mul ((A36.val sg.yh).sub yl))).add ((A36.val sg.q).mul (u.mul (u.sub (.ofNat 1))))

/-- The result of a table for an input, exact, before the single rounding (R163, R164). -/
def lakeEval (h : LakeHdr) (seg : Nat → LakeSeg) (x : Num) : Num :=
  match h.locate x with
  | .isNan => .nan
  | .below => if h.limLo = 1 then x else Fmt.bf16.decode h.cLo
  | .above => if h.limHi = 1 then x else Fmt.bf16.decode h.cHi
  | .seg g u => (seg g).eval u

/-! ### The built-in tables (Table 6.7, R437) -/

inductive BuiltIn where
  | gelu | gelut | erf | silu
  deriving DecidableEq, Repr

def BuiltIn.hdr : BuiltIn → LakeHdr
  | .gelu => { elo := -28, shift := 5, limLo := 0, limHi := 1, cLo := 0x8000, cHi := 0 }
  | .gelut => { elo := -28, shift := 5, limLo := 0, limHi := 1, cLo := 0x8000, cHi := 0 }
  | .erf => { elo := -29, shift := 5, limLo := 0, limHi := 0, cLo := 0xBF80, cHi := 0x3F80 }
  | .silu => { elo := -25, shift := 5, limLo := 0, limHi := 1, cLo := 0x8000, cHi := 0 }

/-- Σ 2^i z^(2i+1) / (1·3·…·(2i+1)), fixed point; all terms positive. -/
def fxErfSeries (z2 : Nat) : Nat → Nat → Nat → Nat → Nat
  | 0, _, _, acc => acc
  | fuel + 1, i, t, acc =>
    if t = 0 then acc else fxErfSeries z2 fuel (i + 1) (2 * t * z2 / fxOne / (2 * i + 3)) (acc + t)

/-- erf(z) of a fixed-point z ≥ 0, fixed point. -/
def fxErf (z : Nat) : Nat :=
  let z2 := z * z / fxOne
  let s := fxErfSeries z2 3000 0 z 0
  let (m, x) := fxExp (-(z2 : Int))
  let sp := isqrt (fxPi * fxOne)
  let v := 2 * s * m / sp
  let k := x + fxP
  if 0 ≤ k then v * 2 ^ k.toNat else v / 2 ^ (-k).toNat

/-- The exact function of a built-in table at a knot or a midpoint, near enough to round. -/
def BuiltIn.f (b : BuiltIn) : Num → Num
  | .nan => .nan
  | .inf s => .inf s
  | .fin s m e =>
    if m = 0 then .zero
    else
      let ax := (fxOf false m e).toNat
      match b with
      | .erf => .fin s (fxErf ax) (-(fxP : Int))
      | .gelu =>
        let z := ax * fxOne / isqrt (2 * fxOne * fxOne)
        let w := if s then fxOne - fxErf z else fxOne + fxErf z
        .fin s (m * w) (e - fxP - 1)
      | .silu =>
        let (n, x) := fxExp (if s then (ax : Int) else -(ax : Int))
        -- x / (1 + e^-x)
        let den := (Num.fin false 1 0).add (.fin false n x)
        match Num.divX (.fin s m e) den with
        | .q sg a d k => .fin sg (a * 2 ^ (2 * fxP) / d) (k - 2 * fxP)
        | .num v _ => v
      | .gelut =>
        let c := isqrt (2 * fxOne * fxOne * fxOne / fxPi)          -- √(2/π)
        let x3 := ax * ax / fxOne * ax / fxOne
        let y := c * (ax + x3 * 44715 / 1000000) / fxOne
        let (n, k) := fxExp (if s then 2 * (y : Int) else -2 * (y : Int))
        let den := (Num.fin false 1 0).add (.fin false n k)
        match Num.divX (.fin s m e) den with
        | .q sg a d k => .fin sg (a * 2 ^ (2 * fxP) / d) (k - 2 * fxP)
        | .num v _ => v

/-- Segment g of a built-in table (R437): YL and YH in A36, Q from the midpoint. -/
def BuiltIn.seg (b : BuiltIn) (g : Nat) : LakeSeg :=
  let (xl, xh) := b.hdr.knots g
  let yl := rnd36 (b.f xl)
  let yh := rnd36 (b.f xh)
  let q : A36 :=
    if g = 127 ∨ g = 128 then 0
    else
      let xm := (xl.add xh).mul (.pow2 (-1))
      rnd36 ((Num.mul (.ofNat 2) ((A36.val yl).add (A36.val yh))).sub (Num.mul (.ofNat 4) (b.f xm)))
  { yl := yl, yh := yh, q := q }

/-! ### Loaded tables (R162, R165) -/

/-- Segment g of a 4,096-byte image (Table 6.5). -/
def lakeImageSeg (img : List Byte) (g : Nat) : LakeSeg :=
  let r := leAt img (16 * g) 16
  { yl := BitVec.ofNat 36 r, yh := BitVec.ofNat 36 (r >>> 36), q := BitVec.ofNat 36 (r >>> 72) }

/-- AUX bits [127:108] of record g. -/
def lakeImageAux (img : List Byte) (g : Nat) : Nat := leAt img (16 * g) 16 >>> 108

/-- The header of an image (Table 6.6). -/
def lakeImageHdr (img : List Byte) : LakeHdr :=
  let a0 := lakeImageAux img 0
  let a1 := lakeImageAux img 1
  { elo := (BitVec.ofNat 8 a0).toInt, shift := (a0 >>> 8) % 8, limLo := a1 % 4, limHi := (a1 >>> 2) % 4,
    cLo := lakeImageAux img 2 % 2 ^ 16, cHi := lakeImageAux img 3 % 2 ^ 16 }

/-- The first failing record of check 1, the format (R165); none when it passes. -/
def lakeCheckFormat (img : List Byte) : Option Nat :=
  let h := lakeImageHdr img
  if h.elo < -126 ∨ h.edgeCode 128 ≥ 256 * 0x7F80 then some 0
  else if h.limLo > 1 ∨ h.limHi > 1 then some 1
  else if h.limLo ≠ 0 ∧ h.cLo ≠ 0 then some 2
  else if h.limHi ≠ 0 ∧ h.cHi ≠ 0 then some 3
  else
    (List.range 256).find? (fun g =>
      let a := lakeImageAux img g
      let rsvd := match g with
        | 0 => a >>> 11
        | 1 => a >>> 4
        | 2 => a >>> 16
        | 3 => a >>> 16
        | _ => a
      let sg := lakeImageSeg img g
      rsvd != 0 || !(A36.val sg.yl).isFin || !(A36.val sg.yh).isFin || !(A36.val sg.q).isFin)

/-- Check 2: YH of segment g equals YL of segment g + 1 exactly. -/
def lakeCheckSeams (img : List Byte) : Option Nat :=
  (List.range 255).find? (fun g => (lakeImageSeg img g).yh != (lakeImageSeg img (g + 1)).yl)

/-- The monotonicity that a Full mdr.tld declares (R135): SPLIT, DIR_LO, DIR_HI. -/
structure LakeMono where
  split : Nat
  dirLo : Bool
  dirHi : Bool
  deriving DecidableEq, Repr

/-- Whether segment g is declared decreasing; with SPLIT 0 a single interval, taken in direction DIR_HI (from SPLIT up). -/
def LakeMono.decreasing (d : LakeMono) (g : Nat) : Bool := if g < d.split then d.dirLo else d.dirHi

/-- Check 3: every segment moves in its declared direction and |Q| is at most the rise. -/
def lakeCheckMono (img : List Byte) (d : LakeMono) : Option Nat :=
  (List.range 256).find? (fun g =>
    let sg := lakeImageSeg img g
    let (a, b) := if d.decreasing g then (A36.val sg.yh, A36.val sg.yl) else (A36.val sg.yl, A36.val sg.yh)
    !(a.le b && (A36.val sg.q).abs.le (b.sub a)))

/-- Check 4: the limits continue the declared direction at both ends. -/
def lakeCheckLimits (img : List Byte) (d : LakeMono) : Option Nat :=
  let h := lakeImageHdr img
  let lo := lakeImageSeg img 0
  let hi := lakeImageSeg img 255
  let yl := A36.val lo.yl
  let yh := A36.val hi.yh
  let xl := (h.knots 0).1
  let xh := (h.knots 255).2
  let loOk :=
    let lim := if h.limLo = 1 then xl else Fmt.bf16.decode h.cLo
    if d.decreasing 0 then yl.le lim else lim.le yl
  let hiOk :=
    let lim := if h.limHi = 1 then xh else Fmt.bf16.decode h.cHi
    if d.decreasing 255 then lim.le yh else yh.le lim
  if !loOk then some (if h.limLo = 1 then 1 else 2)
  else if !hiOk then some (if h.limHi = 1 then 1 else 3)
  else none

/-- All checks of R165 in order; the record of the first that fails. -/
def lakeCheck (img : List Byte) (mono : Option LakeMono) : Option Nat :=
  match lakeCheckFormat img with
  | some g => some g
  | none =>
    match lakeCheckSeams img, mono with
    | some g, _ => some g
    | none, none => none
    | none, some d =>
      match lakeCheckMono img d with
      | some g => some g
      | none => lakeCheckLimits img d

/-! ## Functions of one operand (R133, R149, R167) -/

inductive MadFn where
  | exp | log | rcp | rsqrt
  | builtIn (b : BuiltIn)
  | table (img : List Byte)
  deriving DecidableEq, Repr

/-- A result of a zero operand that is infinite (R133, Table 6.4): policy applied, no flag but SATCNT. -/
def storeZeroInf (F : Fmt) (sat neg : Bool) : Nat × Fl := F.storeInf sat neg

/-- One Madder result in the source's format F, with its flags. -/
def madApply (fn : MadFn) (F : Fmt) (sat : Bool) (code : Nat) : Nat × Fl :=
  let x := F.decode code
  let rd := Fl.ofRead x
  let out (r : Nat × Fl) : Nat × Fl := (r.1, Fl.join rd r.2)
  match x with
  | .nan => (F.nanCode, rd)
  | _ =>
    match fn with
    | .exp => out (F.store .rne sat (expNum x))
    | .log =>
      match x with
      | .fin s m e =>
        if m = 0 then out (storeZeroInf F sat true)
        else if s then out (F.nanCode, { nanGen := true })
        else out (F.store .rne sat (numOfFx (fxLn m e)))
      | .inf s => if s then out (F.nanCode, { nanGen := true }) else out (F.storeInf sat false)
      | .nan => (F.nanCode, rd)
    | .rcp =>
      match x with
      | .fin _ 0 _ => out (storeZeroInf F sat false)
      | _ => out (F.storeQuot .rne sat (Num.divX (.ofNat 1) x))
    | .rsqrt =>
      match x with
      | .fin s m e =>
        if m = 0 then out (storeZeroInf F sat false)
        else if s then out (F.nanCode, { nanGen := true })
        else out (F.store .rne sat (rsqrtPos m e))
      | .inf s => if s then out (F.nanCode, { nanGen := true }) else out (F.store .rne sat .zero)
      | .nan => (F.nanCode, rd)
    | .builtIn b => out (F.store .rne sat (lakeEval b.hdr b.seg x))
    | .table img => out (F.store .rne sat (lakeEval (lakeImageHdr img) (lakeImageSeg img) x))

/-- p = exp(z) of an A36 argument, rounded to PX16 (R156 step 6, R167). -/
def expPx16 (z : A36) : Nat × Fl :=
  match A36.val z with
  | .nan => (0, {})
  | v => Fmt.px16.store .rne false (expNum v)

end Sys2Proof.Machine
end

