-- ==== Sys2Proof/Machine/Types.lean ====
section
/-! DEFINITION. The records the machine's state is built from: ports, queues, result slots, tiles, LAUNCHes, sequence
contexts and memory (02 to 09). -/
namespace Sys2Proof.Machine

/-! ## Ports (02 R26 to R38, 13 R322 to R324) -/

/-- Training states (Table 2.1). -/
inductive LinkState where
  | detect | eq | align | config | active | retrain | down
  deriving DecidableEq, Repr

/-- The value of a training state in PXL_STATUS (Table 2.1). -/
def LinkState.code : LinkState → Nat
  | .detect => 0
  | .eq => 1
  | .align => 2
  | .config => 3
  | .active => 4
  | .retrain => 5
  | .down => 6

/-- A DATA flit waiting for its acknowledgement: FSEQ, its class (0 on PXL; 13 Table 13.3), whether a packet starts in it
and the packet data it carries (02 R32), and whether it has used credit of the far end's present count (R34). -/
structure SentFlit where
  fseq : BitVec 12
  cls : Nat
  starts : Bool
  data : List Byte
  paid : Bool := true
  deriving DecidableEq, Repr

/-- A DATA flit in the receive buffer: its SOP and the packet data of it not yet taken (R29, R34). -/
structure RxFlit where
  sop : Nat
  data : List Byte
  deriving DecidableEq, Repr

/-- One link port. -/
structure Port where
  /-- The transmitters send: from the IMAGE stage or RECOVERY on (R26, R387). -/
  live : Bool := false
  st : LinkState := .detect
  /-- Which of DETECT, EQ, ALIGN, CONFIG a port in RETRAIN or DOWN has reached; DOWN while no training runs. -/
  sub : LinkState := .detect
  /-- When the present state, and the present training state within RETRAIN or DOWN, was entered. -/
  since : Nat := 0
  subSince : Nat := 0
  /-- Training failures in succession (R28). -/
  fails : Nat := 0
  /-- Lanes in use (none before the first training), and reversal (R27). -/
  lanes : BitVec 4 := 0
  rev : Bool := false
  /-- Next FSEQ expected and the last one received in order (R29, R31). -/
  rxSeq : BitVec 12 := 0
  ackSeq : BitVec 12 := 0xFFF
  /-- Next FSEQ to send (R29). -/
  txSeq : BitVec 12 := 0
  /-- DATA flits sent and not covered by an ACKSEQ, oldest first (R32). -/
  replay : List SentFlit := []
  /-- DATA flits to be sent again after a NAK or a retraining (R32). -/
  resend : List SentFlit := []
  /-- Packet data formed into flit payloads and not yet sent: class, whether a packet starts there, the bytes. -/
  txq : List (Nat × Bool × List Byte) := []
  /-- Credit of the far end's receive buffer, by class (R34, R324). -/
  credit : Tab Nat := []
  /-- Flits freed since the last CTRL flit sent, by class. -/
  freed : Tab Nat := []
  /-- A CTRL flit with NAK set is due (R31). -/
  nakDue : Bool := false
  /-- Discarding DATA flits until the expected FSEQ arrives (R31). -/
  waiting : Bool := false
  /-- The ACKSEQ of the NAKs received in succession and their number (R32). -/
  nakSeq : BitVec 12 := 0xFFF
  nakCnt : Nat := 0
  /-- When the last flit decoded correctly (R32). -/
  lastGood : Nat := 0
  /-- The receive buffer: how many flits of each class it holds at most, as CONFIG agreed, and the flits of each class received
  in order, oldest first (R34, R324); and whether packet data is discarded up to the next packet start (R40). -/
  share : Tab Nat := []
  rx : Tab (List RxFlit) := []
  resync : Bool := false
  /-- The last flit the transmitters sent. -/
  tx : List Byte := []
  /-- Fabric ports: what the far end reported, and the miswire mark (R323). -/
  peer : BitVec 12 := 0
  peerPort : BitVec 4 := 0
  miswired : Bool := false
  deriving DecidableEq, Repr

/-! ## Queues and result slots (02 R44 to R55) -/

/-- A dependency entry as accepted (Table 2.6); `res` is the outcome of a KIND 2 dependency once resolved (R46). -/
structure Dep where
  kind : Nat
  any : Bool
  ref : Nat
  val : W32
  res : Option Bool
  deriving DecidableEq, Repr

/-- Where an accepted command stands. -/
inductive CmdPhase where
  | queued
  /-- Dispatched and not yet executed. -/
  | running
  /-- Its effect has ended with a status; its completion follows (R52). -/
  | ended (st : W16)
  | done (st : W16)
  /-- Ended without completion (14 R353): it leaves no status and sends nothing (log 20). -/
  | dropped
  deriving DecidableEq, Repr

/-- One accepted command. -/
structure Cmd where
  seq : W32
  /-- Acceptance order over all queues (R191, R195). -/
  acc : Nat
  /-- The 64 or 128 bytes of the command (Table 2.5). -/
  raw : List Byte
  deps : List Dep
  /-- DEP_TO in ms, fixed at acceptance (R44). -/
  depTo : Nat
  /-- For a Full FENCE: the SUBMIT_SEQ of each queue of QMASK at acceptance (R48). -/
  snap : List (Nat × W32)
  /-- KV_APPEND: the first position assigned at acceptance (R195). -/
  pos : Nat
  /-- When it reached the head of its queue, and when it became ready there (R47, R51). -/
  headAt : Option Nat
  readyAt : Option Nat
  phase : CmdPhase
  /-- When it was dispatched, after how many other commands, and the weight version bound then (R24). -/
  runAt : Nat
  disp : Nat
  ver : W64
  /-- STEP and PHASE at dispatch (12 R317, R318). -/
  stepAt : W64
  phaseAt : W32
  /-- Result data so far. -/
  data : List Byte
  deriving DecidableEq, Repr

/-- One command queue: entries not yet passed by DONE_SEQ, and the kept completion statuses (R46). -/
structure Queue where
  cmds : List Cmd := []
  submit : W32 := 0
  doneSeq : W32 := 0
  /-- Completion status of those of the last 4,096 commands that have completed, the last completed first. -/
  hist : List (W32 × W16) := []
  deriving DecidableEq, Repr

inductive SlotState where
  | idle | armed | ready
  deriving DecidableEq, Repr

def SlotState.code : SlotState → Nat
  | .idle => 0
  | .armed => 1
  | .ready => 2

/-- One result slot (Table 2.18). -/
structure Slot where
  gen : W16 := 0
  st : SlotState := .idle
  read : Bool := false
  cstatus : W16 := 0
  seq : W32 := 0
  data : List Byte := []
  deriving DecidableEq, Repr

/-! ## Tiles (03, 04) -/

/-- An engine instruction in a queue or running: its word, its PC, the scalar operands captured at issue (R68), the
runs assigned to a transfer (R101) and, for a sync wait, when it started and whether its stall bound has passed. -/
structure EInstr where
  w : W64
  pc : W64
  sr : Tab W64
  run0 : Nat := 0
  n : Nat := 0
  t0 : Nat := 0
  stalled : Bool := false
  /-- When a wait was met, as its home controller noted it (10 R249). -/
  metAt : Option Nat := none
  deriving DecidableEq, Repr

/-- What a tile's control core is doing. -/
inductive Core where
  /-- No LAUNCH runs on the tile, or its program has halted. -/
  | idle
  | run
  /-- Stalled in a sync wait issued to the sync port (R107). -/
  | syncWait
  /-- Stalled by ewait on an event (R92). -/
  | ewait (e : Nat)
  /-- A blkend or a halt drains (R70). -/
  | drain (halt : Bool)
  /-- A blkend has drained and waits for its lock group's tick (R345). -/
  | lockWait
  /-- The program has executed halt. -/
  | halted
  /-- At the fault stop point of R74, and what the core did before. -/
  | stopPoint (was : Core)
  /-- Stopped by a program fault of its set (R85). -/
  | stopped
  /-- Stopped by a control-core fault (signature mismatch, R71, R368). -/
  | flowFault
  deriving DecidableEq, Repr

/-- A tile context: the items of Table 3.1 marked as moved, and the queues carried at a fault stop point (R74). -/
structure Tile where
  /-- The LAUNCH that holds the tile. -/
  launch : Option (Nat × W32) := none
  core : Core := .idle
  pc : W64 := 0
  s : Tab W64 := []
  d : Tab (BitVec 256) := []
  /-- k0 reads all ones (R60) and is not stored. -/
  k : Tab (BitVec 256) := []
  e : Tab (BitVec 4) := []
  vsticky : W64 := 0
  /-- Block state: active-cycle count, block number, running signature. -/
  active : W64 := 0
  block : W32 := 0
  sig : W32 := 0
  /-- When the block began (14 R368). -/
  blkAt : Nat := 0
  /-- A blkend has completed and no instruction has issued since (R73). -/
  atBlk : Bool := false
  /-- Since when the tile has been at the sync-wait yield point it is at (R73; 10 R248). -/
  yieldAt : Option Nat := none
  spad : Tab Byte := []
  acc0 : Tab A36 := []
  acc1 : Tab A36 := []
  /-- Engine queues and running instructions, by Eng.idx. -/
  q : Tab (List EInstr) := []
  run : Tab (List EInstr) := []
  /-- Cached image lines of each set, least recently used first (R66), and the line a miss waits for. -/
  icache : Tab (List Nat) := []
  imiss : Option Nat := none
  /-- The bank-stall counter as the last read through drbs left it (R62, R112; log 3). -/
  bank : W64 := 0
  /-- Madder slots: accepted table images (R136). -/
  slots : Tab (List Byte) := []
  /-- Park slots parked since the LAUNCH started (08 R210). -/
  parked : List Nat := []
  /-- What the LAUNCH's instructions raised on the tile (R130). -/
  fl : Fl := {}
  deriving DecidableEq, Repr

/-- What a physical tile position of a cluster is. -/
inductive Role where
  /-- Holds logical tile i of the cluster. -/
  | work (i : Nat)
  | mordant
  | spare
  /-- Promised to a context move under way. -/
  | reserved
  /-- Out of its role for a structural test. -/
  | testing
  | retired
  /-- Returned to service by MRG_CLR, to pass a test before it takes a role (R367). -/
  | returned
  deriving DecidableEq, Repr

/-- A saved context (R75): of which LAUNCH and logical tile. -/
structure Saved where
  tile : Nat
  ctx : Tile
  deriving DecidableEq, Repr

/-- A context move, save or restore under way (R75). -/
inductive MoveKind where
  /-- To the position `pos` of the tile's cluster; the old position then has role `leave`. -/
  | toPos (pos : Nat) (leave : Role)
  /-- A save for preemption by the LAUNCH named. -/
  | save (q : Nat) (seq : W32)
  | restore
  deriving DecidableEq, Repr

structure Move where
  tile : Nat
  kind : MoveKind
  /-- The copy has begun: the tile is at its yield point and waits. -/
  begun : Bool := true
  deriving DecidableEq, Repr

/-- A margin step (14 R365): a lower clock, a higher voltage, the position retired to the spare or to the Mordant position. -/
inductive StepKind where
  | clock
  | volt
  | toSpare
  | toMordant
  deriving DecidableEq, Repr

/-- One dispatched LAUNCH. -/
structure Launch where
  q : Nat
  seq : W32
  /-- Queue class at dispatch: 0 LIVE, 1 STEP, 2 BULK. -/
  cls : Nat
  tiles : List Nat
  prog : Nat
  ilen : Nat
  args : W64
  dbg : Bool
  lock : Option Nat
  ver : W64
  /-- ENTRY, and whether its tiles have started (R80, R81). -/
  entry : Nat := 0
  started : Bool := false
  /-- The LAUNCH switched aside for it (10 R248). -/
  aside : Option (Nat × W32) := none
  /-- Tiles that have executed halt (R84). -/
  halted : List Nat := []
  /-- Tiles still to be saved for it before it starts (R76). -/
  awaiting : List Nat := []
  /-- Watchdog firings: tile, block, physical position, and the margin step that was taken (R72). -/
  fires : List (Nat × W32 × Nat × StepKind) := []
  /-- The status and record of a program fault; when the fault was met, and on which tile (R85). -/
  fault : Option (W16 × List Byte) := none
  faultAt : Option (Nat × Nat) := none
  rangeGuard : Bool := false
  stageStall : Bool := false
  /-- A signal of the LAUNCH was discarded because its peer failed (13 R347). -/
  peerLost : Bool := false
  /-- Flags and counts of halted tiles (R130). -/
  fl : Fl := {}
  deriving DecidableEq, Repr

/-! ## Signals and sync objects (01 R16, 04 R106) -/

/-- A signal on its way to an object of this module. -/
structure Signal where
  /-- The tile it left, none for the host, a step event or another module. -/
  src : Option Nat
  obj : Nat
  add : W32
  deriving DecidableEq, Repr

/-- Who a signal to a peer belongs to: a tile, or a SYNC_SIGNAL command. -/
inductive SigOwner where
  | tile (t : Nat)
  | cmd (q : Nat) (seq : W32)
  deriving DecidableEq, Repr

/-- A signal to an object of a peer module (04 R108, 13 R346). -/
structure RemoteSig where
  owner : SigOwner
  peer : BitVec 12
  /-- The end-to-end number of the packet that carries it (13 R326). -/
  eseq : W32
  obj : Nat
  add : W32
  deriving DecidableEq, Repr

/-! ## Sequence contexts (07) -/

inductive PinHolder where
  | tile (t : Nat) (q : Nat) (seq : W32)
  | append (q : Nat) (seq : W32)
  | ring (r : Nat)
  deriving DecidableEq, Repr

structure Pin where
  ctx : Nat
  epoch : W32
  holder : PinHolder
  deriving DecidableEq, Repr

structure Ctx where
  epoch : W32 := 0
  recl : W32 := 0
  len : Nat := 0
  nextOpen : Bool := false
  /-- Epochs above RECL_EPOCH with the frames each released (R188). -/
  rel : List (W32 × Nat) := []
  /-- Epochs whose reclaim signals a sync object (R192). -/
  rsig : List (W32 × Nat) := []
  deriving DecidableEq, Repr

/-! ## Memory (09) -/

/-- Where a memory-side contribution comes from (09, R229). -/
inductive ContribSrc where
  | tile (t : Nat) (q : Nat) (seq : W32) (pc : W64)
  /-- A member of a collective or of the Woad ring. -/
  | fabric
  deriving DecidableEq, Repr

/-- One memory-side contribution: a granule, the control word of Table 9.4, 64 bytes and the weight version it carries. -/
structure Contrib where
  src : ContribSrc
  /-- The granule's location divided by 64. -/
  gran : Nat
  ctl : W64
  data : List Byte
  ver : W64
  /-- Whether a STEP-class LAUNCH of the window issued it (R152). -/
  step : Bool
  deriving DecidableEq, Repr

/-- MSA_SQ of one vault (Table 9.13). -/
structure SqReg where
  sq : A36 := 0
  fin : Bool := false
  nxt : W16 := 0
  deriving DecidableEq, Repr

/-- One physical vault (R223): rows retired to spare rows, and the corrected errors of the last 24 h: when, and the granule's
location divided by 64; none once its row has been retired. -/
structure PhysVault where
  rows : List Nat := []
  corr : List (Nat × Option Nat) := []
  deriving DecidableEq, Repr

/-- One logical vault: physical position and remapping (R220, R224, Table 9.12). -/
structure Vault where
  /-- Physical position, none for the position of the same number as the tile's place in the cluster. -/
  phys : Option Nat := none
  /-- 0 none, 1 copying, 2 on the reserve vault, 3 remapped unreadable. -/
  remap : Nat := 0
  /-- The adder has failed its residue check; the system vault's controller works for it (R235). -/
  adderBad : Bool := false
  /-- 256-bit digest register (R234). -/
  digest : BitVec 256 := 0
  deriving DecidableEq, Repr

/-- One DPM buffer (R241). -/
structure DpmBuf where
  gen : Nat
  cls : Nat
  mirror : Bool
  /-- Size in bytes; near tier or not; the granules or base it was given. -/
  size : Nat
  near : Bool
  /-- Near: vault of granule 0 and the 4 KiB frame of each granule within its vault. Outer: the base address. -/
  vault0 : Nat
  frames : List Nat
  base : Nat
  /-- Mirror copy's frames. -/
  mframes : List Nat
  live : Bool
  /-- When freed: the commands accepted before, by queue; the storage is released once all have completed (R241). -/
  waits : List (Nat × W32)
  deriving DecidableEq, Repr

/-- The completed memory plan (R242). -/
structure Plan where
  ratio : Nat
  dec : List Nat
  sizes : List Nat
  deriving DecidableEq, Repr

structure MemSt where
  /-- Bytes by location: near v * 2^31 + o, outer base + channel * 2^37 + channel offset (R216, R217, log 2). -/
  byte : Tab Byte := []
  /-- Uncorrectable granules, by location divided by 64. -/
  ue : List Nat := []
  ordc : Tab W16 := []
  held : List Contrib := []
  /-- Contributions on their way to their vault. -/
  fly : List Contrib := []
  sq : Tab SqReg := []
  vault : Tab Vault := []
  /-- Physical vaults, by 18 × cluster + position, and the system vault of each cluster: 0 at position 17, 1 being copied to the
  reserve, 2 on it (R220 to R224). -/
  pv : Tab PhysVault := []
  sysRemap : Tab Nat := []
  /-- Cluster: what its reserve vault and system vault do: logical vault moved to the reserve (1 + v), or 17 for the
  system vault. -/
  reserve : Tab Nat := []
  dpm : Tab (Option DpmBuf) := []
  /-- The logical vault of the next buffer's first granule (Table 9.7). -/
  dpmNext : Nat := 0
  dpmResult : W64 := 0
  planAddr : Option Nat := none
  planStatus : W16 := 0
  plan : Option Plan := none
  deriving DecidableEq, Repr

/-! ## Fabric packets kept until acknowledged (13 R326) -/

structure FabSent where
  dst : BitVec 12
  eseq : W32
  body : FabBody
  /-- When it was first sent, and last. -/
  first : Nat
  last : Nat
  /-- To be sent, or sent again, at the next opportunity. -/
  due : Bool := true
  deriving DecidableEq, Repr

/-! ## Fault log (14 R377 to R379) -/

/-- One fault-log entry (Table 14.8). -/
structure LogEntry where
  seq : W32
  cls : Nat
  action : Nat
  status : W16
  tick : W64
  step : W32
  unit : W16
  ident : BitVec 12
  detail : W64
  deriving DecidableEq, Repr

/-! ## Collectives (11) -/

/-- A piece a member waits for: the rank that sends it, its kind, the rank (or domain index) it comes from, byte offset and length
in the reduced buffer or the destination (R283). -/
structure Want where
  sender : Nat
  kind : PieceKind
  rank : Nat
  off : Nat
  len : Nat
  deriving DecidableEq, Repr

/-- A piece that has landed and has not been taken yet; `slot` is the rank whose credit it holds, none for this member's own. -/
structure Piece where
  kind : PieceKind
  rank : Nat
  off : Nat
  data : List Byte
  fl : Fl
  slot : Option Nat
  deriving DecidableEq, Repr

/-- One fold under way (R284, R285): of the contributions of a domain index, or of the domains' results, over the bytes at `off`; terms
taken so far, and the value; at the vault adders the value stands in memory. -/
structure Fold where
  dom : Option Nat
  off : Nat
  len : Nat
  vault : Bool
  n : Nat := 0
  val : List Byte
  fl : Fl := {}
  deriving DecidableEq, Repr

/-- Where a current collective stands: handshake, data, norm fold (R281, R283, R290). -/
inductive CollPhase where
  | hand
  | data
  | norm
  deriving DecidableEq, Repr

/-- The current collective of a group (R280). -/
structure Coll where
  q : Nat
  cmd : W32
  seq : W32
  desc : CollDesc
  since : Nat
  phase : CollPhase := .hand
  /-- It waits for a failed member's ranks (R294). -/
  susp : Bool := false
  /-- Descriptor hashes and fields received, by rank. -/
  hands : List (Nat × W64 × CollDesc) := []
  want : List Want := []
  /-- Pieces in the landing storage, and the folds they go to. -/
  land : List Piece := []
  folds : List Fold := []
  /-- Credits received and not yet used, by receiving rank. -/
  credit : List Nat := []
  /-- Ranks that hold a landing piece: a credit not yet used, or a piece not yet taken (R283). -/
  granted : List Nat := []
  /-- Backup entries of this member for which its term has been sent or discarded (R291). -/
  settled : List Nat := []
  /-- After a takeover: contributions an owner has already, by its rank and byte offset; ranks that send their finished data
  themselves (R294). -/
  spared : List (Nat × Nat) := []
  origin : List Nat := []
  /-- Pieces to send, by receiving rank, and those sent. -/
  out : List (Nat × Msg) := []
  sent : List (Nat × Msg) := []
  /-- Norm records received, by rank (R290). -/
  norms : List (Nat × W64) := []
  fl : Fl := {}
  deriving DecidableEq, Repr

/-- An outcome that reached a member before its collective became current (R293, R295): status, RANK, CAUSE. -/
structure CollEarly where
  g : Nat
  seq : W32
  st : W16
  rank : Nat
  cause : Nat
  deriving DecidableEq, Repr

/-! ## Woad ring (08) -/

/-- One direction of a ring: blocks landed and forwarded in the present rotation; uses granted to the sender, and uses the
receiver has granted, from formation. -/
structure RingDir where
  got : Nat := 0
  fwd : Nat := 0
  grant : Nat := 0
  credit : Nat := 0
  deriving DecidableEq, Repr

/-- One ring: STATE, ERR, ROT (Table 8.5), the neighbours' hashes, whether a rotation runs, gradients sent and landed in it. -/
structure Ring where
  st : Nat := 0
  err : Nat := 0
  rot : W32 := 0
  prevHash : Option W64 := none
  nextHash : Option W64 := none
  hashAt : Option Nat := none
  on : Bool := false
  /-- The epoch whose pages failed the check of R205. -/
  badEpoch : Option W32 := none
  cw : RingDir := {}
  ccw : RingDir := {}
  gsent : Nat := 0
  gin : Nat := 0
  deriving DecidableEq, Repr

/-! ## Ochre coder (12) -/

/-- One stream: frame number, counters, the pool's buffers with mark (0 UNUSED, 1 SHORT, 2 LONG) and the number of the frame
each holds, the pool's handle in DPM, and the vectors of the previous frame's blocks. -/
structure OchStream where
  fnum : W32 := 0
  late : Nat := 0
  raw : Nat := 0
  bufs : List (Nat × W32) := []
  pool : Nat := 0
  vecs : List (Option (List Int)) := []
  /-- Frames decoded since an entry (R309); none where every frame since frame 0 was decoded. -/
  entry : Option Nat := none
  /-- Marked buffers whose frame number the stream does not know: adopted at an entry and not stored into since (R309). -/
  adopted : List Nat := []
  deriving DecidableEq, Repr

/-- A CODE command being executed (R316): its engine once started and the units left. -/
structure OchJob where
  q : Nat
  seq : W32
  eng : Option Nat
  left : Nat
  deriving DecidableEq, Repr

/-! ## Physical positions, checks, tests and margins (01 R14; 14 R356 to R368) -/

/-- One in-field test window (R362, R363). -/
structure TestWin where
  pos : Nat
  openedAt : Nat
  /-- The SELFTEST command it belongs to. -/
  cmd : Option (Nat × W32)
  /-- The position is clear and its structural test runs. -/
  cleared : Bool
  /-- Opened outside the rotation (R361). -/
  extra : Bool := false
  deriving DecidableEq, Repr

/-- A unit that the checker at a position executes too (R357, R358): the tile and position it runs on, and its command. -/
structure Check where
  tile : Nat
  pos : Nat
  checkerPos : Nat
  q : Nat
  seq : W32
  deriving DecidableEq, Repr

/-- One cluster beside its tiles. -/
structure Cluster where
  /-- Roles of positions 0 to 17. -/
  roles : List Role := (List.range 16).map Role.work ++ [.mordant, .spare]
  /-- Margin levels of positions 0 to 17. -/
  levels : List Nat := List.replicate 18 0
  fsteps : Nat := 0
  vsteps : Nat := 0
  /-- The trim steps in the setpoint of the TL domain, which follow VSTEPS while the domain is inside its limits (16 R419, R420). -/
  trim : Nat := 0
  /-- Duplicate checking has lost its Mordant role for good (R356, R366). -/
  noMordant : Bool := false
  win : Option TestWin := none
  /-- When the last window opened, and the position tested last. -/
  lastWin : Nat := 0
  lastPos : Nat := 17
  /-- The logical tile the Mordant visits, and when that slot began (R357). -/
  visit : Nat := 0
  slotAt : Nat := 0
  /-- Units that have started on the visited tile in the slot, and the checked ones that have not completed. -/
  units : Nat := 0
  checks : List Check := []
  /-- Accumulator halves of a visited tile that its checker has computed in the slot: tile and half (R358). -/
  halves : List (Nat × Nat) := []
  /-- The cluster's tiles pause while the PLL relocks (R365), or are stopped by a clock fault (R371), since. -/
  relockAt : Option Nat := none
  /-- A clock change waits for a context move to end. -/
  relockDue : Bool := false
  clockFault : Option Nat := none
  lost : Bool := false
  /-- Junction and DRAM temperatures last seen, thermal level kt, and evaluations in succession below the limits (16 R430). -/
  tj : Nat := 0
  td : Nat := 0
  kt : Nat := 0
  cool : Nat := 0
  deriving DecidableEq, Repr

/-- Where the third execution of a disagreement runs: it waits for a unit, or has the cluster's spare tile or a working tile
(R359). -/
inductive Third
  | waits
  | spare
  | tile (t : Nat)
  deriving DecidableEq, Repr

/-- A check disagreement waiting for its third execution (R359). -/
structure Arb where
  tile : Nat
  pos : Nat
  checkerPos : Nat
  sigTile : W64
  sigChecker : W64
  q : Nat
  seq : W32
  third : Third := .waits
  deriving DecidableEq, Repr

/-- A use of a physical position by a command, for R353: which command and tile, from when to when. -/
structure Use where
  q : Nat
  seq : W32
  cls : Nat
  cluster : Nat
  pos : Nat
  since : Nat
  upTo : Option Nat
  /-- When the command was dispatched (R354). -/
  runAt : Nat
  /-- The result slot and generation that it was accepted with. -/
  slot : Option (Nat × W16)
  /-- Table stores its Madder instructions used: slots 0 to 3, 4 for the built-in lake tables (R372). -/
  tabs : List Nat := []
  deriving DecidableEq, Repr

/-- A SELFTEST being executed (R375, R376): positions still to be tested, by cluster, and the counts of Table 14.4. -/
structure SelfTest where
  q : Nat
  seq : W32
  todo : List (Nat × List Nat)
  tested : Nat := 0
  failed : Nat := 0
  retired : Nat := 0
  imgfail : Nat := 0
  addfail : Nat := 0
  deriving DecidableEq, Repr

/-! ## Settings flash (15) -/

/-- A settings record (15 Table 15.4): type, format, sequence number, body. -/
structure SetRec where
  ty : Nat
  fmt : Nat
  seq : Nat
  body : List Byte
  deriving DecidableEq, Repr

/-- BOOTCTL (15 Table 15.6); the defaults are those of 15 R389 where no record verifies. -/
structure BootCtl where
  conf : Bool := false
  prevValid : Bool := true
  trialEn : Bool := false
  boots : Nat := 0
  secs : Nat := 0
  confVer : W64 := 0
  otherVer : W64 := 0
  deriving DecidableEq, Repr

end Sys2Proof.Machine
end

