-- ==== Sys2Proof/Machine/State.lean ====
section
/-! DEFINITION. The machine's state, its stops and its state after reset. -/
namespace Sys2Proof.Machine

/-- Reasons for which a step stops with a fault: none. The spec answers every error of this module with a status, an
event or a program fault of a tile, each of which is a next state. -/
inductive Fault where
  deriving DecidableEq, Repr

/-- Reasons for which a step is refused. -/
inductive Refusal where
  /-- Raised by an arm of exec whose meaning is not written. Safe: the machine stops where the module goes on. -/
  | notModelled (mnemonic : String)
  deriving DecidableEq, Repr

/-- The host link beside its ports, and the command queues (02). -/
structure HostSt where
  /-- MOD_ID: the identity once an ENUM has been taken (Table 2.12). -/
  ident : Option (BitVec 12) := none
  queues : Tab Queue := []
  slots : Tab Slot := []
  /-- Commands accepted so far, and dispatched. -/
  accepted : Nat := 0
  dispatched : Nat := 0
  /-- The queue each class served last, for the round robin of R51. -/
  served : Tab Nat := []
  /-- Queues whose aged BULK head has the next slot after ready LIVE work (R51). -/
  aged : List Nat := []
  /-- When the last PACKET_ERROR event left (R56). -/
  pktErrAt : Option Nat := none
  /-- PXL_ERRCNT: CORRECTED, NAKS, RETRAINS, DROPPED (Table 2.14). -/
  err : Tab Nat := []
  /-- Own packets and relayed packets waiting for PXU, the one of the two served next, and packets waiting for PXD
  (R36). -/
  upTx : List Packet := []
  upRelay : List Packet := []
  relayNext : Bool := false
  downTx : List Packet := []
  /-- Packets taken from PXU that wait, first come first: DATA_PUTs and DATA_GETs whose storage is held, and what may not
  overtake a DATA_PUT (R43). -/
  late : List Instr := []
  deriving DecidableEq, Repr

/-- Tiles, LAUNCHes and context moves (03). -/
structure TileSt where
  tile : Tab Tile := []
  launches : List Launch := []
  saved : List Saved := []
  moves : List Move := []
  deriving DecidableEq, Repr

/-- Sync objects and signals on their way (01 R16, 04). -/
structure SyncSt where
  obj : Tab W32 := []
  sigs : List Signal := []
  /-- Signals to peer modules that their directories have not acknowledged (04 R111, 13 R346). -/
  remote : List RemoteSig := []
  deriving DecidableEq, Repr

/-- Sequence contexts and pins (07). -/
structure CtxSt where
  ctx : Tab Ctx := []
  pins : List Pin := []
  deriving DecidableEq, Repr

/-- Fabric ports beside their links (13 R326 to R329). -/
structure FabSt where
  /-- FAB_ERRCNT: 4 × port + field (Table 13.6). -/
  err : Tab Nat := []
  /-- Packets sent and not acknowledged, the next ESEQ by 2 × destination + lane (1 the signal lane), and the next one
  expected by 2 × source + lane (R326). -/
  sent : List FabSent := []
  /-- Answers to send: destination, lane, whether a NAK, ESEQ. -/
  acks : List (BitVec 12 × Nat × Bool × W32) := []
  eseq : Tab W32 := []
  expect : Tab W32 := []
  /-- ACTIVE ports of the modules of the domain, as flooded, by module number (R327). -/
  links : Tab (BitVec 16) := []
  /-- Which port of each pair takes the next packet (R327). -/
  pair : Tab Nat := []
  /-- Destinations reported unreachable (R326). -/
  lost : List (BitVec 12) := []
  deriving DecidableEq, Repr

/-- Failure handling (14). -/
structure FltSt where
  /-- The latest 1,024 entries, oldest first, and the sequence number of the next (R377, R379). -/
  log : List LogEntry := []
  next : W32 := 0
  /-- FLT_CNT (Table 14.7) and FLT_TCNT. -/
  cnt : Tab W64 := []
  tcnt : Tab W64 := []
  /-- Clusters: roles, margins, test windows (01 R14, R356 to R367). -/
  cluster : Tab Cluster := []
  /-- Disagreements in arbitration (R359) and uses of positions by commands (R353). -/
  arbs : List Arb := []
  uses : List Use := []
  /-- A margin record not yet written to flash, and the repair record likewise (R367, 09 R223). -/
  marginDue : Bool := false
  repairDue : Bool := false
  /-- FLT_HEALTH.STATE is FENCED (R374). -/
  fenced : Bool := false
  /-- Modules declared failed, and roles held by a spare: role, holder (R373, 10 R265). -/
  failed : List (BitVec 12) := []
  holders : List (BitVec 12 × BitVec 12) := []
  /-- When each neighbour's last heartbeat came, by identity, when the own one was sent, and when the master was last heard
  (R373, R374). -/
  heard : Tab Nat := []
  hbAt : Nat := 0
  masterAt : Nat := 0
  /-- A master that fell silent and was given up under 13 R339: its identity and when it was last heard. -/
  silent : Option (BitVec 12 × Nat) := none
  /-- SELFTEST commands being executed (R375). -/
  selftests : List SelfTest := []
  /-- Power domains out of limits, dies over a temperature limit: since when (R371); keys 0, 1
  the junctions of the dies, 2, 3 their stacks, 4 the IOD. -/
  volt : Tab (Option Nat) := []
  hot : Tab (Option Nat) := []
  deriving DecidableEq, Repr

/-- The step protocol (10). -/
structure TrnSt where
  /-- TRN_STAT (Table 10.4). -/
  st : Nat := 0
  skip : Bool := false
  optTouched : Bool := false
  mirrorBusy : Bool := false
  restoreBusy : Bool := false
  role : BitVec 12 := 0
  /-- The role's last holder was expelled (R267; 14 Table 14.10). -/
  fromExpelled : Bool := false
  good : Nat := 0
  last : W16 := 0
  resume : Nat := 0
  /-- TRN_NORM. -/
  sq : A36 := 0
  kf : Nat := 0
  ovf : Bool := false
  nan : Bool := false
  abandon : Bool := false
  /-- TRN_DIG: four lanes. -/
  dig : BitVec 256 := 0
  /-- Raised in the window by STEP work: OVF, NaN, CHECK_UNRESOLVED (R251); and after the norm contribution was formed
  (R254). -/
  winOvf : Bool := false
  winNan : Bool := false
  winCheck : Bool := false
  late : Bool := false
  /-- The norm contribution of this window has been formed; its norm exchange has ended; the decision has been taken, and when. -/
  formed : Bool := false
  normed : Bool := false
  decidedAt : Option Nat := none
  /-- When the last flip was. -/
  flipAt : Nat := 0
  /-- The gradient shard is in the mirror slot, and accepted there (R255). -/
  gradOut : Bool := false
  gradIn : Bool := false
  /-- Mirror packets were given up, or could not be formed: the buddy has not accepted the mirror until it is written afresh
  (R255, R256). -/
  mirrorLost : Bool := false
  /-- READY or ABANDON has been sent for the version of the COMMIT (R258, R259). -/
  sent : Bool := false
  /-- The executing COMMIT: queue, sequence number, version (R258); a COMMIT of the window ended without executing, or was
  turned away (R259). -/
  cmt : Option (Nat × W32 × W64) := none
  noCommit : Bool := false
  /-- The FLIP decided for the version and its target (R260, R261); the outcome that a COMMIT which has not executed meets; and the last
  decision received, for a new leader (R260). -/
  decision : Option (W64 × Decision × W64) := none
  recorded : Option (W64 × Decision) := none
  told : Option (W64 × Decision × W64) := none
  /-- What the leader holds: READY and the first ABANDON. -/
  readies : List (BitVec 12) := []
  /-- Published digests: version, member, lanes; the comparisons under way: version, command, start (R267). -/
  pubs : List (W64 × BitVec 12 × BitVec 256) := []
  cmps : List (W64 × Option (Nat × W32) × Nat × BitVec 256) := []
  /-- Contributions announced as ready: entry, backup, and whether before DEADLINE; and selections: entry, backup (R263, R291). -/
  bkReady : List (BitVec 4 × Bool × Bool) := []
  bkSel : List (BitVec 4 × Bool) := []
  bkDrop : Nat := 0
  deriving DecidableEq, Repr

/-- Collectives (11). -/
structure CollSt where
  /-- NEXT_SEQ of each group, and the number of its next collective to become current (R280). -/
  next : Tab W32 := []
  turn : Tab W32 := []
  /-- Members as listed when the group was enabled, the present holder of each rank (R274), and GHASH. -/
  list : Tab (List (BitVec 12)) := []
  holder : Tab (List (BitVec 12)) := []
  ghash : Tab W64 := []
  cur : Tab (Option Coll) := []
  /-- Dispatched COLLs that wait to become current: group, number, queue, sequence number. -/
  ready : List (Nat × W32 × Nat × W32) := []
  /-- Numbers that completed without becoming current. -/
  passed : List (Nat × W32) := []
  /-- Outcomes and messages that came before their collective was current. -/
  early : List CollEarly := []
  box : List (BitVec 12 × Msg) := []
  deriving DecidableEq, Repr

/-- The Ochre coder (12). -/
structure OchSt where
  stream : Tab OchStream := []
  jobs : List OchJob := []
  /-- The job (queue, sequence number) whose unit each engine runs, and the stream of the last BULK unit (R316). -/
  eng0 : Option (Nat × W32) := none
  eng1 : Option (Nat × W32) := none
  lastBulk : Nat := 47
  deriving DecidableEq, Repr

/-- One step-event entry (13 Table 13.10): word 0 staged, and the words in force. -/
structure StepEvt where
  staged : W64 := 0
  w0 : W64 := 0
  w1 : W64 := 0
  deriving DecidableEq, Repr

/-- A TIME packet waiting: the tick at which it applies, its AT_TICK, STEP and PHASE (13 R336). -/
structure TimePkt where
  due : W64
  at_ : W64
  step : W64
  phase : W32
  deriving DecidableEq, Repr

/-- The step base (13). -/
structure StbSt where
  tick : W64 := 0
  step : W64 := 0
  /-- The PHASE last set, and the TICK at which it was set (R330). -/
  phase0 : W32 := 0
  phaseAt : W64 := 0
  /-- STB_PHASE: latched by the last STB_STEP read (R332). -/
  latch : W32 := 0
  /-- Identities of the timing set heard of, and alignment to its master (R338). -/
  known : List (BitVec 12) := []
  aligned : Bool := false
  /-- Modules whose alignment this master has checked and found good (R338, 15 R393). -/
  alignedSet : List (BitVec 12) := []
  /-- Cadence: 0 LOCKED, 1 ACQUIRE, 2 HOLDOVER, 3 FROZEN; R, accepted intervals (latest last, at most 8), consecutive
  accepted pulses, MISS count, flywheel steps counted toward HOLD (R334, R335). -/
  cad : Nat := 1
  r : Option W64 := none
  ivals : List Nat := []
  run : Nat := 0
  miss : Nat := 0
  fly : Nat := 0
  /-- HOLDOVER or FROZEN since the last LOCKED (R335). -/
  lost : Bool := false
  /-- STB_CNT: 0 GLITCH, 1 EARLY, 2 MISS, 3 TIME_IGN. -/
  cnt : Tab Nat := []
  evt : Tab StepEvt := []
  times : List TimePkt := []
  /-- Step changes decided and not yet in effect: STEP, start tick, tick of effect (R331). -/
  changes : List (W64 × W64 × W64) := []
  /-- PHASE at each lock group's last tick, and the step of it (R344). -/
  lgAt : Tab (W64 × W32) := []
  deriving DecidableEq, Repr

/-- One flash device as this boot sees it (15 R388): mode (0 failed, 1 single, 2 quad, 3 octal DDR), read-only, and what it
holds by byte address; an unlisted byte is erased. -/
structure Flash where
  mode : Nat := 0
  ro : Bool := false
  /-- Retries of the present read in this mode (R388). -/
  tries : Nat := 0
  byte : Tab Byte := []
  deriving DecidableEq, Repr

/-- Start-up, update and identity (15). -/
structure BootSt where
  /-- The module has left reset (R384), and when. -/
  released : Bool := true
  relAt : Nat := 0
  /-- BOOT_STAT: the stage (Table 15.1), when it began, the slot that runs, a trial, a boot that fell back, SELFTEST_OK,
  STATUS. -/
  stage : Nat := 0
  since : Nat := 0
  slot : Bool := false
  trial : Bool := false
  fellBack : Bool := false
  selfOk : Bool := false
  status : W16 := 0
  /-- The EVENT of R389 still to be sent after enumeration. -/
  tell : Bool := false
  /-- The manifest of the running image (Table 15.9); empty in ROM and RECOVERY. -/
  man : List Byte := []
  fl0 : Flash := {}
  fl1 : Flash := {}
  retries : Nat := 0
  /-- UPD_STAT (Table 15.15), and the powered time at which TRIAL_S was last raised (R407). -/
  upd : Nat := 0
  updStatus : W16 := 0
  failBlk : Nat := 0
  /-- The slot that PROGRAM writes (R404). -/
  updSlot : Bool := false
  trialAt : Nat := 0
  /-- The fall-back of R407 has fenced the module, since. -/
  fallAt : Option Nat := none
  /-- The report being built (R411): address, nonce; ATT_STAT.DONE and STATUS. -/
  att : Option (Nat × List Byte) := none
  attDone : Bool := false
  attStatus : W16 := 0
  /-- Fuses: the SVN minimum, revoked signing keys (R402, R406). -/
  svnMin : Nat := 0
  revoked : BitVec 4 := 0
  deriving DecidableEq, Repr

/-- Formation of the domain (15 R393): DOM_STAT.STATE and STATUS, DOM_PRESENT, when the master was elected, whether it has
decided. -/
structure DomSt where
  st : Nat := 0
  status : W16 := 0
  present : W64 := 0
  electAt : Nat := 0
  decided : Bool := false
  deriving DecidableEq, Repr

/-- Power, cooling, sideband (16). -/
structure PwrSt where
  /-- MOD_PWR_EN and MOD_RST_N after their filters, MOD_PGOOD, THERM_TRIP_N asserted (R383 to R386, R425, R432). -/
  en : Bool := true
  rstN : Bool := true
  pgood : Bool := true
  trip : Bool := false
  /-- When MOD_PWR_EN last rose and fell. -/
  enAt : Nat := 0
  lowAt : Nat := 0
  /-- P48 lies within 42 V to 56 V; a loss of the input holds until MOD_PWR_EN has been low for 10 ms (R417). -/
  vinOk : Bool := true
  inputFault : Bool := false
  /-- Groups of R421 that are inside their limits (58 once all are), since when the next one ramps; its failure. -/
  groups : Nat := 58
  groupAt : Nat := 0
  upFail : Bool := false
  /-- PD_STAT.STATE of each domain, and the first domain that failed (R421, Table 16.6). -/
  pd : Tab Nat := []
  failed : Option Nat := none
  /-- The power level kp, evaluations in succession below the cap's lower limit, and PWR_STAT (R431). -/
  kp : Nat := 0
  low : Nat := 0
  vin : Nat := 0
  pin : Nat := 0
  peak : Nat := 0
  /-- SMB_ADR2 to SMB_ADR0 as sampled, and the last answer on the SMBus, with its PEC where asked (R426). -/
  adr : BitVec 3 := 0
  smb : List Byte := []
  /-- The TAP's instruction and its shift register (R427). -/
  ir : Nat := 1
  dr : BitVec 480 := 0
  bsr : BitVec 480 := 0
  deriving DecidableEq, Repr

structure State where
  /-- Commands and events that wait, first in, first out. -/
  pending : List Instr := []
  /-- Reference periods of 10 ns since power was first applied, counted by the idle tick. -/
  now : Nat := 0
  /-- How many free values have been drawn (log 3). -/
  drawn : Nat := 0
  /-- Registers of the management window that hold what was written, by offset (02 R58). -/
  regs : Tab W64 := []
  ports : Tab Port := []
  host : HostSt := {}
  tl : TileSt := {}
  sync : SyncSt := {}
  cx : CtxSt := {}
  mem : MemSt := {}
  fab : FabSt := {}
  flt : FltSt := {}
  trn : TrnSt := {}
  stb : StbSt := {}
  coll : CollSt := {}
  och : OchSt := {}
  ring : Tab Ring := []
  boot : BootSt := {}
  dom : DomSt := {}
  pwr : PwrSt := {}
  deriving DecidableEq, Repr

/-- The machine right after the effective release, with the flash devices erased and every unit at its reset value. -/
def State.reset : State := {}

end Sys2Proof.Machine
end

