-- ==== Sys2Proof/Machine/Ops.lean ====
section
/-! DEFINITION. The named operations over the state: registers of the window, free values, counters, packets, tiles,
sync objects and memory. -/
namespace Sys2Proof.Machine

abbrev Out := Host.Outcome State Fault Refusal

/-! ## Time -/

/-- Reference periods in a microsecond and a millisecond (100 MHz, R15). -/
def usec : Nat := 100
def msec : Nat := 100000

/-! ## Status codes (Table 2.10, 02 R57, 14 R382) -/

def Status.ok : W16 := 0x0000
def Status.notReady : W16 := 0x0101
def Status.stale : W16 := 0x0102
def Status.errLen : W16 := 0x0201
def Status.errRange : W16 := 0x0202
def Status.errReserved : W16 := 0x0203
def Status.bufOver : W16 := 0x0204
def Status.queueFull : W16 := 0x0205
def Status.depTimeout : W16 := 0x0301
def Status.depFailed : W16 := 0x0302
def Status.stageStall : W16 := 0x0303
def Status.collMismatch : W16 := 0x0401
def Status.collTimeout : W16 := 0x0402
def Status.collAbort : W16 := 0x0403
def Status.checkUnresolved : W16 := 0x0501
def Status.memUncorrectable : W16 := 0x0502
def Status.resultRecall : W16 := 0x0503
def Status.selftestFail : W16 := 0x0504
def Status.moduleFenced : W16 := 0x0505
def Status.versionSuspect : W16 := 0x0506
def Status.rangeGuard : W16 := 0x0601
def Status.tableReject : W16 := 0x0602
def Status.stepRollback : W16 := 0x0701
def Status.notCommitted : W16 := 0x0702
def Status.digestSplit : W16 := 0x0703
def Status.expelled : W16 := 0x0704
def Status.cadenceLost : W16 := 0x0801
def Status.domainIncomplete : W16 := 0x0802
def Status.sigFail : W16 := 0x0901
def Status.crcFail : W16 := 0x0902
def Status.imageFallback : W16 := 0x0903
def Status.svnLow : W16 := 0x0904
def Status.linkDown : W16 := 0x0A01
def Status.peerLost : W16 := 0x0A02
def Status.codeLate : W16 := 0x0B01
def Status.codeCorrupt : W16 := 0x0B02

/-- The statuses that count as success under R46: OK and the warnings of Table 2.10. -/
def Status.success (st : W16) : Bool :=
  st == Status.ok || st == Status.stageStall || st == Status.rangeGuard || st == Status.cadenceLost ||
  st == Status.imageFallback || st == Status.codeLate

/-! ## Registers of the window that hold what was written -/

/-- The reset value of a stored register, by offset: the spec's tables of each chapter; 0 where they give 0. -/
def regReset (off : Nat) : W64 :=
  if off = 0x00060 then 0x13F                                            -- EVT_CFG: ENABLE 0x3F, PKTERR_GAP 1
  else if off = 0x00100 then at64 16 16 10000 ||| at64 32 16 10000       -- JOB_CFG
  else if 0x01000 ≤ off ∧ off < 0x01400 then 0xC1                        -- Q_CFG: CLASS 1, DEPTH_LOG2 12
  else if off = 0x20000 then at64 2 4 7 ||| at64 6 16 16                 -- STB_CFG: PDIV 7, HOLD 16
  else if off = 0x20008 then at64 0 32 1000 ||| at64 32 32 10000000      -- STB_WIN
  else if 0x20100 ≤ off ∧ off < 0x20180 ∧ off % 8 = 0 then 2                -- LG_CFG: PERIOD 1
  else if off = 0x40010 then 11                                          -- TST_CFG
  else if off = 0x40018 then 24                                          -- SCRUB_CFG
  else if 0x80000 ≤ off ∧ off < 0x80100 ∧ off % 64 = 0 then                -- WR_CFG: BLKPG 16, SHBLK 1, SLOTS 2, NSIG 1
    at64 15 7 16 ||| at64 22 11 1 ||| at64 33 3 2 ||| at64 44 9 1
  else if off = 0xA0000 then at64 17 8 16 ||| at64 25 16 30000 ||| at64 41 16 10000 ||| at64 57 7 5   -- TRN_CFG
  else if off = 0xA0008 then at64 0 8 16 ||| at64 8 1 1 ||| at64 9 16 2000 ||| at64 25 16 0x3F80      -- TRN_LS
  else if off = 0xB0000 then 10000                                       -- COLL_CFG
  else if off = 0x50020 then 1 ||| at64 7 16 10000                       -- DOM_CFG: MIN 1, FORM_TO 10,000
  else if off = 0x60000 then 2400                                        -- PWR_CAP
  else if 0xB1000 ≤ off ∧ off < 0xB2000 ∧ off % 16 = 0 then at64 13 4 8  -- GRP_CFG: CREDITS 8
  else 0

/-- What a stored register holds. -/
def State.reg (s : State) (off : Nat) : W64 := Tab.get (regReset off) s.regs off
/-- Store a register. -/
def State.setReg (s : State) (off : Nat) (v : W64) : State :=
  { s with regs := Tab.put (regReset off) s.regs off v }

def Reg.evtCfg : Nat := 0x00060
def Reg.jobCfg : Nat := 0x00100
def Reg.jobSeed : Nat := 0x00108
def Reg.qCfg (q : Nat) : Nat := 0x01000 + 16 * q
def Reg.ctxCfg (c : Nat) : Nat := 0x70000 + 32 * c
def Reg.memCfg : Nat := 0x90000
def Reg.trn (o : Nat) : Nat := 0xA0000 + o
/-- TRN_CFG.ENABLE and TRN_VER (10 Tables 10.2 and 10.3). -/
def State.trnOn (s : State) : Bool := bit (s.reg (Reg.trn 0)) 0
def State.trnVer (s : State) : W64 := s.reg (Reg.trn 0x10)

/-- JOB_CFG fields (Table 2.16). -/
def State.dpm (s : State) : Bool := bit (s.reg Reg.jobCfg) 0
def State.satPolicy (s : State) : Bool := bit (s.reg Reg.jobCfg) 1
def State.subtractPass (s : State) : Bool := bit (s.reg Reg.jobCfg) 2
def State.depToDef (s : State) : Nat := fld (s.reg Reg.jobCfg) 16 16
def State.bulkAge (s : State) : Nat := fld (s.reg Reg.jobCfg) 32 16
def State.jobSeed (s : State) : W64 := s.reg Reg.jobSeed
def State.qClass (s : State) (q : Nat) : Nat := fld (s.reg (Reg.qCfg q)) 0 2
def State.qEnabled (s : State) (q : Nat) : Bool := bit (s.reg (Reg.qCfg q)) 2
def State.qDepth (s : State) (q : Nat) : Nat := 2 ^ fld (s.reg (Reg.qCfg q)) 4 4

/-! ## Free values (log 3) -/

/-- Draw a value the spec does not state. -/
def State.draw (s : State) : W64 × State := (Config.freeValue s.drawn, { s with drawn := s.drawn + 1 })

/-! ## Queues, slots, ports -/

def State.queue (s : State) (q : Nat) : Queue := Tab.get {} s.host.queues q
def State.setQueue (s : State) (q : Nat) (x : Queue) : State :=
  { s with host := { s.host with queues := Tab.put {} s.host.queues q x } }
def State.slot (s : State) (i : Nat) : Slot := Tab.get {} s.host.slots i
def State.setSlot (s : State) (i : Nat) (x : Slot) : State :=
  { s with host := { s.host with slots := Tab.put {} s.host.slots i x } }
def State.port (s : State) (p : PortId) : Port := Tab.get {} s.ports p.idx
def State.setPort (s : State) (p : PortId) (x : Port) : State :=
  { s with ports := Tab.put {} s.ports p.idx x }

/-- The commands of a queue that have not completed, with their queue. -/
def State.liveCmds (s : State) : List (Nat × Cmd) :=
  (List.range 64).flatMap (fun q =>
    ((s.queue q).cmds.filter (fun c => match c.phase with | .done _ => false | .dropped => false | _ => true)).map (fun c => (q, c)))

/-- The job has a command queued or running (R21, R58, R147, R243). -/
def State.busy (s : State) : Bool := !s.liveCmds.isEmpty

def State.findCmd (s : State) (q : Nat) (seq : W32) : Option Cmd :=
  (s.queue q).cmds.find? (fun c => c.seq == seq)

/-- Replace one command of a queue. -/
def State.updCmd (s : State) (q : Nat) (seq : W32) (f : Cmd → Cmd) : State :=
  let x := s.queue q
  s.setQueue q { x with cmds := x.cmds.map (fun c => if c.seq == seq then f c else c) }

/-- DONE_SEQ passes the commands at the front that have completed or were dropped (R52, log 20). -/
def Queue.pop (x : Queue) : Queue :=
  let gone (c : Cmd) : Bool := match c.phase with | .done _ => true | .dropped => true | _ => false
  let k := (x.cmds.takeWhile gone).length
  { x with cmds := x.cmds.drop k, doneSeq := x.doneSeq + BitVec.ofNat 32 k }

/-- The effect of a command has ended with a status and result data; COMMAND_COMPLETE follows (R52). -/
def State.endCmd (s : State) (q : Nat) (seq : W32) (st : W16) (data : List Byte) : State :=
  s.updCmd q seq (fun c => { c with phase := .ended st, data := data })

/-- Opcode of a command (Table 2.5). -/
def Cmd.opcode (c : Cmd) : Nat := leAt c.raw 0 1
def Cmd.full (c : Cmd) : Bool := bitsAt c.raw 8 1 == 1
/-- Operand bits of a command, counted from bit 0 of byte 40. -/
def Cmd.opnd (c : Cmd) (lo n : Nat) : Nat := bitsAt c.raw (320 + lo) n

/-! ## Boot stages and domain states that other rules ask for (15 R387, R391, R394) -/

/-- Link-ready, PXU apart: the READY stage or RECOVERY. Before, packets wait in the receive buffer (log 36). -/
def State.serving (s : State) : Bool := s.boot.stage == 7 || s.boot.stage == 8
def State.recovery (s : State) : Bool := s.boot.stage == 8
/-- The domain is BOOTING, FORMING or INCOMPLETE. -/
def State.domClosed (s : State) : Bool := s.dom.st == 0 || s.dom.st == 1 || s.dom.st == 4
/-- Register offsets that RECOVERY serves (15 R391). -/
def regServed (s : State) (off : Nat) : Bool :=
  !s.recovery || decide (off < 0x100) || (decide (0x50000 ≤ off) && decide (off < 0x51000))

/-! ## Packets out (02 R39, R56) -/

def modNum (ident : Option (BitVec 12)) : Nat := (ident.getD 0).toNat % 64

/-- A module-to-host packet: type, TAG and MOD, the other words and the payload padded to 32 bytes. -/
def mkUp (ty tag m : Nat) (dw1 dw2 dw3 : W32) (payload : List Byte) : Packet :=
  let pl := padTo 32 payload
  { dw0 := BitVec.ofNat 32 (ty + 16 + (m % 64) * 2 ^ 6 + (pl.length / 32 % 2 ^ 11) * 2 ^ 12 + (tag % 512) * 2 ^ 23),
    dw1 := dw1, dw2 := dw2, dw3 := dw3, payload := pl }

/-- Hand a packet to PXU. -/
def State.postUp (s : State) (k : Packet) : State :=
  { s with host := { s.host with upTx := s.host.upTx ++ [k] } }
/-- Hand a packet to PXD. -/
def State.postDown (s : State) (k : Packet) : State :=
  { s with host := { s.host with downTx := s.host.downTx ++ [k] } }

/-- An EVENT of class c with a status (R56, Table 2.9), sent while its class is enabled. TAG of an EVENT is 0, and STATUS is the
command's status in a RESULT_READY, LINK_DOWN in a LINK event (DESIGN CHOICE, log 80). -/
def State.event (s : State) (c : Nat) (st : W16) (dw2 dw3 : W32) : State :=
  if bit (s.reg Reg.evtCfg) (c - 1) then
    s.postUp (mkUp 0x8 0 (modNum s.host.ident) (BitVec.ofNat 32 (c + st.toNat * 2 ^ 16)) dw2 dw3 [])
  else s

/-- Add to a saturating count of PXL_ERRCNT: 0 CORRECTED, 1 NAKS, 2 RETRAINS, 3 DROPPED (Table 2.14). -/
def State.errCount (s : State) (i n : Nat) : State :=
  { s with host := { s.host with err := Tab.upd 0 s.host.err i (fun x => min 0xFFFF (x + n)) } }

/-! ## Tiles -/

def State.tile (s : State) (t : Nat) : Tile := Tab.get {} s.tl.tile t
def State.setTile (s : State) (t : Nat) (x : Tile) : State :=
  { s with tl := { s.tl with tile := Tab.put {} s.tl.tile t x } }
def State.updTile (s : State) (t : Nat) (f : Tile → Tile) : State := s.setTile t (f (s.tile t))

/-- Scalar register n: s0 reads as 0 (R60). -/
def Tile.rd (x : Tile) (n : Nat) : W64 := if n = 0 then 0 else Tab.get 0 x.s n
/-- Write scalar register n: a write to s0 is ignored (R60). -/
def Tile.wr (x : Tile) (n : Nat) (v : W64) : Tile := if n = 0 then x else { x with s := Tab.put 0 x.s n v }
/-- Mask register n: k0 reads as all ones (R60). -/
def Tile.rdK (x : Tile) (n : Nat) : BitVec 256 := if n = 0 then BitVec.allOnes 256 else Tab.get 0 x.k n
/-- Write mask register n: a write to k0 is ignored (R60). -/
def Tile.wrK (x : Tile) (n : Nat) (v : BitVec 256) : Tile := if n = 0 then x else { x with k := Tab.put 0 x.k n v }
def Tile.ev (x : Tile) (e : Nat) : BitVec 4 := Tab.get 0 x.e e
def Tile.setEv (x : Tile) (e : Nat) (v : BitVec 4) : Tile := { x with e := Tab.put 0 x.e e v }
def Tile.desc (x : Tile) (i : Nat) : BitVec 256 := Tab.get 0 x.d i
def Tile.setDesc (x : Tile) (i : Nat) (v : BitVec 256) : Tile := { x with d := Tab.put 0 x.d i v }
def Tile.queue (x : Tile) (e : Eng) : List EInstr := Tab.get [] x.q e.idx
def Tile.setQueue (x : Tile) (e : Eng) (l : List EInstr) : Tile := { x with q := Tab.put [] x.q e.idx l }
def Tile.running (x : Tile) (e : Eng) : List EInstr := Tab.get [] x.run e.idx
def Tile.setRunning (x : Tile) (e : Eng) (l : List EInstr) : Tile := { x with run := Tab.put [] x.run e.idx l }

/-- The core is at a fault stop point (R74). -/
def Core.isStop : Core → Bool
  | .stopPoint _ => true
  | _ => false

/-- All engines of a tile (Table 3.2). -/
def Eng.all : List Eng :=
  [.matrix, .vector, .madder, .rd 0, .rd 1, .rd 2, .rd 3, .wr 0, .wr 1, .sync]

/-- No engine of the tile holds or runs an instruction. -/
def Tile.drained (x : Tile) : Bool := Eng.all.all (fun e => (x.queue e).isEmpty && (x.running e).isEmpty)
/-- No engine of the tile runs an instruction. -/
def Tile.quiet (x : Tile) : Bool := Eng.all.all (fun e => (x.running e).isEmpty)

/-! ### Scratchpad and accumulators (03 R61, 05 R117) -/

def spadSize : Nat := 0x200000

def Tile.spadBytes (x : Tile) (off n : Nat) : List Byte :=
  (List.range n).map (fun i => Tab.get 0 x.spad (off + i))

/-- Write consecutive bytes of a table. -/
def putBytes (m : Tab Byte) (off : Nat) : List Byte → Tab Byte
  | [] => m
  | b :: bs => putBytes (Tab.put 0 m off b) (off + 1) bs

def Tile.setSpad (x : Tile) (off : Nat) (bs : List Byte) : Tile := { x with spad := putBytes x.spad off bs }

/-- A number of `k` bytes at a scratchpad offset, little-endian (R7). -/
def Tile.spadNat (x : Tile) (off k : Nat) : Nat := ofBytesLE (x.spadBytes off k)

/-- Entry e of a half (Table 6.2 raw code). -/
def Tile.acc (x : Tile) (half e : Nat) : A36 := Tab.get 0 (if half = 0 then x.acc0 else x.acc1) e
def Tile.setAcc (x : Tile) (half e : Nat) (v : A36) : Tile :=
  if half = 0 then { x with acc0 := Tab.put 0 x.acc0 e v } else { x with acc1 := Tab.put 0 x.acc1 e v }

/-! ## Clusters and physical positions (01 R14) -/

def State.cluster (s : State) (c : Nat) : Cluster := Tab.get {} s.flt.cluster c
def State.setCluster (s : State) (c : Nat) (x : Cluster) : State :=
  { s with flt := { s.flt with cluster := Tab.put {} s.flt.cluster c x } }
def State.updCluster (s : State) (c : Nat) (f : Cluster → Cluster) : State := s.setCluster c (f (s.cluster c))

/-- The position that holds a role in a cluster; 18 where none does. -/
def Cluster.posOf (x : Cluster) (r : Role) : Nat := x.roles.findIdx (fun y => y == r)
def Cluster.role (x : Cluster) (p : Nat) : Role := x.roles.getD p .retired
def Cluster.setRole (x : Cluster) (p : Nat) (r : Role) : Cluster := { x with roles := x.roles.set p r }
/-- The physical position of logical tile t. -/
def State.tilePos (s : State) (t : Nat) : Nat := (s.cluster (t / 16)).posOf (.work (t % 16))

/-! ## LAUNCHes -/

def State.launchOf (s : State) (t : Nat) : Option Launch :=
  match (s.tile t).launch with
  | none => none
  | some (q, seq) => s.tl.launches.find? (fun l => l.q == q && l.seq == seq)

def State.updLaunch (s : State) (q : Nat) (seq : W32) (f : Launch → Launch) : State :=
  { s with tl := { s.tl with launches := s.tl.launches.map (fun l => if l.q == q && l.seq == seq then f l else l) } }

/-- A power domain is out of its limits (14 R371). -/
def State.domBad (s : State) (i : Nat) : Bool := (Tab.get none s.flt.volt i).isSome

/-- The units of a port's power domain have stopped (14 R371, 16 Table 16.3). -/
def State.portStopped (s : State) (p : PortId) : Bool :=
  match p with
  | .fab n => s.domBad (if n.toNat < 8 then 57 else 58)
  | _ => s.domBad 56

/-- What keeps tile t from issuing, starting and completing: a context move, a stopped or lost cluster, a power domain out
of its limits, a die over its limit (03 R75; 14 R365, R371). -/
def State.tileHeld (s : State) (t : Nat) : Bool :=
  let c := t / 16
  let x := s.cluster c
  let d := 28 * (c / 8)
  s.tl.moves.any (fun m => m.tile == t && m.begun) || x.relockAt.isSome || x.clockFault.isSome || x.lost ||
  [d + 3 * (c % 8), d + 3 * (c % 8) + 1, d + 3 * (c % 8) + 2].any (fun i => (Tab.get none s.flt.volt i).isSome) ||
  (Tab.get none s.flt.hot (c / 8)).isSome

/-! ## Sync objects -/

def State.obj (s : State) (i : Nat) : W32 := Tab.get 0 s.sync.obj i
def State.setObj (s : State) (i : Nat) (v : W32) : State := { s with sync := { s.sync with obj := Tab.put 0 s.sync.obj i v } }
/-- A signal on its way to an object of this module (R106). -/
def State.signal (s : State) (g : Signal) : State := { s with sync := { s.sync with sigs := s.sync.sigs ++ [g] } }

/-- The home cluster of a sync object, die × 8 + cluster (01 R16). -/
def homeCluster (o : Nat) : Nat := o / 1024 % 16
/-- The controller of the object's home cluster is stopped, its CC domain out of its limits (01 R16; 14 R371, 16 Table 16.3): it
applies no signal and meets no wait. -/
def State.homeStopped (s : State) (o : Nat) : Bool := s.domBad (28 * (homeCluster o / 8) + 3 * (homeCluster o % 8) + 2)
/-- The home controller finds that the object has reached a threshold (02 R46). -/
def State.objReached (s : State) (o : Nat) (v : W32) : Bool := !s.homeStopped o && reached32 (s.obj o) v
/-- The sync-object directory forwards a signal of the host, of another module or of the step base to the home cluster, which adds
it (01 R16); to a stopped controller it stays on its way. -/
def State.homeAdd (s : State) (o : Nat) (v : W32) : State :=
  if s.homeStopped o then s.signal { src := none, obj := o, add := v } else s.setObj o (s.obj o + v)

/-! ## Roles and holders (10 R265, 11 R274) -/

/-- The module that holds a role. -/
def State.holderOf (s : State) (role : BitVec 12) : BitVec 12 :=
  match s.flt.holders.find? (fun h => h.1 == role) with
  | some h => h.2
  | none => role

/-- The role this module holds: its own, or the one taken over. -/
def State.myRole (s : State) : BitVec 12 :=
  match s.flt.holders.find? (fun h => h.2 == s.host.ident.getD 0) with
  | some h => h.1
  | none => s.host.ident.getD 0

def State.isFailed (s : State) (id : BitVec 12) : Bool := s.flt.failed.contains id

/-- The lane of a body: SIG packets and messages without data travel on the signal lane, 1, all else on the bulk lane (13 R325). -/
def FabBody.lane : FabBody → Nat
  | .data _ _ => 0
  | .bulk _ _ => 0
  | _ => 1

/-- Parts of a message that carries n bytes of data: 64 bytes beside the data, at most 8,192 a part (DESIGN CHOICE, log 21). -/
def bulkParts (n : Nat) : Nat := (n + 64 + 8191) / 8192

/-- Send a packet to another module; it is kept until it is acknowledged (13 R326). The second result is its ESEQ. -/
def State.fabSend (s : State) (dst : BitVec 12) (b : FabBody) : State × W32 :=
  let k := 2 * dst.toNat + FabBody.lane b
  let e := Tab.get 0 s.fab.eseq k
  ({ s with fab := { s.fab with
      sent := s.fab.sent ++ [{ dst := dst, eseq := e, body := b, first := s.now, last := s.now }],
      eseq := Tab.put 0 s.fab.eseq k (e + 1) } }, e)

/-- Send a protocol message: one that carries data goes in parts on the bulk lane. -/
def State.sendMsg (s : State) (dst : BitVec 12) (m : Msg) : State :=
  match m.load with
  | none => (s.fabSend dst (.ctl m)).1
  | some n => (List.range (bulkParts n)).foldl (fun s i => (s.fabSend dst (.bulk m i)).1) s
/-- Send a protocol message to each module of a list but this one. -/
def State.sendAll (s : State) (l : List (BitVec 12)) (m : Msg) : State :=
  (l.filter (fun d => some d != s.host.ident)).foldl (fun s d => s.sendMsg d m) s

/-- The master of the timing set: the lowest identity of those heard of and its own (13 R338). -/
def State.master (s : State) : BitVec 12 :=
  s.stb.known.foldl (fun m d => if d.toNat < m.toNat then d else m) (s.host.ident.getD 0)
def State.isMaster (s : State) : Bool := s.master == s.host.ident.getD 0

/-- PHASE (13 R330): units of 2^PDIV reference periods since it was last set, stopping at 0xFFFF_FFFF. -/
def State.phase (s : State) : W32 :=
  BitVec.ofNat 32 (min 0xFFFFFFFF
    (s.stb.phase0.toNat + (s.stb.tick - s.stb.phaseAt).toNat / 2 ^ fld (s.reg 0x20000) 2 4))

/-! ## Contexts -/

def State.ctx (s : State) (c : Nat) : Ctx := Tab.get {} s.cx.ctx c
def State.setCtx (s : State) (c : Nat) (x : Ctx) : State := { s with cx := { s.cx with ctx := Tab.put {} s.cx.ctx c x } }
def State.ctxEnabled (s : State) (c : Nat) : Bool := decide (c < 48) && bit (s.reg (Reg.ctxCfg c)) 0
def State.ctxHkv (s : State) (c : Nat) : Nat := fld (s.reg (Reg.ctxCfg c)) 1 4 + 1
def State.ctxKvf (s : State) (c : Nat) : Nat := fld (s.reg (Reg.ctxCfg c)) 5 2
def State.ctxCopiesLog2 (s : State) (c : Nat) : Nat := fld (s.reg (Reg.ctxCfg c)) 8 3
def State.ctxTable (s : State) (c : Nat) : Nat := fld (s.reg (Reg.ctxCfg c)) 16 20 * 524288
def State.ctxPages (s : State) (c : Nat) : Nat := fld (s.reg (Reg.ctxCfg c)) 48 15

end Sys2Proof.Machine
end

