-- ==== Sys2Proof/Machine/Log.lean ====
section
/-! DEFINITION. Counters and the fault log (14 R377 to R379). -/
namespace Sys2Proof.Machine

/-- Counters of Table 14.7. -/
def Cnt.spadCorr : Nat := 0
def Cnt.nearCorr : Nat := 1
def Cnt.outerCorr : Nat := 2
def Cnt.memUe : Nat := 3
def Cnt.icachePar : Nat := 4
def Cnt.checkUnits : Nat := 5
def Cnt.checkDisagree : Nat := 6
def Cnt.checkerWrong : Nat := 7
def Cnt.checkUnres : Nat := 8
def Cnt.plausFlag : Nat := 9
def Cnt.envExceed : Nat := 10
def Cnt.scrubPasses : Nat := 11
def Cnt.rowRetire : Nat := 12
def Cnt.testsRun : Nat := 13
def Cnt.testsFailed : Nat := 14
def Cnt.testsSkipped : Nat := 15
def Cnt.residue : Nat := 16
def Cnt.order : Nat := 17
def Cnt.holdDiscard : Nat := 18
def Cnt.pinRelease : Nat := 19
def Cnt.varClamp : Nat := 20
def Cnt.chReplay : Nat := 21
def Cnt.stageStall : Nat := 22
def Cnt.flowFault : Nat := 23
def Cnt.marginSteps : Nat := 24
def Cnt.recalls : Nat := 25
def Cnt.resumes : Nat := 26
def Cnt.satOther : Nat := 27

/-- Add to counter n, modulo 2^64 (R378). -/
def State.count (s : State) (n k : Nat) : State :=
  { s with flt := { s.flt with cnt := Tab.upd 0 s.flt.cnt n (fun v => v + BitVec.ofNat 64 k) } }

/-- Fault classes (Table 14.1). -/
def Cls.tileCheck : Nat := 0x01
def Cls.tilePlaus : Nat := 0x02
def Cls.tileTest : Nat := 0x03
def Cls.tstore : Nat := 0x04
def Cls.core : Nat := 0x05
def Cls.memory : Nat := 0x06
def Cls.adder : Nat := 0x07
def Cls.link : Nat := 0x08
def Cls.clock : Nat := 0x09
def Cls.voltage : Nat := 0x0A
def Cls.thermal : Nat := 0x0B
def Cls.stepBase : Nat := 0x0C
def Cls.image : Nat := 0x0D
def Cls.replica : Nat := 0x0E
def Cls.module : Nat := 0x0F
def Cls.margin : Nat := 0x10
def Cls.capacity : Nat := 0x11
def Cls.notice : Nat := 0x12

/-- UNIT words (Table 14.8): a tile position, a vault position, an IOD unit, a power domain. -/
def Unit.tile (cluster pos : Nat) : W16 := BitVec.ofNat 16 (cluster % 16 * 32 + pos % 32)
def Unit.vault (cluster pos : Nat) : W16 := BitVec.ofNat 16 (0x4000 + cluster % 16 * 32 + pos % 32)
def Unit.iod (n : Nat) : W16 := BitVec.ofNat 16 (0x8000 + n % 256)
def Unit.domain (n : Nat) : W16 := BitVec.ofNat 16 (0xC000 + n % 64)

/-- Write a log entry and send its EVENT of class FAULT (R379). -/
def State.log (s : State) (cls action : Nat) (st : W16) (unit : W16) (ident : BitVec 12) (detail : W64) : State :=
  let e : LogEntry :=
    { seq := s.flt.next, cls := cls, action := action, status := st, tick := s.stb.tick,
      step := s.stb.step.setWidth 32, unit := unit, ident := ident, detail := detail }
  let l := s.flt.log ++ [e]
  let s1 := { s with flt := { s.flt with log := l.drop (l.length - 1024), next := s.flt.next + 1 } }
  s1.event 0x04 st e.seq (BitVec.ofNat 32 (cls % 256 + unit.toNat * 2 ^ 16))

/-- A NOTICE entry of the own module. -/
def State.notice (s : State) (unit : W16) (detail : W64) : State :=
  s.log Cls.notice 0 Status.ok unit (s.host.ident.getD 0) detail

/-- The tensor slot that counts for an identifier (R377, Table 14.6): the valid slot that names it. -/
def State.tensorSlot (s : State) (tensor : Nat) : Option Nat :=
  (List.range 256).find? (fun j =>
    let r := s.reg (0x41000 + 16 * j)
    bit r 24 && fld r 0 24 == tensor)

/-- Count k saturations under a tensor identifier (R152, R378). -/
def State.countSat (s : State) (tensor k : Nat) : State :=
  if k = 0 then s
  else
    match s.tensorSlot tensor with
    | some j => { s with flt := { s.flt with tcnt := Tab.upd 0 s.flt.tcnt j (fun v => v + BitVec.ofNat 64 k) } }
    | none => s.count Cnt.satOther k

/-- Flags raised by STEP-class work bound to version ver reach the step accounting: the window's, or those after the norm
contribution was formed (06 R152, 09 R236, 10 R251, R254). -/
def State.stepFlags (s : State) (ver : W64) (step : Bool) (fl : Fl) : State :=
  if step && s.trnOn && ver == s.trnVer then
    let nan := fl.nanIn || fl.nanGen
    if s.trn.formed then
      { s with trn := { s.trn with late := s.trn.late || nan || (fl.ovf && !s.satPolicy) } }
    else { s with trn := { s.trn with winOvf := s.trn.winOvf || fl.ovf, winNan := s.trn.winNan || nan } }
  else s

end Sys2Proof.Machine
end

