-- ==== Sys2Proof/Machine/Mem.lean ====
section
/-! DEFINITION. Near and outer tier: the address map, plain reads and writes, ECC outcomes, memory-side contributions
(09 R215 to R236). -/
namespace Sys2Proof.Machine

/-! ## Addresses -/

def nearSize : Nat := 0x8000000000
def outerBase : Nat := 0x10000000000
def outerEnd : Nat := 0x30000000000

def inNear (a : Nat) : Bool := decide (a < nearSize)
def inOuter (a : Nat) : Bool := decide (outerBase ≤ a) && decide (a < outerEnd)
def inTier (a : Nat) : Bool := inNear a || inOuter a
/-- A range of n bytes wholly inside one tier (R42). -/
def inOneTier (a n : Nat) : Bool :=
  (decide (a + n ≤ nearSize)) || (decide (outerBase ≤ a) && decide (a + n ≤ outerEnd))

/-- Logical vault and vault offset of a near-tier address under interleave mode il (R216, Table 9.2). -/
def nearMap (il a : Nat) : Nat × Nat :=
  match il with
  | 1 => (16 * (a / 2 ^ 35 % 16) + a / 2 ^ 12 % 16, a / 2 ^ 16 % 2 ^ 19 * 4096 + a % 4096)
  | 2 => (a / 2 ^ 12 % 256, a / 2 ^ 20 % 2 ^ 19 * 4096 + a % 4096)
  | _ => (a / 2 ^ 31 % 256, a % 2 ^ 31)

/-- The address of (v, o): the inverse of nearMap. -/
def nearUnmap (il v o : Nat) : Nat :=
  match il with
  | 1 => v / 16 * 2 ^ 35 + o / 4096 * 2 ^ 16 + v % 16 * 2 ^ 12 + o % 4096
  | 2 => o / 4096 * 2 ^ 20 + v * 2 ^ 12 + o % 4096
  | _ => v * 2 ^ 31 + o

def State.il (s : State) : Nat := fld (s.reg Reg.memCfg) 0 2

/-- The location of vault v, offset o. -/
def vaultLoc (v o : Nat) : Nat := v * 2 ^ 31 + o
def locVault (loc : Nat) : Nat := loc / 2 ^ 31
def locNear (loc : Nat) : Bool := decide (loc < nearSize)

/-- Channel and channel offset of an outer-tier address (R217), the location that stands for them, and the way back. -/
def outerMap (a : Nat) : Nat × Nat := let x := a - outerBase; (x / 2 ^ 10 % 16, x / 2 ^ 14 * 1024 + x % 1024)
def outerLoc (a : Nat) : Nat := outerBase + (outerMap a).1 * 2 ^ 37 + (outerMap a).2
def outerChannel (loc : Nat) : Nat := (loc - outerBase) / 2 ^ 37
def outerUnmap (loc : Nat) : Nat :=
  let o := (loc - outerBase) % 2 ^ 37
  outerBase + o / 1024 * 2 ^ 14 + outerChannel loc * 1024 + o % 1024

/-- The location a module address names (Table 9.1); none in an unmapped range. -/
def State.addrLoc (s : State) (a : Nat) : Option Nat :=
  if inNear a then let (v, o) := nearMap s.il a; some (vaultLoc v o)
  else if inOuter a then some (outerLoc a)
  else none

/-- The module address of a location, as the fault log names it. A granule of a reserve or system vault has none: the location itself
stands for it (DESIGN CHOICE, log 88). -/
def State.locAddr (s : State) (loc : Nat) : Nat :=
  if locNear loc then nearUnmap s.il (locVault loc) (loc % 2 ^ 31) else if inOuter loc then outerUnmap loc else loc

/-! ## DPM buffers (R241) -/

def handleIdx (h : Nat) : Nat := h % 2 ^ 16
def handleGen (h : Nat) : Nat := h / 2 ^ 16 % 2 ^ 16

/-- The buffer's storage is taken: it is live, or freed while a command accepted before still waits or runs. -/
def State.bufHeld (s : State) (b : DpmBuf) : Bool :=
  b.live || s.liveCmds.any (fun c => b.waits.contains (c.1, c.2.seq))

/-- The buffer a handle names, while its storage is taken. -/
def State.dpmBuf (s : State) (h : Nat) : Option DpmBuf :=
  match Tab.get none s.mem.dpm (handleIdx h) with
  | some b => if s.bufHeld b && b.gen == handleGen h && handleIdx h != 0 then some b else none
  | none => none

/-- The location of byte i of a buffer; with `mir` of its mirror copy (Table 9.7). -/
def DpmBuf.loc (b : DpmBuf) (mir : Bool) (i : Nat) : Option Nat :=
  if i < b.size then
    if b.near then
      let g := i / 4096
      match (if mir then b.mframes else b.frames)[g]? with
      | some f => some (vaultLoc ((b.vault0 + g + (if mir then 128 else 0)) % 256) (f * 4096 + i % 4096))
      | none => none
    else if mir then none
    else some (outerLoc (b.base + i))
  else none

/-- The byte number of a location within a buffer's first copy. -/
def DpmBuf.index (b : DpmBuf) (loc : Nat) : Option Nat :=
  if b.near then
    (List.range b.frames.length).findSome? (fun g =>
      if locNear loc && locVault loc == (b.vault0 + g) % 256 && loc % 2 ^ 31 / 4096 == b.frames.getD g 0 then
        some (4096 * g + loc % 4096) else none)
  else if inOuter loc && decide (b.base ≤ outerUnmap loc) && decide (outerUnmap loc < b.base + b.size) then some (outerUnmap loc - b.base)
  else none

/-- The byte number of a location within the mirror copy. -/
def DpmBuf.mindex (b : DpmBuf) (loc : Nat) : Option Nat :=
  (List.range b.mframes.length).findSome? (fun g =>
    if locNear loc && locVault loc == (b.vault0 + g + 128) % 256 && loc % 2 ^ 31 / 4096 == b.mframes.getD g 0 then
      some (4096 * g + loc % 4096) else none)

/-- The byte number of a location within either copy. -/
def DpmBuf.anyIndex (b : DpmBuf) (loc : Nat) : Option Nat := (b.index loc).or (b.mindex loc)

/-- The location in the mirror copy of a granule that a mirrored buffer's first copy holds (Table 9.7): a contribution is a write
too. -/
def State.mirrorOf (s : State) (loc : Nat) : Option Nat :=
  if s.dpm then
    s.mem.dpm.findSome? (fun e =>
      match e.2 with
      | some b => if b.mirror && s.bufHeld b then (b.index loc).bind (b.loc true) else none
      | none => none)
  else none

/-- An address operand: a module address, or in DPM a handle and a byte offset (R42, R237). -/
inductive Ref where
  | addr (a : Nat)
  | hnd (h off : Nat)
  /-- A location given as vault and offset (stream targets VAULT and OWN). -/
  | loc (l : Nat)
  deriving DecidableEq, Repr

/-- The reference may be used: its handle is live, or was freed after the acceptance of the command `who` (R241). -/
def State.handleOk (s : State) (who : Option (Nat × W32)) : Ref → Bool
  | .hnd h _ =>
    match s.dpmBuf h with
    | some b => b.live || (match who with | some w => b.waits.contains w | none => false)
    | none => false
  | _ => true

/-- A 64-bit operand as a reference under the placement mode. -/
def State.refOf (s : State) (v : W64) : Ref := if s.dpm then .hnd (fld v 0 32) (fld v 32 32) else .addr v.toNat

def Ref.add : Ref → Nat → Ref
  | .addr a, k => .addr (a + k)
  | .hnd h o, k => .hnd h (o + k)
  | .loc l, k => .loc (l + k)

/-- The byte number an alignment rule looks at. -/
def Ref.num : Ref → Nat
  | .addr a => a
  | .hnd _ o => o
  | .loc l => l

def State.refLoc (s : State) : Ref → Option Nat
  | .addr a => s.addrLoc a
  | .hnd h o => (s.dpmBuf h).bind (fun b => b.loc false o)
  | .loc l => some l

def State.refMirror (s : State) : Ref → Option Nat
  | .addr _ => none
  | .hnd h o => (s.dpmBuf h).bind (fun b => if b.mirror then b.loc true o else none)
  | .loc _ => none

/-- Whether the reference starts in a tier or in a buffer. -/
def State.refStarts (s : State) : Ref → Bool
  | .addr a => inTier a
  | .hnd h o => match s.dpmBuf h with | some b => decide (o < b.size) | none => false
  | .loc l => locNear l
/-- Whether n bytes from the reference lie in one tier or in the handle's buffer (R42). -/
def State.refFits (s : State) (r : Ref) (n : Nat) : Bool :=
  match r with
  | .addr a => inOneTier a n
  | .hnd h o => match s.dpmBuf h with | some b => decide (o + n ≤ b.size) | none => false
  | .loc l => decide (l % 2 ^ 31 + n ≤ 2 ^ 31) && locNear l

/-! ## Bytes and granules -/

/-- The memory of the module is in its one form: locations strictly rise and no listed byte is 0, which an unlisted location
reads as. -/
def Memory.wf (m : MemSt) : Bool := Tab.wf 0 m.byte

def State.memByte (s : State) (loc : Nat) : Byte := Tab.get 0 s.mem.byte loc

def State.isUe (s : State) (loc : Nat) : Bool := s.mem.ue.contains (loc / 64)

def addUe (l : List Nat) (g : Nat) : List Nat := if l.contains g then l else l ++ [g]

def State.locBytes (s : State) (loc n : Nat) : List Byte := (List.range n).map (fun i => s.memByte (loc + i))

/-- The contributions held for a granule dropped and counted, and its order count cleared (R231). -/
def State.clearRound (s : State) (g : Nat) : State :=
  let n := (s.mem.held.filter (fun c => c.gran == g && fld c.ctl 0 2 != 2)).length
  let s1 := { s with mem := { s.mem with
    ordc := Tab.put 0 s.mem.ordc g 0,
    held := s.mem.held.filter (fun c => !(c.gran == g && fld c.ctl 0 2 != 2)) } }
  if n = 0 then s1 else s1.count Cnt.holdDiscard n

/-- A plain write of bytes inside one granule. A partial write of an uncorrectable granule leaves it unchanged (R226). -/
def State.putPiece (s : State) (loc : Nat) (bs : List Byte) : State × Bool :=
  if s.isUe loc && bs.length < 64 then (s, false)
  else
    let s1 := s.clearRound (loc / 64)
    ({ s1 with mem := { s1.mem with byte := putBytes s1.mem.byte loc bs,
                                    ue := s1.mem.ue.filter (fun g => g != loc / 64) } }, true)

/-- A piece written by its reference, both copies of a mirrored buffer (Table 9.7). -/
def State.putRefPiece (s : State) (r : Ref) (bs : List Byte) : State × Bool :=
  match s.refLoc r with
  | none => (s, false)
  | some loc =>
    let (s1, ok) := s.putPiece loc bs
    match s.refMirror r with
    | none => (s1, ok)
    | some m => let (s2, ok2) := s1.putPiece m bs; (s2, ok && ok2)

/-- The first piece of a byte string that starts at byte number k: up to the next 64-byte boundary. -/
def pieceLen (k : Nat) : Nat := 64 - k % 64

/-- Write bytes granule by granule; the second result is the first byte number whose granule refused the write. -/
def State.putBytesAt (s : State) : Nat → Ref → List Byte → State × Option Nat
  | 0, _, _ => (s, none)
  | _ + 1, _, [] => (s, none)
  | fuel + 1, r, b :: bs =>
    let n := pieceLen r.num
    let p := (b :: bs).take n
    let (s1, ok) := s.putRefPiece r p
    let (s2, bad) := State.putBytesAt s1 fuel (r.add n) ((b :: bs).drop n)
    (s2, if ok then bad else some r.num)

/-- A plain write (R231); the first refused byte number, if a granule was uncorrectable and written in part. -/
def State.writeRef (s : State) (r : Ref) (bs : List Byte) : State × Option Nat := s.putBytesAt (bs.length + 1) r bs

/-- A plain write by location (page landings, module-internal writes). -/
def State.writeLoc (s : State) (loc : Nat) (bs : List Byte) : State :=
  (List.range (bs.length / 64 + 1)).foldl
    (fun s i => let p := (bs.drop (64 * i)).take 64; if p.isEmpty then s else (s.putPiece (loc + 64 * i) p).1) s

/-! ## Reads and uncorrectable granules (R225) -/

/-- The valid entry of page p in a table buffer (Table 7.7): vault and frame. -/
def State.pageEntry (s : State) (c : Nat) (epoch : W32) (p : Nat) : W64 :=
  match s.addrLoc (s.ctxTable c + 131072 * (epoch.toNat % 4) + 8 * p) with
  | some loc => BitVec.ofNat 64 (ofBytesLE (s.locBytes loc 8))
  | none => 0

/-- Bytes of one head of a page (Table 7.6). -/
def headBytes : Nat → Nat
  | 0 => 131072
  | 1 => 66560
  | _ => 51200

/-- FS of R182 in units of 4 KiB. -/
def State.frameUnits (s : State) (c : Nat) : Nat := ceilDiv (s.ctxHkv c * headBytes (s.ctxKvf c)) 4096

/-- The locations of the copies of a page (R183). -/
def State.pageCopies (s : State) (c : Nat) (e : W64) : List Nat :=
  (List.range (2 ^ s.ctxCopiesLog2 c)).map (fun k =>
    vaultLoc ((fld e 4 8 + k * (256 / 2 ^ s.ctxCopiesLog2 c)) % 256) (fld e 12 19 * 4096))

/-- Another copy of the granule at `loc`: of a context page of a current epoch, or of a mirrored buffer (R225 step 2). -/
def State.otherCopies (s : State) (loc : Nat) : List Nat :=
  let fromCtx := (List.range 48).flatMap (fun c =>
    if s.ctxEnabled c then
      (List.range (s.ctxPages c)).flatMap (fun p =>
        let e := s.pageEntry c (s.ctx c).epoch p
        if bit e 0 then
          let cs := s.pageCopies c e
          match cs.find? (fun b => decide (b ≤ loc) && decide (loc < b + s.frameUnits c * 4096)) with
          | some b => (cs.filter (fun x => x != b)).map (fun x => x + (loc - b))
          | none => []
        else [])
    else [])
  let fromDpm := s.mem.dpm.flatMap (fun (_, ob) =>
    match ob with
    | some b =>
      if b.live && b.mirror && b.near then
        (List.range (b.size / 64)).flatMap (fun i =>
          match b.loc false (64 * i), b.loc true (64 * i) with
          | some x, some y => if x == loc then [y] else if y == loc then [x] else []
          | _, _ => [])
      else []
    | none => [])
  fromCtx ++ fromDpm

/-- The physical vault of logical vault v, and the unit a MEMORY entry names (14 R438). -/
def State.vaultSt (s : State) (v : Nat) : Vault := Tab.get {} s.mem.vault v
def State.setVault (s : State) (v : Nat) (x : Vault) : State := { s with mem := { s.mem with vault := Tab.put {} s.mem.vault v x } }
def State.vaultPos (s : State) (v : Nat) : Nat := (s.vaultSt v).phys.getD (v % 16)
def State.vaultUnit (s : State) (v : Nat) : W16 := Unit.vault (v / 16) (s.vaultPos v)
/-- Cluster and position of the physical vault of a location's vault number: logical vault v, or 256 + c and 272 + c for the reserve,
while it stands by, and the system vault of cluster c (R220); none beyond the near tier. -/
def State.memPos (s : State) (v : Nat) : Option (Nat × Nat) :=
  if v < 256 then some (v / 16, s.vaultPos v)
  else if v < 272 then (if Tab.get 0 s.mem.reserve (v - 256) = 0 then some (v - 256, 16) else none)
  else if v < 288 then some (v - 272, if Tab.get 0 s.mem.sysRemap (v - 272) = 2 then 16 else 17)
  else none
def State.memUnit (s : State) (loc : Nat) : W16 :=
  match s.memPos (locVault loc) with
  | some (c, p) => Unit.vault c p
  | none => Unit.iod (outerChannel loc)

/-- A log entry of class MEMORY or ADDER about a location. -/
def State.logMem (s : State) (cls action : Nat) (loc : Nat) : State :=
  s.log cls action Status.ok (s.memUnit loc) (s.host.ident.getD 0) (BitVec.ofNat 64 (s.locAddr loc))

/-- The module rewrites a granule from another copy of it: its order count and the contributions held for it stay (R225 step 2 is none
of the writes of R231; DEDUCED, log 45). -/
def State.rewrite (s : State) (g : Nat) (bs : List Byte) : State :=
  { s with mem := { s.mem with byte := putBytes s.mem.byte (64 * g) bs, ue := s.mem.ue.filter (fun h => h != g) } }

/-- Steps 1 and 2 of R225 on one granule: repaired from another copy, or still uncorrectable. MEM_UE is counted. -/
def State.repairGranule (s : State) (g : Nat) : State × Bool :=
  if s.mem.ue.contains g then
    let s1 := s.count Cnt.memUe 1
    match (s1.otherCopies (64 * g)).find? (fun l => !s1.isUe l) with
    | some l => ((s1.rewrite g (s1.locBytes (l / 64 * 64) 64)).logMem Cls.memory 1 (64 * g), true)
    | none => (s1, false)
  else (s, true)

/-- Read n bytes from a reference, granule by granule: bytes, state, and the first byte number that stayed
uncorrectable. -/
def State.readAt (s : State) : Nat → Ref → Nat → List Byte × State × Option Nat
  | 0, _, _ => ([], s, none)
  | fuel + 1, r, n =>
    if n = 0 then ([], s, none)
    else
      let k := min n (pieceLen r.num)
      match s.refLoc r with
      | none => ([], s, some r.num)
      | some loc =>
        let (s1, ok) := s.repairGranule (loc / 64)
        if ok then
          let (rest, s2, bad) := State.readAt s1 fuel (r.add k) (n - k)
          (s1.locBytes loc k ++ rest, s2, bad)
        else ([], s1, some r.num)

def State.readRef (s : State) (r : Ref) (n : Nat) : List Byte × State × Option Nat := s.readAt (n + 1) r n

/-- Bytes of a range of module addresses, as a DATA_GET would return them when nothing is uncorrectable. -/
def State.peek (s : State) (a n : Nat) : List Byte :=
  (List.range n).map (fun i => match s.addrLoc (a + i) with | some l => s.memByte l | none => 0)

/-! ## Memory-side contributions (R227 to R236) -/

/-- Control-word fields (Table 9.4). -/
def Contrib.op (c : Contrib) : Nat := fld c.ctl 0 2
def Contrib.dfmt (c : Contrib) : Nat := fld c.ctl 2 2
def Contrib.stoch (c : Contrib) : Bool := bit c.ctl 4
def Contrib.last (c : Contrib) : Bool := bit c.ctl 5
def Contrib.token (c : Contrib) : Nat := fld c.ctl 6 16
def Contrib.scale (c : Contrib) : Num := Fmt.bf16.decode (fld c.ctl 22 16)
def Contrib.tensor (c : Contrib) : Nat := if c.stoch then fld c.ctl 38 24 else 0

/-- The formats of DFMT (Table 9.4). -/
def msaFmt : Nat → Fmt
  | 0 => .bf16
  | 1 => .fp16
  | 2 => .e4m3
  | _ => .e5m2

/-- The elements of a granule as codes. -/
def elems (w : Nat) (bs : List Byte) : List Nat := (chunks w bs).map ofBytesLE

/-- One element of ACC or SACC (R228): the new code and its flags. -/
def accElem (s : State) (c : Contrib) (i d x : Nat) : Nat × Fl :=
  let F := msaFmt c.dfmt
  let dv := F.decode d
  let xv := F.decode x
  let (px, g1) := if c.op = 1 then c.scale.mulX xv else (xv, false)
  let (r, g2) := dv.addX px
  let rnd := if c.stoch then Rnd.stoch (srBits s.jobSeed c.ver c.tensor (c.gran * (64 / F.bytes) + i)) else .rne
  let (code, fl) := F.store rnd s.satPolicy r
  (code, Fl.joinAll [fl, Fl.ofRead dv, Fl.ofRead xv, if c.op = 1 then Fl.ofRead c.scale else {}, { nanGen := g1 || g2 }])

/-- The granule after ACC or SACC. -/
def accGranule (s : State) (c : Contrib) (old : List Byte) : List Byte × Fl :=
  let w := (msaFmt c.dfmt).bytes
  let es := ((elems w old).zip (elems w c.data)).zipIdx
  let rs := es.map (fun ((d, x), i) => accElem s c i d x)
  (rs.flatMap (fun r => toBytesLE w r.1), Fl.joinAll (rs.map (fun r => r.2)))

/-- The sum of squares of a granule's elements (R228): the tree of R153 over groups of 16. -/
def sqGranule (F : Fmt) (data : List Byte) : A36 × Fl :=
  let vs := (elems F.bytes data).map F.decode
  let (r, fl) := sum36 a36Zero (vs.map (fun v => v.mul v))
  (r, Fl.joinAll (fl :: vs.map Fl.ofRead))

def State.sqReg (s : State) (v : Nat) : SqReg := Tab.get {} s.mem.sq v
def State.setSq (s : State) (v : Nat) (x : SqReg) : State := { s with mem := { s.mem with sq := Tab.put {} s.mem.sq v x } }

/-- The key of a contribution's target: a granule, or for SQACC the vault's SQ register. -/
def Contrib.target (c : Contrib) : Nat × Nat := if c.op = 2 then (1, locVault (64 * c.gran)) else (0, c.gran)

/-- The order count of a contribution's target (R229, R233). -/
def State.ordOf (s : State) (c : Contrib) : W16 :=
  if c.op = 2 then (s.sqReg (locVault (64 * c.gran))).nxt else Tab.get 0 s.mem.ordc c.gran

/-- Saturations counted under a tensor, flags to the accounting of the step (R236). -/
def State.fileFlags (s : State) (c : Contrib) (fl : Fl) : State := (s.countSat c.tensor fl.sat).stepFlags c.ver c.step fl

/-- Apply one contribution whose TOKEN is the order count, and advance the count (R228, R229). The flags go to the
accounting of R236. -/
def State.applyContrib (s : State) (c : Contrib) : State × Fl :=
  let nxt : W16 := if c.last then 0 else s.ordOf c + 1
  if c.op = 2 then
    let v := locVault (64 * c.gran)
    let r := s.sqReg v
    let (g, f1) := sqGranule (msaFmt c.dfmt) c.data
    let (t, f2) := a36Add r.sq g
    let fl := Fl.join f1 f2
    ((s.setSq v { sq := t, fin := r.fin || c.last, nxt := nxt }).fileFlags c fl, fl)
  else
    let (bs, fl) := accGranule s c (s.locBytes (64 * c.gran) 64)
    let s1 := { s with mem := { s.mem with byte := putBytes s.mem.byte (64 * c.gran) bs,
                                           ordc := Tab.put 0 s.mem.ordc c.gran nxt } }
    let s2 := match s.mirrorOf (64 * c.gran) with
      | none => s1
      | some m => { s1 with mem := { s1.mem with byte := putBytes s1.mem.byte m bs, ue := s1.mem.ue.filter (fun g => g != m / 64) } }
    (s2.fileFlags c fl, fl)

/-- Apply held contributions whose TOKEN now equals the order count, until none does (R229). -/
def State.applyHeld (s : State) : Nat → (Nat × Nat) → Fl → State × Fl
  | 0, _, fl => (s, fl)
  | fuel + 1, tgt, fl =>
    match s.mem.held.find? (fun c => c.target == tgt && c.token == (s.ordOf c).toNat) with
    | none => (s, fl)
    | some c =>
      let s1 := { s with mem := { s.mem with held := s.mem.held.erase c } }
      let (s2, f) := s1.applyContrib c
      State.applyHeld s2 fuel tgt (Fl.join fl f)

/-- What the vault controller did with a contribution (R229, R230). -/
inductive Accept where
  | applied (fl : Fl)
  | held
  | discarded
  | refused
  deriving DecidableEq, Repr

/-- The hold store of a vault (R230). -/
def holdCap : Nat := 524288

/-- An SQACC with TOKEN 0 that reaches a register whose DONE bit is 1 starts it afresh (R233). -/
def State.sqStart (s : State) (c : Contrib) : State :=
  let v := locVault (64 * c.gran)
  if c.op = 2 ∧ c.token = 0 ∧ (s.sqReg v).fin then s.setSq v { s.sqReg v with sq := a36Zero, fin := false } else s

/-- R229 and R230: a contribution offered to its vault. -/
def State.offer (s : State) (c : Contrib) : State × Accept :=
  let s := s.sqStart c
  let o := (s.ordOf c).toNat
  if c.token = o then
    let (s1, f) := s.applyContrib c
    let (s2, fl) := State.applyHeld s1 (s1.mem.held.length) c.target f
    (s2, .applied fl)
  else if c.token < o || s.mem.held.any (fun h => h.target == c.target && h.token == c.token) then
    (s.count Cnt.order 1, .discarded)
  else
    let v := locVault (64 * c.gran)
    if (s.mem.held.filter (fun h => locVault (64 * h.gran) == v)).length < holdCap then
      ({ s with mem := { s.mem with held := s.mem.held ++ [c] } }, .held)
    else (s, .refused)

/-- A DGST scan: the four CRC lanes over a list of granules (R234). -/
def dgstLanes (gs : List (List Byte)) : BitVec 256 :=
  let lane (j : Nat) : W64 := gs.foldl (fun c g => ((g.drop (16 * j)).take 16).foldl crc64Byte c) crc64Init
  lane 3 ++ lane 2 ++ lane 1 ++ lane 0

/-! ## Ranges written whole by the module -/

/-- The location lies in n bytes from module address a. -/
def State.inRange (s : State) (a n loc : Nat) : Bool :=
  let x := s.locAddr loc
  decide (a ≤ x) && decide (x < a + n)

/-- The location is one of n bytes from a reference, in either copy of a mirrored buffer. -/
def State.refHas (s : State) (r : Ref) (n loc : Nat) : Bool :=
  match r with
  | .addr a => s.inRange a n loc
  | .hnd h o =>
    match (s.dpmBuf h).bind (fun b => b.anyIndex loc) with
    | some i => decide (o ≤ i) && decide (i < o + n)
    | none => false
  | .loc l => decide (l ≤ loc) && decide (loc < l + n)

/-- Write zeros over every granule of the places p: fresh contents, and every round of contributions there is over (R226,
R231). -/
def State.zeroWhere (s : State) (p : Nat → Bool) : State :=
  let lost := (s.mem.held.filter (fun c => p (64 * c.gran) && fld c.ctl 0 2 != 2)).length
  let s1 : State := { s with mem := { s.mem with
    byte := s.mem.byte.filter (fun b => !p b.1),
    ue := s.mem.ue.filter (fun g => !p (64 * g)),
    ordc := s.mem.ordc.filter (fun g => !p (64 * g.1)),
    held := s.mem.held.filter (fun c => !(p (64 * c.gran) && fld c.ctl 0 2 != 2)) } }
  if lost = 0 then s1 else s1.count Cnt.holdDiscard lost

def State.zeroRange (s : State) (a n : Nat) : State := s.zeroWhere (s.inRange a n)

/-- Copy n bytes, whole granules, from module address a to b. A granule that reads as uncorrectable stays so in the copy
(log 19). -/
def State.copyRange (s : State) (a b n : Nat) : State :=
  let s1 := s.zeroRange b n
  let dst (loc : Nat) : Nat := (s.addrLoc (b + (s.locAddr loc - a))).getD 0
  let bytes := s.mem.byte.filter (fun p => s.inRange a n p.1)
  let ues := s.mem.ue.filter (fun g => s.inRange a n (64 * g))
  { s1 with mem := { s1.mem with
    byte := bytes.foldl (fun m p => Tab.put 0 m (dst p.1) p.2) s1.mem.byte,
    ue := ues.foldl (fun l g => addUe l (dst (64 * g) / 64)) s1.mem.ue } }

end Sys2Proof.Machine
end

