-- ==== Sys2Proof/Machine/Operands.lean ====
section
/-! DEFINITION. The instruction word: fields, event slots, reserved bits and the checks of R89 that depend on the word
alone (04 R86 to R91, R99, R100, R105, R112; 05 Tables 5.2, 5.9, 5.12). -/
namespace Sys2Proof.Machine

/-- Fault causes (Table 3.8, R90, R135, R229). -/
inductive Cause where
  | addr | align | illegal | rsvd | debug | accConflict | eventOvf | watchdog | args | mem | operand | table | order
  deriving DecidableEq, Repr

def Cause.code : Cause → Nat
  | .addr => 0x01
  | .align => 0x02
  | .illegal => 0x03
  | .rsvd => 0x04
  | .debug => 0x05
  | .accConflict => 0x06
  | .eventOvf => 0x07
  | .watchdog => 0x08
  | .args => 0x09
  | .mem => 0x0A
  | .operand => 0x0B
  | .table => 0x0C
  | .order => 0x0D

/-- The status a LAUNCH ends with for a cause (Table 3.8, R90, R135, R229). ARGS gives its status at R83. -/
def Cause.status : Cause → W16
  | .rsvd => Status.errReserved
  | .mem => Status.memUncorrectable
  | .table => Status.tableReject
  | _ => Status.errRange

/-- A fault: its cause and the address it names (FADDR, 0 when none). -/
structure TFault where
  cause : Cause
  addr : Nat := 0
  deriving DecidableEq, Repr

/-! ## Common fields (R86, Table 4.2) -/

def W.cls (w : W64) : Nat := fld w 60 4
def W.full (w : W64) : Bool := bit w 59
def W.op (w : W64) : Nat := fld w 52 7
def W.sig1 (w : W64) : Nat := fld w 46 6
def W.sig0 (w : W64) : Nat := fld w 40 6
def W.wait1 (w : W64) : Nat := fld w 34 6
def W.wait0 (w : W64) : Nat := fld w 28 6

/-- The event a slot names, if its valid bit is 1 (R88). -/
def slotEv (v : Nat) : Option Nat := if v / 32 = 1 then some (v % 32) else none

/-- The events waited on and signalled, in slot order. -/
def W.waits (w : W64) : List Nat := [slotEv (W.wait0 w), slotEv (W.wait1 w)].filterMap id
def W.sigs (w : W64) : List Nat := [slotEv (W.sig0 w), slotEv (W.sig1 w)].filterMap id

/-- A slot whose valid bit is 0 has index 0 (R88). -/
def slotsOk (w : W64) : Bool :=
  [W.sig1 w, W.sig0 w, W.wait1 w, W.wait0 w].all (fun v => decide (v / 32 = 1) || decide (v % 32 = 0))

/-- Two valid wait slots, or two valid signal slots, that name one event (R88). -/
def dupEvents (w : W64) : Bool :=
  (match slotEv (W.wait0 w), slotEv (W.wait1 w) with | some a, some b => a == b | _, _ => false) ||
  (match slotEv (W.sig0 w), slotEv (W.sig1 w) with | some a, some b => a == b | _, _ => false)

/-! ## Scalar fields (Table 4.3) -/

def W.rd (w : W64) : Nat := fld w 46 6
def W.ra (w : W64) : Nat := fld w 40 6
def W.rb (w : W64) : Nat := fld w 34 6
def W.pmode (w : W64) : Nat := fld w 32 2
def W.pr (w : W64) : Nat := fld w 26 6
/-- IMM, sign-extended to 64 bits. -/
def W.imm (w : W64) : W64 := BitVec.ofInt 64 (sfld w 0 26)
/-- IMM as a signed number, for branch displacements. -/
def W.immInt (w : W64) : Int := sfld w 0 26

/-! ## Operand fields of engine instructions: the register number in bits [lo + 5 : lo] -/

def W.f6 (w : W64) (lo : Nat) : Nat := fld w lo 6

/-- The value of the register a field names, as captured at issue (R68). -/
def EInstr.reg (i : EInstr) (lo : Nat) : W64 := let n := fld i.w lo 6; if n = 0 then 0 else Tab.get 0 i.sr n
/-- The register after the one a field names: s[RC + 1], s[RN + 1]. -/
def EInstr.reg1 (i : EInstr) (lo : Nat) : W64 := Tab.get 0 i.sr (fld i.w lo 6 + 1)

/-! ## Defined opcodes and reserved bits (R86, R89 checks 1 and 3) -/

/-- Bits [hi : lo] as a mask. -/
def maskBits (hi lo : Nat) : Nat := (2 ^ (hi + 1 - lo) - 1) * 2 ^ lo

/-- Which of RD, RA, RB and IMM a scalar opcode uses (Table 4.4); none for an undefined opcode. -/
def scalarUse (op : Nat) : Option (Bool × Bool × Bool × Bool) :=
  if op = 0x00 ∨ op = 0x54 ∨ op = 0x55 then some (false, false, false, false)
  else if 0x01 ≤ op ∧ op ≤ 0x11 then some (true, true, true, false)
  else if (0x20 ≤ op ∧ op ≤ 0x27) ∨ op = 0x29 ∨ (0x30 ≤ op ∧ op ≤ 0x36) ∨ op = 0x47 then some (true, true, false, true)
  else if op = 0x28 ∨ op = 0x46 ∨ op = 0x50 ∨ op = 0x52 then some (true, false, false, true)
  else if (0x38 ≤ op ∧ op ≤ 0x3B) ∨ (0x40 ≤ op ∧ op ≤ 0x45) then some (false, true, true, true)
  else if op = 0x48 then some (false, true, false, true)
  else if op = 0x51 ∨ op = 0x53 then some (false, false, false, true)
  else none

def scalarRsvd (w : W64) (u : Bool × Bool × Bool × Bool) : Nat :=
  let op := W.op w
  (if u.1 then 0 else maskBits 51 46) ||| (if u.2.1 then 0 else maskBits 45 40) |||
  (if u.2.2.1 then 0 else maskBits 39 34) ||| (if u.2.2.2 then 0 else maskBits 25 0) |||
  (if W.full w then 0 else maskBits 33 26) |||
  (if W.full w && W.pmode w == 0 then maskBits 31 26 else 0) |||
  (if op = 0x51 then maskBits 25 9 else if op = 0x52 ∨ op = 0x53 then maskBits 25 5 else 0)

/-- Operand bits [27:0] that are reserved for an opcode of classes 2 to 7; none for an undefined opcode. -/
def engineRsvd (w : W64) : Option Nat :=
  let op := W.op w
  let plain := !W.full w
  match W.cls w with
  | 0x2 =>
    if op = 1 ∨ op = 2 then some (maskBits 51 10)
    else if op = 3 ∨ op = 4 then some (maskBits 51 12)
    else if op = 0x10 ∨ op = 0x11 then some (maskBits 27 24 ||| maskBits 21 16 ||| (if plain then maskBits 23 10 else 0))
    else if op = 0x12 then some (maskBits 27 24 ||| (if plain then maskBits 23 10 else 0))
    else none
  | 0x3 =>
    -- RO, RV, RD, and RX in the Full form
    let use (ro rv rd rx : Bool) : Nat :=
      maskBits 27 24 ||| (if ro then 0 else maskBits 5 0) ||| (if rv then 0 else maskBits 11 6) |||
      (if rd then 0 else maskBits 17 12) ||| (if rx && !plain then 0 else maskBits 23 18)
    match op with
    | 0x01 => some (use true true false true)
    | 0x02 => some (use true true true true)
    | 0x03 => some (use true (!plain) false true)
    | 0x04 => some (use true true true true)
    | 0x05 => some (use true false true true)
    | 0x06 => some (use true (!plain) false true)
    | 0x07 => some (use false false true false)
    | 0x08 => some (use true true true true)
    | 0x09 => some (use true false true false)
    | 0x0A => some (use true true false false)
    | _ => none
  | 0x4 =>
    if 0x01 ≤ op ∧ op ≤ 0x06 then some (maskBits 27 25 ||| (if plain then maskBits 24 19 else 0))
    else if op = 0x07 then some (maskBits 27 25)
    else if op = 0x08 ∨ op = 0x09 then some (maskBits 27 7 ||| maskBits 0 0)
    else none
  | 0x5 =>
    let mk : Nat := if plain then maskBits 27 24 else 0
    if (0x01 ≤ op ∧ op ≤ 0x05) ∨ op = 0x07 then some mk
    else if op = 0x06 ∨ op = 0x08 then some (mk ||| maskBits 17 12)
    else if op = 0x09 then some (maskBits 27 24)
    else if op = 0x0A then some (maskBits 27 24 ||| maskBits 17 12)
    else if op = 0x10 then some (mk ||| maskBits 17 13 ||| maskBits 11 6 ||| (if plain then maskBits 23 18 else 0))
    else if op = 0x11 ∨ op = 0x12 then some (mk ||| maskBits 17 13 ||| (if plain then maskBits 23 18 else 0))
    else if op = 0x18 ∨ op = 0x19 then some (maskBits 27 24)
    else if op = 0x1F then some (maskBits 27 7 ||| (if plain then maskBits 6 6 else 0))
    else none
  | 0x6 =>
    if (0x01 ≤ op ∧ op ≤ 0x08) then some (maskBits 27 24 ||| maskBits 17 12)
    else if op = 0x09 then some (maskBits 27 27 ||| maskBits 24 24 ||| maskBits 17 12)
    else if op = 0x10 then some (maskBits 27 25 ||| maskBits 11 6)
    else if op = 0x20 then
      some (maskBits 27 27 ||| maskBits 24 24 ||| maskBits 17 12 ||| maskBits 5 0 ||| (if plain then maskBits 23 18 else 0))
    else none
  | 0x7 =>
    if op = 0x01 then some (maskBits 27 13 ||| (if plain then maskBits 12 7 else 0))
    else if op = 0x02 then some (maskBits 27 19 ||| maskBits 12 0)
    else none
  | _ => none

/-- Checks 1 to 3 of R89. -/
def staticCheck (w : W64) (dbg : Bool) : Option Cause :=
  if W.cls w = 1 then
    match scalarUse (W.op w) with
    | none => some .illegal
    | some u => if w.toNat &&& scalarRsvd w u = 0 then none else some .rsvd
  else
    match engineRsvd w with
    | none => some .illegal
    | some m =>
      if W.cls w = 7 ∧ !dbg then some .debug
      else if w.toNat &&& m ≠ 0 then some .rsvd
      else if W.cls w = 2 ∧ W.op w ≤ 4 then none
      else if slotsOk w then none else some .rsvd

/-! ## Common operand checks (R114) -/

/-- A scratchpad footprint from a register value: 64-byte alignment first, then bounds (R61, R89 check 5, R114). -/
def spadCheck (off len : Nat) : Option TFault :=
  if off % 64 ≠ 0 then some { cause := .align, addr := off }
  else if off + len > spadSize then some { cause := .addr, addr := off }
  else none

/-- The first fault of a list of checks. -/
def firstFault : List (Option TFault) → Option TFault
  | [] => none
  | some f :: _ => some f
  | none :: r => firstFault r

/-- OPERAND unless the condition holds. -/
def need (ok : Bool) : Option TFault := if ok then none else some { cause := .operand }

end Sys2Proof.Machine
end

