-- ==== Sys2Proof/Machine/Flags.lean ====
section
/-! DEFINITION. VSTICKY and the flag record of a LAUNCH (05 R130, Table 5.11), and local events (03 R69). -/
namespace Sys2Proof.Machine

/-- VSTICKY after an instruction's flags and counts: flags ORed, counts saturating at 0xFFFF (R130). -/
def vstickyOr (v : W64) (f : Fl) : W64 :=
  let flags := fld v 0 8 |||
    (b2n f.nanIn + 2 * b2n f.infIn + 4 * b2n f.ovf + 8 * b2n f.unf + 16 * b2n f.nanGen + 32 * b2n f.varClamp +
     64 * b2n f.range + 128 * b2n f.mxNan)
  at64 0 8 flags ||| at64 16 16 (min 0xFFFF (fld v 16 16 + f.chReplay)) ||| at64 32 16 (min 0xFFFF (fld v 32 16 + f.sat))

/-- An instruction's flags reach VSTICKY and the tile's record of the LAUNCH (R130). -/
def Tile.addFlags (x : Tile) (f : Fl) : Tile := { x with vsticky := vstickyOr x.vsticky f, fl := Fl.join x.fl f }

/-- Every waited event is 1 or more (R69). -/
def Tile.waitsMet (x : Tile) (w : W64) : Bool := (W.waits w).all (fun e => x.ev e != 0)
/-- Starting takes 1 from each waited event (R69). -/
def Tile.takeWaits (x : Tile) (w : W64) : Tile := (W.waits w).foldl (fun x e => x.setEv e (x.ev e - 1)) x

/-- Completion adds 1 to each signalled event; an event past 15 is EVENT_OVF (R69). -/
def Tile.giveSigs (x : Tile) (w : W64) : Tile × Bool :=
  (W.sigs w).foldl
    (fun (acc : Tile × Bool) e =>
      if acc.1.ev e = 15 then (acc.1, true) else (acc.1.setEv e (acc.1.ev e + 1), acc.2))
    (x, false)

end Sys2Proof.Machine
end

