-- ==== Sys2Proof/Machine/Issue.lean ====
section
/-! DEFINITION. Issue: program faults, the instruction cache, the gate every instruction passes, scalar execution and
entry into an engine queue (03 R66 to R74, R85; 04 R86 to R96). -/
namespace Sys2Proof.Machine

/-! ## Program faults (R85) -/

/-- The fault record of Table 3.9. -/
def faultRecord (pcOff : Nat) (cause : Cause) (t : Nat) (block : W32) (faddr : Nat) : List Byte :=
  toBytesLE 8 pcOff ++ toBytesLE 1 cause.code ++ [0] ++ toBytesLE 1 t ++ [0] ++ toBytesLE 4 block.toNat ++
  toBytesLE 8 faddr ++ List.replicate 8 0

/-- A tile stopped by a fault of its set: queued instructions are discarded, started ones run on (R85). -/
def Tile.stop (x : Tile) : Tile := { x with core := .stopped, q := [] }

/-- A tile that a fault of its set has stopped, with no started instruction left. -/
def Tile.ended (x : Tile) : Bool := decide (x.core = .stopped) && x.quiet

/-- End the LAUNCH command once its fault stands, every tile has stopped and no started instruction of them is left (R85). -/
def State.settleFault (s : State) (l : Launch) : State :=
  match l.fault with
  | none => s
  | some (st, data) =>
    if l.tiles.all (fun t => (s.tile t).launch != some (l.q, l.seq) || (s.tile t).ended) &&
       (match s.findCmd l.q l.seq with | some c => decide (c.phase = .running) | none => false) then
      s.endCmd l.q l.seq st data
    else s

/-- Settle whatever LAUNCH holds tile t. -/
def State.settle (s : State) (t : Nat) : State :=
  match s.launchOf t with
  | none => s
  | some l => s.settleFault l

/-- Stop every tile of a set, running or saved (R85). -/
def State.stopTiles (s : State) (l : Launch) : State :=
  let s2 := l.tiles.foldl
    (fun s t => if (s.tile t).launch == some (l.q, l.seq) then s.updTile t Tile.stop else s) s
  { s2 with tl := { s2.tl with saved := s2.tl.saved.map (fun v =>
      if v.ctx.launch == some (l.q, l.seq) then { v with ctx := v.ctx.stop } else v) } }

/-- End a LAUNCH with a status: every tile of its set stops, and a fault recorded before stands. -/
def State.stopSet (s : State) (l : Launch) (st : W16) (data : List Byte) : State :=
  (s.updLaunch l.q l.seq (fun l => { l with fault := some (l.fault.getD (st, data)) })).stopTiles l

/-- Among the tiles that fault in the earliest period, the record describes the one of the lowest logical number (R85). -/
def Launch.takesFault (l : Launch) (now t : Nat) : Bool :=
  match l.faultAt with
  | none => l.fault.isNone
  | some (a, u) => a == now && decide (t < u)

/-- Tile t meets a program fault at program counter `pc`: it stops there (R85). The other tiles of its set stop at the end of the
period (DESIGN CHOICE, log 86: within the 100 cycles that R85 gives). -/
def State.progFault (s : State) (t : Nat) (pc : W64) (f : TFault) : State :=
  match s.launchOf t with
  | none => s
  | some l =>
    let off := (pc - BitVec.ofNat 64 l.prog).toNat
    let r := faultRecord off f.cause t (s.tile t).block f.addr
    let s1 := if l.takesFault s.now t then
        s.updLaunch l.q l.seq (fun l => { l with fault := some (f.cause.status, r), faultAt := some (s.now, t) })
      else s
    (s1.updTile t Tile.stop).settle t

/-- At the end of a period every tile of a set with a fault stops (R85). -/
def State.stopFaulted (s : State) : State :=
  (s.tl.launches.filter (fun l => l.fault.isSome)).foldl
    (fun s l => if l.tiles.all (fun t => (s.tile t).launch != some (l.q, l.seq) || decide ((s.tile t).core = .stopped)) then s
                else (s.stopTiles l).settleFault l) s

/-! ## The instruction cache (R66) -/

/-- The line of an image offset and its set. -/
def lineOf (off : Nat) : Nat := off / 128
def setOf (line : Nat) : Nat := line % 128

/-- The cache right after a preload: one line per way and set, ascending image offset (R66). -/
def preload (ilen : Nat) : Tab (List Nat) :=
  (List.range 128).filterMap (fun k =>
    let l := (List.range 4).filterMap (fun w => if (w * 128 + k) * 128 < min ilen 65536 then some (w * 128 + k) else none)
    if l.isEmpty then none else some (k, l))

def Tile.cached (x : Tile) (line : Nat) : Bool := (Tab.get [] x.icache (setOf line)).contains line
/-- Use a cached line: it becomes the most recently used of its set. -/
def Tile.touch (x : Tile) (line : Nat) : Tile :=
  { x with icache := Tab.upd [] x.icache (setOf line) (fun l => l.filter (fun y => y != line) ++ [line]) }
/-- A cached line that is wrong leaves the cache and is fetched again (R66). -/
def Tile.refetch (x : Tile) (line : Nat) : Tile :=
  { x with icache := Tab.upd [] x.icache (setOf line) (fun l => l.filter (fun y => y != line)), imiss := some line }
/-- Place a fetched line, replacing the least recently used of a full set. -/
def Tile.place (x : Tile) (line : Nat) : Tile :=
  { x with icache := Tab.upd [] x.icache (setOf line) (fun l =>
      let l := l.filter (fun y => y != line)
      (if l.length ≥ 4 then l.drop 1 else l) ++ [line]) }

/-! ## Pending register writes (R68) -/

/-- Registers that an instruction in a queue or running will still write. -/
def pendingRegs (i : EInstr) : List Nat :=
  let op := W.op i.w
  match W.cls i.w with
  | 3 => if op = 7 ∨ op = 9 then [fld i.w 12 6, fld i.w 12 6 + 1]
         else if op = 2 ∨ op = 4 ∨ op = 5 ∨ op = 8 then [fld i.w 12 6] else []
  | 5 => if op = 0x1F then [fld i.w 0 6] else []
  | 7 => if op = 2 then [fld i.w 13 6] else []
  | _ => []

def Tile.pendingWrites (x : Tile) : List Nat :=
  (Eng.all.flatMap (fun e => x.queue e ++ x.running e)).flatMap pendingRegs

/-- A matrix instruction uses s[RC + 1]: mm.att, and a Full form with a scale (05 R118, R123). -/
def usesScale (x : Tile) (w : W64) : Bool := W.op w == 7 || (W.full w && (fld (x.rd (fld w 19 6)) 13 2 != 0))

/-- A vector instruction uses s[RN + 1]: a Full form with stochastic rounding, or vnorm and vrms with OPT (05 Table 5.9, R126). -/
def usesNext (x : Tile) (w : W64) : Bool :=
  let n := x.rd (fld w 18 6)
  W.full w && (if W.op w = 0x18 ∨ W.op w = 0x19 then bit n 58 else fld n 56 2 == 1)

/-- The scalar registers that a word names as operands (Tables 4.3, 4.7, 4.8, R105, R112; 05 Tables 5.2, 5.9, 5.12). -/
def regFields (x : Tile) (w : W64) : List Nat :=
  let op := W.op w
  let also (b : Bool) (r : Nat) : List Nat := if b then [r + 1] else []
  match W.cls w with
  | 1 => [W.rd w, W.ra w, W.rb w, W.pr w]
  | 2 => if op ≤ 2 then [fld w 4 6] else if op ≤ 4 then [fld w 6 6] else [fld w 4 6, fld w 10 6, fld w 16 6]
  | 3 => [fld w 0 6, fld w 6 6, fld w 12 6, fld w 18 6] ++ also (op == 7 || op == 9) (fld w 12 6)
  | 4 => if op ≥ 8 then [fld w 1 6] else [fld w 1 6, fld w 7 6, fld w 13 6, fld w 19 6] ++ also (usesScale x w) (fld w 19 6)
  | 5 =>
    if op = 0x1F then [fld w 0 6]
    else
      (if op = 0x09 ∨ op = 0x0A then [] else [fld w 0 6]) ++ [fld w 6 6] ++
      (if 0x10 ≤ op ∧ op ≤ 0x12 then [] else [fld w 12 6]) ++ [fld w 18 6] ++ also (usesNext x w) (fld w 18 6)
  | 6 => [fld w 0 6, fld w 6 6, fld w 12 6, fld w 18 6]
  | _ => if op = 2 then [fld w 13 6] else [fld w 1 6, fld w 7 6]

/-- A register operand of the word has a write pending (R68). -/
def Tile.regBusy (x : Tile) (w : W64) : Bool :=
  let p := x.pendingWrites
  (regFields x w).any (fun r => r != 0 && p.contains r)

/-! ## The gate (R68, R89, R95) -/

/-- What the gate says to an instruction offered for issue on tile t. -/
inductive Gate where
  /-- Not the tile's next instruction, or issue stalls. -/
  | stall
  /-- An instruction-cache miss starts (R66). -/
  | miss (line : Nat)
  | fault (f : TFault)
  | go (l : Launch)
  deriving DecidableEq, Repr

/-- The word is of class and opcode (c, o), or of none that the tables define: whichever row brings such a word, it meets
check 1 of R89. -/
def rowTakes (c o : Nat) (w : W64) (dbg : Bool) : Bool :=
  (W.cls w == c && W.op w == o) || staticCheck w dbg == some .illegal

/-- The gate for a word offered as of class and opcode (c, o): stalls of R68, the end of the image (R95), a cache miss (R66),
the static checks of R89. -/
def State.gate (s : State) (t : Nat) (c o : Nat) (w : W64) : Gate :=
  let x := s.tile t
  match s.launchOf t with
  | none => .stall
  | some l =>
    if rowTakes c o w l.dbg = false ∨ x.core ≠ .run ∨ x.imiss ≠ none ∨ s.tileHeld t then .stall
    else
      let off := (x.pc - BitVec.ofNat 64 l.prog).toNat
      if off ≥ l.ilen then .fault { cause := .addr, addr := x.pc.toNat }
      else if !x.cached (lineOf off) then .miss (lineOf off)
      else
        match staticCheck w l.dbg with
        | some cause => .fault { cause := cause }
        | none => if x.regBusy w then .stall else .go l

/-- The block's cycles and signature after an instruction that retires (R70, R71): the word's 8 bytes and, for a
branch, one byte of its outcome (DEDUCED, log 13). -/
def Tile.retire (x : Tile) (w : W64) (cycles : Nat) (br : Option Bool) : Tile :=
  { x with active := x.active + BitVec.ofNat 64 cycles, atBlk := false,
           sig := crc32cCont x.sig (toBytesLE 8 w.toNat ++ (match br with | none => [] | some b => [BitVec.ofNat 8 (b2n b)])) }

/-- What a scalar instruction does: the tile after it (without the PC), the next PC, its issue cycles and a branch
outcome; a fault; or a stall that leaves everything as it is. -/
inductive SRes where
  | ok (x : Tile) (pc : W64) (cycles : Nat) (br : Option Bool)
  | fault (f : TFault)
  deriving DecidableEq, Repr

/-- Predication of the Full form (R91): invalid (also any PMODE of a blkend but 0, R93), off, or on. -/
def predicate (x : Tile) (w : W64) : Option Bool :=
  if !W.full w then some true
  else if W.op w = 0x54 ∧ W.pmode w ≠ 0 then none
  else match W.pmode w with
    | 0 => some true
    | 1 => some (x.rd (W.pr w) != 0)
    | 2 => some (x.rd (W.pr w) == 0)
    | _ => none

/-- Issue on tile t an instruction of class c and opcode o: gate, then the body at a tile whose line is touched. -/
def State.issue (s : State) (t c o : Nat) (w : W64) (body : State → Launch → State) : State :=
  match s.gate t c o w with
  | .stall => s
  | .miss line => s.updTile t (fun x => { x with imiss := some line })
  | .fault f => s.progFault t (s.tile t).pc f
  | .go l =>
    body (s.updTile t (fun x => x.touch (lineOf (x.pc - BitVec.ofNat 64 l.prog).toNat))) l

/-- One scalar instruction (R91, R92): predicated, executed, retired. -/
def State.scalar (s : State) (t o : Nat) (w : W64) (f : Tile → Launch → SRes) : State :=
  s.issue t 1 o w (fun s l =>
    let x := s.tile t
    match predicate x w with
    | none => s.progFault t x.pc { cause := .operand }
    | some false => s.setTile t ({ x with pc := x.pc + 8 }.retire w 1 none)
    | some true =>
      match f x l with
      | .fault e => s.progFault t x.pc e
      | .ok y pc cycles br => s.setTile t ({ y with pc := pc }.retire w cycles br))

/-- A register instruction that writes one value to RD. -/
def State.alu (s : State) (t o : Nat) (w : W64) (f : W64 → W64 → W64) : State :=
  s.scalar t o w (fun x _ => .ok (x.wr (W.rd w) (f (x.rd (W.ra w)) (x.rd (W.rb w)))) (x.pc + 8) 1 none)

/-- The same with the sign-extended immediate as second operand. -/
def State.alui (s : State) (t o : Nat) (w : W64) (f : W64 → W64 → W64) : State :=
  s.scalar t o w (fun x _ => .ok (x.wr (W.rd w) (f (x.rd (W.ra w)) (W.imm w))) (x.pc + 8) 1 none)

/-- A shift by an immediate: IMM above 63 is OPERAND (R93). -/
def State.shimm (s : State) (t o : Nat) (w : W64) (f : W64 → Nat → W64) : State :=
  s.scalar t o w (fun x _ =>
    if fld w 0 26 > 63 then .fault { cause := .operand }
    else .ok (x.wr (W.rd w) (f (x.rd (W.ra w)) (fld w 0 26))) (x.pc + 8) 1 none)

/-- The scratchpad offset of a scalar load or store, checked under R61 (alignment first, R89). -/
def spadScalar (a : W64) (n : Nat) : Option TFault :=
  if a.toNat % n ≠ 0 then some { cause := .align, addr := a.toNat }
  else if a.toNat + n > spadSize then some { cause := .addr, addr := a.toNat }
  else none

/-- A load of n bytes; `sx` sign-extends (R94). -/
def State.load (s : State) (t o : Nat) (w : W64) (n : Nat) (sx : Bool) : State :=
  s.scalar t o w (fun x _ =>
    let a := x.rd (W.ra w) + W.imm w
    match spadScalar a n with
    | some f => .fault f
    | none =>
      let v := x.spadNat a.toNat n
      let r := if sx ∧ v ≥ 2 ^ (8 * n - 1) then BitVec.ofInt 64 ((v : Int) - 2 ^ (8 * n)) else BitVec.ofNat 64 v
      .ok (x.wr (W.rd w) r) (x.pc + 8) 1 none)

/-- A store of the low n bytes of s[RB] (R94). -/
def State.store (s : State) (t o : Nat) (w : W64) (n : Nat) : State :=
  s.scalar t o w (fun x _ =>
    let a := x.rd (W.ra w) + W.imm w
    match spadScalar a n with
    | some f => .fault f
    | none => .ok (x.setSpad a.toNat (toBytesLE n (x.rd (W.rb w)).toNat)) (x.pc + 8) 1 none)

/-- Where a branch goes: ALIGN for a target that is no multiple of 8, ADDR outside the image (R95). -/
def branchCheck (l : Launch) (target : W64) : Option TFault :=
  if target.toNat % 8 ≠ 0 then some { cause := .align, addr := target.toNat }
  else if (target - BitVec.ofNat 64 l.prog).toNat ≥ l.ilen then some { cause := .addr, addr := target.toNat }
  else none

/-- PC + 8 × IMM. -/
def branchTarget (base w : W64) : W64 := base + 8 * W.imm w

/-- A conditional branch on two registers. -/
def State.branch (s : State) (t o : Nat) (w : W64) (f : W64 → W64 → Bool) : State :=
  s.scalar t o w (fun x l =>
    if f (x.rd (W.ra w)) (x.rd (W.rb w)) then
      match branchCheck l (branchTarget x.pc w) with
      | some e => .fault e
      | none => .ok x (branchTarget x.pc w) 3 (some true)
    else .ok x (x.pc + 8) 1 (some false))

/-! ## Entry into an engine queue (R68, Table 3.2) -/

def Eng.depth : Eng → Nat
  | .matrix => 4
  | .vector => 8
  | .madder => 8
  | .rd _ => 4
  | .wr _ => 4
  | .sync => 4

/-- Issue an engine instruction: it enters its queue with the scalar operands captured, unless the queue is full. -/
def State.enqueue (s : State) (t c o : Nat) (w : W64) (eng : Eng) : State :=
  s.issue t c o w (fun s _ =>
    let x := s.tile t
    if (x.queue eng).length ≥ Eng.depth eng then s
    else
      let i : EInstr := { w := w, pc := x.pc, sr := x.s }
      s.setTile t (({ x with pc := x.pc + 8 }.setQueue eng (x.queue eng ++ [i])).retire w 1 none))

end Sys2Proof.Machine
end

