-- ==== Sys2Proof/Machine/Protect.lean ====
section
/-! DEFINITION. Ranges of memory the module protects: table areas of enabled contexts (07 R187) and park stores
(08 R209). -/
namespace Sys2Proof.Machine

def Reg.parkCfg : Nat := 0x80100
def State.parkOff (s : State) : Nat := fld (s.reg Reg.parkCfg) 0 31
def State.parkSlots (s : State) : Nat := fld (s.reg Reg.parkCfg) 31 12

/-- The location lies in the table area of an enabled context (R187). -/
def State.inTable (s : State) (loc : Nat) : Bool :=
  locNear loc &&
  (List.range 48).any (fun c =>
    let a := s.locAddr loc
    s.ctxEnabled c && decide (s.ctxTable c ≤ a) && decide (a < s.ctxTable c + 524288))

/-- The location lies in a park store (R209). -/
def State.inPark (s : State) (loc : Nat) : Bool :=
  locNear loc && decide (s.parkOff ≤ loc % 2 ^ 31) && decide (loc % 2 ^ 31 < s.parkOff + 73728 * s.parkSlots)

/-! ## The areas of a training job (10 R244 to R246) -/

def State.wlen (s : State) : Nat := fld (s.reg (Reg.trn 0x60)) 0 32 * 4096
def State.olen (s : State) : Nat := fld (s.reg (Reg.trn 0x60)) 32 32 * 4096
def State.shoff (s : State) : Nat := fld (s.reg (Reg.trn 0x68)) 0 32 * 4096
def State.shlen (s : State) : Nat := fld (s.reg (Reg.trn 0x68)) 32 32 * 4096
/-- The weight buffer of a version, the gradient buffer, the optimiser state, the step record. -/
def State.wbuf (s : State) (ver : W64) : Ref := s.refOf (s.reg (Reg.trn (if bit ver 0 then 0x48 else 0x40)))
def State.gradRef (s : State) : Ref := s.refOf (s.reg (Reg.trn 0x50))
def State.optRef (s : State) : Ref := s.refOf (s.reg (Reg.trn 0x58))
def State.recRef (s : State) : Ref := s.refOf (s.reg (Reg.trn 0x70))

/-- The location lies in the committed buffer while the protocol runs (R246). -/
def State.inCommitted (s : State) (loc : Nat) : Bool := s.trnOn && s.refHas (s.wbuf s.trnVer) s.wlen loc
def State.inOpt (s : State) (loc : Nat) : Bool := s.trnOn && s.refHas s.optRef s.olen loc
def State.inGrad (s : State) (loc : Nat) : Bool := s.trnOn && s.refHas s.gradRef s.wlen loc
/-- Weights, optimiser state or gradient buffer of the training job (09 R225 step 3). -/
def State.inTrn (s : State) (loc : Nat) : Bool :=
  s.inCommitted loc || (s.trnOn && s.refHas (s.wbuf (s.trnVer + 1)) s.wlen loc) || s.inOpt loc || s.inGrad loc

/-! ## Reference pools of the Ochre coder (12 R298 to R300) -/

def Reg.och (i o : Nat) : Nat := 0xC0000 + 64 * i + o
def State.ochCfg (s : State) (i : Nat) : W64 := s.reg (Reg.och i 0)
def State.ochStream (s : State) (i : Nat) : OchStream := Tab.get {} s.och.stream i
def State.ochX (s : State) (i : Nat) : Nat := fld (s.reg (Reg.och i 8)) 0 14 + 1
def State.ochY (s : State) (i : Nat) : Nat := fld (s.reg (Reg.och i 8)) 14 14 + 1
def State.ochZ (s : State) (i : Nat) : Nat := fld (s.reg (Reg.och i 8)) 28 11 + 1
/-- FB: bytes of one pool buffer. -/
def State.ochFb (s : State) (i : Nat) : Nat := ceilDiv (s.ochX i * s.ochY i * s.ochZ i * 2) 4096 * 4096
def State.ochNbuf (s : State) (i : Nat) : Nat := fld (s.ochCfg i) 10 4 + 1
/-- Byte 0 of the pool. -/
def State.ochPool (s : State) (i : Nat) : Ref :=
  let h := (s.ochStream i).pool
  if h = 0 then .addr (fld (s.reg (Reg.och i 16)) 0 42) else .hnd h 0
/-- The location lies in the pool of an enabled field stream (R300). -/
def State.inPool (s : State) (loc : Nat) : Bool :=
  (List.range 48).any (fun i =>
    bit (s.ochCfg i) 0 && !bit (s.ochCfg i) 4 && s.refHas (s.ochPool i) (s.ochNbuf i * s.ochFb i) loc)

/-- A DATA_PUT, COPY, FILL, stream write or contribution may not touch the location. -/
def State.denyWrite (s : State) (loc : Nat) : Bool := s.inTable loc || s.inPark loc || s.inCommitted loc || s.inPool loc
/-- A DATA_GET, COPY or stream read may not touch the location. -/
def State.denyRead (s : State) (loc : Nat) : Bool := s.inPark loc

/-- Some granule of n bytes from a reference satisfies p (granules are checked at their first byte). -/
def State.refAny (s : State) (r : Ref) (n : Nat) (p : Nat → Bool) : Bool :=
  (List.range (n / 64 + 2)).any (fun i =>
    let k := if i = 0 then 0 else 64 * i - r.num % 64
    decide (k < n) && (match s.refLoc (r.add k) with | some l => p l | none => false))

/-! ## Storage of the training job still in use (10 R247, R254) -/

/-- A command of the opcode runs and its effect has not been taken. -/
def State.runsOp (s : State) (o : Nat) (p : Cmd → Bool) : Bool :=
  s.liveCmds.any (fun x => decide (x.2.phase = .running) && Cmd.opcode x.2 == o && p x.2)

/-- W, O and SHARD_ONLY of a CHECKPOINT (R269). -/
def ckptParts (c : Cmd) : Bool × Bool × Bool :=
  if Cmd.full c then (Cmd.opnd c 64 1 == 1, Cmd.opnd c 65 1 == 1, Cmd.opnd c 66 1 == 1) else (true, true, false)

/-- A DIGEST has read what it digests: it waits for the comparison (R267). -/
def State.digestRead (s : State) (seq : W32) : Bool := s.trn.cmps.any (fun c => match c.2.1 with | some (_, q) => q == seq | none => false)

/-- Accesses to the near tier of die d stop: its mesh, vault controllers or DRAM are out of limits, or its stack is too hot
(14 R371, 16 Table 16.3). -/
def State.dieStopped (s : State) (d : Nat) : Bool :=
  s.domBad (28 * d + 24) || s.domBad (28 * d + 25) || s.domBad (28 * d + 26) || (Tab.get none s.flt.hot (2 + d)).isSome
/-- An access to the location has to wait. -/
def State.locStopped (s : State) (loc : Nat) : Bool :=
  if locNear loc then s.dieStopped (locVault loc / 128) else s.domBad 59
/-- Some memory of the module is stopped. -/
def State.memStopped (s : State) : Bool := s.dieStopped 0 || s.dieStopped 1 || s.domBad 59

/-- A write to the location has to wait (R247; 14 R371). -/
def State.heldWrite (s : State) (loc : Nat) : Bool :=
  s.locStopped loc || s.trnOn &&
  ((s.refHas (s.wbuf (s.trnVer + 1)) s.wlen loc &&
     (s.liveCmds.any (fun x => decide (x.2.phase = .running) && s.qClass x.1 == 0 && bit x.2.ver 0 == bit (s.trnVer + 1) 0) ||
      s.runsOp 0x09 (fun c => bit c.ver 0 == bit (s.trnVer + 1) 0 && !s.digestRead c.seq) ||
      s.runsOp 0x0B (fun c => (ckptParts c).1 && bit c.ver 0 == bit (s.trnVer + 1) 0))) ||
   (s.inOpt loc && (s.trn.mirrorBusy || s.trn.restoreBusy || s.runsOp 0x0B (fun c => (ckptParts c).2.1))))

/-- OPT_TOUCHED is set by a write into TRN_OPT (R254). -/
def State.markOpt (s : State) (r : Ref) (n : Nat) : State :=
  if s.refAny r n s.inOpt then { s with trn := { s.trn with optTouched := true } } else s

end Sys2Proof.Machine
end

