-- ==== Sys2Proof/Machine/Matrix.lean ====
section
/-! DEFINITION. Matrix class: products, chunk mode, fused attention, park (05 R117 to R125; 06 R139, R143, R153 to R156;
08 R210). -/
namespace Sys2Proof.Machine

/-! ## Issue -/

/-- mm.bf16 (R118): enters the matrix queue. -/
def execMmBf16 (t : BitVec 8) (w : W64) (s : State) : Out := .next (s.enqueue t.toNat 4 0x01 w .matrix)
/-- mm.f16 (R118). -/
def execMmF16 (t : BitVec 8) (w : W64) (s : State) : Out := .next (s.enqueue t.toNat 4 0x02 w .matrix)
/-- mm.f8 (R118). -/
def execMmF8 (t : BitVec 8) (w : W64) (s : State) : Out := .next (s.enqueue t.toNat 4 0x03 w .matrix)
/-- mm.f8c (R122). -/
def execMmF8c (t : BitVec 8) (w : W64) (s : State) : Out := .next (s.enqueue t.toNat 4 0x04 w .matrix)
/-- mm.mx (R118, R139). -/
def execMmMx (t : BitVec 8) (w : W64) (s : State) : Out := .next (s.enqueue t.toNat 4 0x05 w .matrix)
/-- mm.px (R118). -/
def execMmPx (t : BitVec 8) (w : W64) (s : State) : Out := .next (s.enqueue t.toNat 4 0x06 w .matrix)
/-- mm.att (R123). -/
def execMmAtt (t : BitVec 8) (w : W64) (s : State) : Out := .next (s.enqueue t.toNat 4 0x07 w .matrix)
/-- mm.park (08 R210). -/
def execMmPark (t : BitVec 8) (w : W64) (s : State) : Out := .next (s.enqueue t.toNat 4 0x08 w .matrix)
/-- mm.unpark (08 R210). -/
def execMmUnpark (t : BitVec 8) (w : W64) (s : State) : Out := .next (s.enqueue t.toNat 4 0x09 w .matrix)

/-! ## What an engine instruction leaves -/

/-- The tile after an instruction, its flags, the tensor its saturations count under, whether it delivered a NaN (14 R361)
and the results a magnitude envelope looks at (14 R361). -/
structure EngRes where
  x : Tile
  fl : Fl := {}
  tensor : Nat := 0
  nanOut : Bool := false
  outs : List Num := []
  deriving DecidableEq, Repr

/-! ## Formats (Table 5.1) -/

def fmtOf : Nat → Option Fmt
  | 0 => some .bf16
  | 1 => some .fp16
  | 2 => some .e4m3
  | 3 => some .e5m2
  | 4 => some .e4m3
  | 5 => some .e5m2
  | 6 => some .e2m3
  | 7 => some .e3m2
  | 8 => some .e2m1
  | 9 => some .px16
  | _ => none

def isMx (c : Nat) : Bool := decide (4 ≤ c ∧ c ≤ 8)

/-- Bits of an element of a format code. -/
def fmtBits (c : Nat) : Nat := match fmtOf c with | some F => F.bits | none => 16

/-- The code of `n` bits at bit `b` of the scratchpad row that starts at byte `off`. -/
def Tile.spadCode (x : Tile) (off b n : Nat) : Nat :=
  (x.spadNat (off + b / 8) ((b % 8 + n + 7) / 8) >>> (b % 8)) % 2 ^ n

/-- An element and its flags: a NaN or infinite code sets NAN_IN or INF_IN (Table 5.11). -/
def Tile.elem (x : Tile) (c off i : Nat) : Num :=
  match fmtOf c with
  | some F => F.decode (x.spadCode off (F.bits * i) F.bits)
  | none => .nan

/-- An E8M0 scale applied to an element value (R139): 0xFF makes it a NaN. -/
def mxScale (byte : Nat) (v : Num) : Num :=
  if byte = 0xFF then .nan
  else match v with
    | .fin s m e => .fin s m (e + (byte : Int) - 127)
    | v => v

/-! ## The generic product (R118 to R122) -/

/-- The options of a matrix instruction, from the form's defaults or s[RC] (Table 5.3, Table 5.4). -/
structure MmOpt where
  af : Nat
  bf : Nat
  accum : Bool := false
  chunk : Nat := 0
  at' : Bool := false
  bt : Bool := false
  bsc : Nat := 0
  pa : Nat := 0
  pb : Nat := 0
  deriving DecidableEq, Repr

/-- Format sets of an opcode: A and B (Table 5.1, Table 5.3). -/
def mmSets : Nat → List Nat × List Nat
  | 0x01 => ([0], [0])
  | 0x02 => ([1], [1])
  | 0x03 => ([2, 3], [2, 3])
  | 0x04 => ([2, 3], [2, 3])
  | 0x05 => ([4, 5, 6, 7, 8], [4, 5, 6, 7, 8])
  | _ => ([9], [0, 2, 6])

def mmOpt (i : EInstr) : MmOpt :=
  let op := W.op i.w
  if W.full i.w then
    let c := i.reg 19
    { af := fld c 0 4, bf := fld c 4 4, accum := bit c 8, chunk := fld c 9 2, at' := bit c 11, bt := bit c 12,
      bsc := fld c 13 2, pa := fld c 15 15, pb := fld c 30 15 }
  else
    { af := (mmSets op).1.headD 0, bf := (mmSets op).2.headD 0, chunk := if op = 4 then 1 else 0,
      bsc := if op = 5 then 3 else 0 }

def chunkLen : Nat → Nat
  | 0 => 32
  | 1 => 64
  | _ => 128

/-- Where the operands of a matrix instruction lie. -/
structure MmLay where
  a : Nat
  b : Nat
  k : Nat
  rowA : Nat
  rowB : Nat
  pa : Nat
  pb : Nat
  nA : Nat
  nB : Nat
  /-- Offsets of A's MX scales and of B's scales. -/
  sa : Nat
  sb : Nat
  deriving DecidableEq, Repr

def mmLay (i : EInstr) : MmLay :=
  let o := mmOpt i
  let k := fld (i.reg 13) 0 32
  let a := (i.reg 1).toNat
  let b := (i.reg 7).toNat
  let rowA := (if o.at' then 64 else k) * fmtBits o.af / 8
  let rowB := (if o.bt then k else 128) * fmtBits o.bf / 8
  let full := W.full i.w
  { a := a, b := b, k := k, rowA := rowA, rowB := rowB,
    pa := if o.pa = 0 then rowA else o.pa * 64, pb := if o.pb = 0 then rowB else o.pb * 64,
    nA := if o.at' then k else 64, nB := if o.bt then 128 else k,
    sa := if full then fld (i.reg1 19) 0 21 else a + 64 * rowA,
    sb := if full then fld (i.reg1 19) 32 21 else b + k * rowB }

/-- A row start that is no multiple of 64 bytes (R118, R61). -/
def rowAlign (base pitch rows : Nat) : Option TFault :=
  if rows ≤ 1 ∨ pitch % 64 = 0 then none else some { cause := .align, addr := base + pitch }

/-- The checks at the start of a product (R113, R114, R118, R119). -/
def mmCheck (i : EInstr) : Option TFault :=
  let op := W.op i.w
  let o := mmOpt i
  let l := mmLay i
  let c := i.reg 19
  let full := W.full i.w
  let setsOk := (mmSets op).1.contains o.af && (mmSets op).2.contains o.bf
  let bscOk :=
    if isMx o.bf then o.bsc == 3
    else if fmtBits o.bf = 16 then o.bsc == 0
    else if op = 6 then o.bsc == 1 || o.bsc == 2
    else o.bsc != 3
  let k := l.k
  let kOk := fld (i.reg 13) 32 32 == 0 && decide (64 ≤ k ∧ k ≤ 65536) && k % 64 == 0 &&
    (op != 5 || k % 256 == 0) && (op != 4 || k % chunkLen o.chunk == 0)
  let scaleUsed := o.bsc != 0
  let sbLen := match o.bsc with
    | 1 => 2 * k
    | 2 => 256
    | _ => k / 32 * 128
  firstFault
    [ need (!full || (decide (1 ≤ fld i.w 19 6 ∧ fld i.w 19 6 ≤ 62) && fld c 45 19 == 0)),
      need (setsOk && bscOk && (op == 4 || o.chunk == 0) && o.chunk != 3 && !(op == 5 && o.at')),
      need (!(full && scaleUsed) || (fld (i.reg1 19) 53 11 == 0 && fld (i.reg1 19) 21 11 == 0)),
      need kOk,
      need (decide (l.rowA ≤ l.pa) && decide (l.rowB ≤ l.pb)),
      spadCheck l.a (l.pa * (l.nA - 1) + l.rowA),
      rowAlign l.a l.pa l.nA,
      spadCheck l.b (l.pb * (l.nB - 1) + l.rowB),
      rowAlign l.b l.pb l.nB,
      if scaleUsed && op == 5 then spadCheck l.sa (64 * (k / 32)) else none,
      if scaleUsed then spadCheck l.sb sbLen else none ]

/-- A[m][k] with its MX scale, and B[k][n] with its MX scale. -/
def mmA (x : Tile) (o : MmOpt) (l : MmLay) (m k : Nat) : Num :=
  let v := if o.at' then x.elem o.af (l.a + k * l.pa) m else x.elem o.af (l.a + m * l.pa) k
  if isMx o.af then mxScale (x.spadNat (l.sa + m * (l.k / 32) + k / 32) 1) v else v

def mmB (x : Tile) (o : MmOpt) (l : MmLay) (k n : Nat) : Num :=
  let v := if o.bt then x.elem o.bf (l.b + n * l.pb) k else x.elem o.bf (l.b + k * l.pb) n
  if isMx o.bf then mxScale (x.spadNat (l.sb + k / 32 * 128 + n) 1) v else v

/-- The BF16 scale of (k, n): BSC 1 per k, BSC 2 per n, else 1. -/
def mmScale (x : Tile) (o : MmOpt) (l : MmLay) (k n : Nat) : Num :=
  match o.bsc with
  | 1 => x.elem 0 l.sb k
  | 2 => x.elem 0 l.sb n
  | _ => .ofNat 1

/-- The exact product of k for entry (m, n), with its scale factors (R120, R143). -/
def mmProd (x : Tile) (o : MmOpt) (l : MmLay) (m n k : Nat) : Num × Bool :=
  let (p, g1) := (mmA x o l m k).mulX (mmB x o l k n)
  let (q, g2) := p.mulX (mmScale x o l k n)
  (q, g1 || g2)

/-- NAN_IN, INF_IN and MX_NAN of reading every operand (Table 5.11, R139). -/
def mmReadFlags (x : Tile) (o : MmOpt) (l : MmLay) : Fl :=
  let raw (c off n : Nat) : Fl := Fl.joinAll ((List.range n).map (fun j => Fl.ofRead (x.elem c off j)))
  let rows (c base pitch nr n : Nat) : Fl := Fl.joinAll ((List.range nr).map (fun r => raw c (base + r * pitch) n))
  let bytes (off n : Nat) : Bool := (x.spadBytes off n).any (fun b => b == 0xFF)
  let mx := (isMx o.af && bytes l.sa (64 * (l.k / 32))) || (isMx o.bf && bytes l.sb (l.k / 32 * 128))
  Fl.joinAll
    [ rows o.af l.a l.pa l.nA (if o.at' then 64 else l.k), rows o.bf l.b l.pb l.nB (if o.bt then l.k else 128),
      (match o.bsc with | 1 => raw 0 l.sb l.k | 2 => raw 0 l.sb 128 | _ => {}), { mxNan := mx } ]

/-- One addition in A16 (R155), with the UNF of its operands and its own: none beyond its range or of a NaN or infinity. -/
def add16 (a b : Option (Num × Bool)) : Option (Num × Bool) :=
  match a, b with
  | some (u, f), some (v, g) => (rnd16 (u.add v)).map (fun r => (r.1, f || g || r.2))
  | _, _ => none

/-- One level of the tree of R153 in A16. -/
def tree16 : List (Option (Num × Bool)) → List (Option (Num × Bool))
  | a :: b :: r => add16 a b :: tree16 r
  | l => l

/-- The A16 sum of a chunk (R155 steps 1 and 2) and its UNF. -/
def sum16 (ps : List Num) : Option (Num × Bool) :=
  (chunks 16 ps).foldl
    (fun (t : Option (Num × Bool)) g => add16 t ((tree16 (tree16 (tree16 (tree16 ((g.map rnd16))))))[0]?.join))
    (some (.zero, false))

/-- One entry after the chunk at k0: promoted from A16, or replayed in A36 as one addend (R155). -/
def chunkEntry (t : A36) (ps : List Num) (replay : Bool) : A36 × Fl :=
  if replay then
    let (c, f1) := sum36 a36Zero ps
    let (r, f2) := a36Add t c
    (r, Fl.join f1 f2)
  else
    match sum16 ps with
    | some (v, u) => let (r, g) := rnd36F ((A36.val t).add v); (r, { ovf := g, unf := u })
    | none => (t, {})

/-- The products of entry e over [k0, k0 + n). -/
def mmProds (x : Tile) (o : MmOpt) (l : MmLay) (e k0 n : Nat) : List Num × Bool :=
  let ps := (List.range n).map (fun j => mmProd x o l (e / 128) (e % 128) (k0 + j))
  (ps.map (fun p => p.1), ps.any (fun p => p.2))

/-- All 8,192 totals after a product without chunks (R153). -/
def mmPlain (x : Tile) (o : MmOpt) (l : MmLay) (start : List A36) : List A36 × Fl :=
  let rs := start.zipIdx.map (fun (t, e) =>
    let (ps, g) := mmProds x o l e 0 l.k
    let (r, f) := sum36 t ps
    (r, Fl.join f { nanGen := g }))
  (rs.map (fun r => r.1), Fl.joinAll (rs.map (fun r => r.2)))

/-- All totals in chunk mode: a chunk in which any entry's A16 sum overflows is replayed for the whole block (R122). -/
def mmChunked (x : Tile) (o : MmOpt) (l : MmLay) (start : List A36) : List A36 × Fl :=
  let c := chunkLen o.chunk
  (List.range (l.k / c)).foldl
    (fun (acc : List A36 × Fl) j =>
      let prods := (List.range 8192).map (fun e => mmProds x o l e (j * c) c)
      let replay := prods.any (fun p => (sum16 p.1).isNone)
      let rs := (acc.1.zip prods).map (fun (t, p) => chunkEntry t p.1 replay)
      (rs.map (fun r => r.1),
       Fl.joinAll [acc.2, Fl.joinAll (rs.map (fun r => r.2)),
                   { chReplay := b2n replay, nanGen := prods.any (fun p => p.2) }]))
    (start, {})

/-- The half as a list of its 8,192 entries (R117). -/
def Tile.half (x : Tile) (h : Nat) : List A36 := (List.range 8192).map (fun e => x.acc h e)
/-- Write entries from e on. -/
def Tile.setHalf (x : Tile) (h : Nat) : Nat → List A36 → Tile
  | _, [] => x
  | e, v :: vs => Tile.setHalf (x.setAcc h e v) h (e + 1) vs

/-- The effect of mm.bf16, mm.f16, mm.f8, mm.f8c, mm.mx and mm.px (R118 to R122). -/
def runMm (x : Tile) (i : EInstr) : EngRes :=
  let o := mmOpt i
  let l := mmLay i
  let h := fld i.w 0 1
  let start := if o.accum then x.half h else List.replicate 8192 a36Zero
  let (out, f) := if W.op i.w = 4 then mmChunked x o l start else mmPlain x o l start
  { x := x.setHalf h 0 out, fl := Fl.join (mmReadFlags x o l) f, nanOut := out.any (fun a => (A36.val a).isNan) }

/-! ## Range supervision (R124) -/

def guard : Num := .ofNat 344

/-- Round toward +∞ into BF16, exempt from the flush (R124, Table 5.8). -/
def bf16Up (v : Num) : Nat :=
  match v with
  | .nan => 0x7FC0
  | .inf s => Fmt.bf16.infCode s
  | .fin s m e =>
    if m = 0 then Fmt.bf16.signBit s
    else if Num.lt (.fin false m e) (.pow2 (-126)) then (if s then 0x8000 else 0x0080)
    else
      let E := (Nat.log2 m : Int) + e
      let (q, ex) := roundAt .rtz m 1 e (E - 7)
      let q' := if ex ∨ s then q else q + 1
      let c := Fmt.bf16.magCode q' (E - 7)
      if c > Fmt.bf16.maxCode then (if s then Fmt.bf16.signBit s + Fmt.bf16.maxCode else Fmt.bf16.infCode s) else Fmt.bf16.signBit s + c

/-- One row of the supervision record. -/
structure SupRow where
  max : Nat := 0xFF80
  clamps : Nat := 0
  flag : Bool := false
  deriving DecidableEq, Repr

/-- The larger of MAX and a score, NaN kept (R124). -/
def supMax (m : Nat) (s : Num) : Nat :=
  let v := Fmt.bf16.decode m
  if v.isNan then 0x7FC0
  else if s.isNan then 0x7FC0
  else if v.lt s then bf16Up s else m

/-- A scaled score under the guards: the value used, whether it was clamped, whether it was infinite. -/
def supervise (s : Num) : Num × Bool :=
  if guard.lt s then (guard, true)
  else if s.lt guard.neg then (guard.neg, true)
  else (s, false)

/-- The masked test of CAUSAL and DIAG (Table 5.7): key j for row m. -/
def masked (c : W64) (m j : Nat) : Bool := bit c 48 && decide ((m : Int) + asSigned32 (fld c 0 32) < (j : Int))

/-! ## mm.att (R123, R156) -/

def attNk (i : EInstr) : Nat := fld (i.reg1 19) 32 12
def attSupv (i : EInstr) : Nat := fld (i.reg1 19) 0 21
def attKvf (i : EInstr) : Nat := fld (i.reg 19) 49 3
/-- Bytes of a token row and of a token's scales. -/
def kvRow : Nat → Nat
  | 0 => 256
  | 1 => 128
  | _ => 96
def kvScaleBytes : Nat → Nat
  | 0 => 0
  | 1 => 2
  | _ => 4

def attCheck (i : EInstr) : Option TFault :=
  let c := i.reg 19
  let c1 := i.reg1 19
  let nk := attNk i
  let kv := nk * (kvRow (attKvf i) + kvScaleBytes (attKvf i))
  firstFault
    [ need (decide (1 ≤ fld i.w 19 6 ∧ fld i.w 19 6 ≤ 62)),
      need (fld c 54 10 == 0 && fld c1 21 11 == 0 && fld c1 44 20 == 0 && decide (attKvf i ≤ 2)),
      need (W.full i.w || (attKvf i == 0 && !bit c 52)),
      need (decide (1 ≤ nk ∧ nk ≤ 2048)),
      spadCheck (i.reg 1).toNat 16384,
      spadCheck (i.reg 7).toNat kv,
      spadCheck (i.reg 13).toNat kv,
      spadCheck (attSupv i) 512 ]

/-- Value d of token j of K or V at `off`, without a token scale, and the token's BF16 scale. -/
def kvElem (x : Tile) (kvf off nk j d : Nat) : Num :=
  match kvf with
  | 0 => x.elem 0 (off + 256 * j) d
  | 1 => x.elem 2 (off + 128 * j) d
  | _ => mxScale (x.spadNat (off + 96 * nk + 4 * j + d / 32) 1) (x.elem 6 (off + 96 * j) d)

def kvTokScale (x : Tile) (kvf off nk j : Nat) : Num :=
  if kvf = 1 then x.elem 0 (off + 128 * nk) j else .ofNat 1

/-- Everything read of K or V, for NAN_IN, INF_IN and MX_NAN. -/
def kvFlags (x : Tile) (kvf off nk : Nat) : Fl :=
  Fl.joinAll ((List.range nk).map (fun j =>
    Fl.joinAll (
      { mxNan := kvf == 2 && (x.spadBytes (off + 96 * nk + 4 * j) 4).any (fun b => b == 0xFF) } ::
      (if kvf = 1 then Fl.ofRead (kvTokScale x kvf off nk j) else {}) ::
      (List.range 128).map (fun d =>
        Fl.ofRead (match kvf with
          | 0 => x.elem 0 (off + 256 * j) d
          | 1 => x.elem 2 (off + 128 * j) d
          | _ => x.elem 6 (off + 96 * j) d)))))

/-- The scaled score of an A36 dot product (R156 step 1): rnd36(dot × SCALE). -/
def scaledScore (c : W64) (dot : A36) : A36 × Fl :=
  let k := Fmt.bf16.decode (fld c 32 16)
  let (p, g) := (A36.val dot).mulX k
  let (r, o) := rnd36F p
  (r, { Fl.ofRead k with nanGen := g, ovf := o })

/-- One supervised score: probability, NaN mark, record row, flags. -/
def attScore (pass : Bool) (row : SupRow) (s : A36) : Nat × Bool × SupRow × Fl :=
  let v := A36.val s
  let row1 := { row with max := supMax row.max v }
  if v.isNan then (0, true, row1, {})
  else
    let (u, cl) := supervise v
    let (p, f) := expPx16 (rnd36 u)
    let row2 : SupRow :=
      if cl then (if pass then { row1 with flag := true } else { row1 with clamps := min 0xFFFF (row1.clamps + 1) }) else row1
    (p, false, row2, Fl.join f { range := cl, infIn := v.isInf })

/-- One query row of an mm.att: its probabilities (none for a masked key), NaN mark, record row and flags. -/
def attRow (x : Tile) (i : EInstr) (pass : Bool) (m : Nat) (row : SupRow) : List (Option Nat) × Bool × SupRow × Fl :=
  let c := i.reg 19
  let kvf := attKvf i
  let nk := attNk i
  let q := (i.reg 1).toNat
  let k := (i.reg 7).toNat
  (List.range nk).foldl
    (fun (acc : List (Option Nat) × Bool × SupRow × Fl) j =>
      let (ps, nan, row, fl) := acc
      if masked c m j then (ps ++ [none], nan, row, fl)
      else
        let prods := (List.range 128).map (fun d =>
          let (a, g1) := (x.elem 0 (q + 256 * m) d).mulX (kvElem x kvf k nk j d)
          let (b, g2) := a.mulX (kvTokScale x kvf k nk j)
          (b, g1 || g2))
        let (dot, f1) := sum36 a36Zero (prods.map (fun p => p.1))
        let (s, f2) := scaledScore c dot
        let (p, n, row', f3) := attScore pass row s
        (ps ++ [some p], nan || n, row', Fl.joinAll [fl, f1, f2, f3, { nanGen := prods.any (fun p => p.2) }]))
    ([], false, row, {})

/-- Output entry (m, n): the running value and the keys' products p × v (R156 step 4). -/
def attOut (x : Tile) (i : EInstr) (t : A36) (ps : List (Option Nat)) (n : Nat) : A36 × Fl :=
  let kvf := attKvf i
  let nk := attNk i
  let v := (i.reg 13).toNat
  let prods := ps.zipIdx.map (fun (p, j) =>
    match p with
    | none => (Num.zero, false)
    | some c =>
      let (a, g1) := (Fmt.px16.decode c).mulX (kvElem x kvf v nk j n)
      let (b, g2) := a.mulX (kvTokScale x kvf v nk j)
      (b, g1 || g2))
  let (r, f) := sum36 t (prods.map (fun p => p.1))
  (r, Fl.join f { nanGen := prods.any (fun p => p.2) })

def nan36 : A36 := rnd36 .nan

/-- The record row m as it stands in the scratchpad (Table 5.8). -/
def supRead (x : Tile) (off m : Nat) : SupRow :=
  let v := x.spadNat (off + 8 * m) 8
  { max := v % 2 ^ 16, clamps := v / 2 ^ 16 % 2 ^ 16, flag := v / 2 ^ 32 % 2 == 1 }

def supBytes (r : SupRow) : List Byte := toBytesLE 8 (r.max + r.clamps * 2 ^ 16 + b2n r.flag * 2 ^ 32)

/-- The effect of mm.att (R123, R124, R149, R156). -/
def runAtt (x : Tile) (pass : Bool) (i : EInstr) : EngRes :=
  let c := i.reg 19
  let accum := bit c 53
  let noden := bit c 52
  let h := fld i.w 0 1
  let sup := attSupv i
  let qf := Fl.joinAll ((List.range 8192).map (fun e => Fl.ofRead (x.elem 0 (i.reg 1).toNat e)))
  (List.range 64).foldl
    (fun (r : EngRes) m =>
      let row0 : SupRow := if accum then supRead x sup m else {}
      let (ps, nan, row, f1) := attRow x i pass m row0
      let outs := (List.range 128).map (fun n =>
        let (v, f) := attOut x i (if accum then x.acc h (128 * m + n) else a36Zero) ps n
        (if nan then nan36 else v, f))
      let (den, f2) := sum36 (if accum then x.acc (1 - h) m else a36Zero)
        (ps.map (fun p => match p with | none => Num.zero | some p => Fmt.px16.decode p))
      let y := (r.x.setHalf h (128 * m) (outs.map (fun o => o.1))).setSpad (sup + 8 * m) (supBytes row)
      let y := if noden then y else y.setAcc (1 - h) m (if nan then nan36 else den)
      { r with x := y, fl := Fl.joinAll [r.fl, f1, if noden then {} else f2, Fl.joinAll (outs.map (fun o => o.2))],
               nanOut := r.nanOut || nan || outs.any (fun o => (A36.val o.1).isNan) })
    { x := x, fl := Fl.joinAll [qf, kvFlags x (attKvf i) (i.reg 7).toNat (attNk i),
                                kvFlags x (attKvf i) (i.reg 13).toNat (attNk i)] }

/-! ## Park (08 R209, R210) -/

def parkBytes : Nat := 73728

/-- All entries of both halves as 73,728 bytes: entry after entry, 36 bits each, ACC0 first (log 14). -/
def packAcc (x : Tile) : List Byte :=
  toBytesLE parkBytes ((x.half 0 ++ x.half 1).foldr (fun a n => a.toNat + 2 ^ 36 * n) 0)

def unpackAcc (n : Nat) : Nat → List A36
  | 0 => []
  | k + 1 => BitVec.ofNat 36 n :: unpackAcc (n / 2 ^ 36) k

/-- The location of park slot p of tile t (R209). -/
def State.parkLoc (s : State) (t p : Nat) : Nat := vaultLoc t (s.parkOff + parkBytes * p)

def parkCheck (s : State) (x : Tile) (i : EInstr) : Option TFault :=
  let p := (i.reg 1).toNat
  need (decide (p < 4096) && decide (p < s.parkSlots) && (W.op i.w == 8 || x.parked.contains p))

/-- mm.park: both halves into the slot. -/
def State.runPark (s : State) (t : Nat) (i : EInstr) : State :=
  let x := s.tile t
  let p := (i.reg 1).toNat
  (s.writeLoc (s.parkLoc t p) (packAcc x)).setTile t { x with parked := if x.parked.contains p then x.parked else x.parked ++ [p] }

/-- mm.unpark: the slot into both halves; an uncorrectable granule is a MEM fault (R225). -/
def State.runUnpark (s : State) (t : Nat) (i : EInstr) : State × Option TFault :=
  let loc := s.parkLoc t (i.reg 1).toNat
  let (bs, s1, bad) := s.readRef (.loc loc) parkBytes
  match bad with
  | some a => (s1, some { cause := .mem, addr := a })
  | none =>
    let es := unpackAcc (ofBytesLE bs) 16384
    (s1.updTile t (fun x => (x.setHalf 0 0 (es.take 8192)).setHalf 1 0 (es.drop 8192)), none)

end Sys2Proof.Machine
end

