-- ==== Sys2Proof/Machine/Vector.lean ====
section
/-! DEFINITION. Vector class and the debug class that shares its queue (05 R126 to R132; 06 R140, R141, R145, R160, R161;
07 R171 to R173; 04 R112). -/
namespace Sys2Proof.Machine

/-! ## Issue -/

/-- vadd (R126): enters the vector queue. -/
def execVadd (t : BitVec 8) (w : W64) (s : State) : Out := .next (s.enqueue t.toNat 5 0x01 w .vector)
/-- vsub (R126). -/
def execVsub (t : BitVec 8) (w : W64) (s : State) : Out := .next (s.enqueue t.toNat 5 0x02 w .vector)
/-- vmul (R126). -/
def execVmul (t : BitVec 8) (w : W64) (s : State) : Out := .next (s.enqueue t.toNat 5 0x03 w .vector)
/-- vmax (R126). -/
def execVmax (t : BitVec 8) (w : W64) (s : State) : Out := .next (s.enqueue t.toNat 5 0x04 w .vector)
/-- vmin (R126). -/
def execVmin (t : BitVec 8) (w : W64) (s : State) : Out := .next (s.enqueue t.toNat 5 0x05 w .vector)
/-- vscale (R126). -/
def execVscale (t : BitVec 8) (w : W64) (s : State) : Out := .next (s.enqueue t.toNat 5 0x06 w .vector)
/-- vaxpy (R126). -/
def execVaxpy (t : BitVec 8) (w : W64) (s : State) : Out := .next (s.enqueue t.toNat 5 0x07 w .vector)
/-- vcvt (R126, R140). -/
def execVcvt (t : BitVec 8) (w : W64) (s : State) : Out := .next (s.enqueue t.toNat 5 0x08 w .vector)
/-- vcmp (R129). -/
def execVcmp (t : BitVec 8) (w : W64) (s : State) : Out := .next (s.enqueue t.toNat 5 0x09 w .vector)
/-- vcmps (R129). -/
def execVcmps (t : BitVec 8) (w : W64) (s : State) : Out := .next (s.enqueue t.toNat 5 0x0A w .vector)
/-- vep (R126). -/
def execVep (t : BitVec 8) (w : W64) (s : State) : Out := .next (s.enqueue t.toNat 5 0x10 w .vector)
/-- vep.bias (R126). -/
def execVepBias (t : BitVec 8) (w : W64) (s : State) : Out := .next (s.enqueue t.toNat 5 0x11 w .vector)
/-- vep.att (R132). -/
def execVepAtt (t : BitVec 8) (w : W64) (s : State) : Out := .next (s.enqueue t.toNat 5 0x12 w .vector)
/-- vnorm (R131). -/
def execVnorm (t : BitVec 8) (w : W64) (s : State) : Out := .next (s.enqueue t.toNat 5 0x18 w .vector)
/-- vrms (R131). -/
def execVrms (t : BitVec 8) (w : W64) (s : State) : Out := .next (s.enqueue t.toNat 5 0x19 w .vector)
/-- vstk (R130). -/
def execVstk (t : BitVec 8) (w : W64) (s : State) : Out := .next (s.enqueue t.toNat 5 0x1F w .vector)
/-- drda (R112): enters the vector queue, in a LAUNCH with DBG only. -/
def execDrda (t : BitVec 8) (w : W64) (s : State) : Out := .next (s.enqueue t.toNat 7 0x01 w .vector)
/-- drbs (R112). -/
def execDrbs (t : BitVec 8) (w : W64) (s : State) : Out := .next (s.enqueue t.toNat 7 0x02 w .vector)

/-! ## Control fields (Table 5.9) -/

/-- The plain vep forms take every default; everything else reads s[RN]. -/
def vRnUsed (w : W64) : Bool := W.op w != 0x1F && (W.full w || !(decide (0x10 ≤ W.op w ∧ W.op w ≤ 0x12)))
def vCtl (i : EInstr) : W64 := if vRnUsed i.w then i.reg 18 else 0
def vN (i : EInstr) : Nat := fld (vCtl i) 0 32
def vSigma (i : EInstr) : Nat := fld (vCtl i) 32 16
def vFmt (i : EInstr) : Nat := fld (vCtl i) 48 4
def vOfmt (i : EInstr) : Nat :=
  if W.op i.w = 8 ∧ !W.full i.w then 2 else fld (vCtl i) 52 4
def vRnd (i : EInstr) : Nat := fld (vCtl i) 56 2
def vOpt (i : EInstr) : Bool := bit (vCtl i) 58
def vMk (i : EInstr) : Nat := if W.full i.w then fld i.w 24 3 else 0
def vMz (i : EInstr) : Bool := W.full i.w && bit i.w 27
def vHalf (i : EInstr) : Nat := fld i.w 12 1
def vTensor (i : EInstr) : Nat := if vRnd i = 1 then fld (i.reg1 18) 40 24 else 0

/-- What results depend on besides the operands: policy, seed and bound version (R146, R151). -/
structure VEnv where
  sat : Bool
  seed : W64
  ver : W64
  deriving DecidableEq, Repr

/-- The rounding of element idx under RND (R126, R145, R146). -/
def vRounding (e : VEnv) (i : EInstr) (idx : Nat) : Rnd :=
  match vRnd i with
  | 1 => .stoch (srBits e.seed e.ver (vTensor i) ((fld (i.reg1 18) 0 40 + idx) % 2 ^ 40))
  | 2 => .rtz
  | _ => .rne

/-- Bytes of a packed result of n elements, its MX scales included (R126). -/
def vOutBytes (ofmt n : Nat) : Nat := if isMx ofmt then n * fmtBits ofmt / 8 + n / 32 else n * fmtBits ofmt / 8

def srcOk (c : Nat) : Bool := c == 0 || c == 1 || c == 2 || c == 3 || c == 9
def dstOk (c : Nat) : Bool := decide (c ≤ 3)

/-- Checks at the start of a vector or debug instruction (R112 to R114, R126, R129). -/
def vCheck (i : EInstr) : Option TFault :=
  let op := W.op i.w
  let full := W.full i.w
  let c := vCtl i
  let n := vN i
  let rd := (i.reg 0).toNat
  let ra := (i.reg 6).toNat
  let rb := (i.reg 12).toNat
  let fb := fmtBits (vFmt i) / 8
  if W.cls i.w = 7 then
    if op = 2 then none
    else
      let cnt := if full then fld (i.reg 7) 0 32 else 8192
      let first := if full then fld (i.reg 7) 32 32 else 0
      firstFault [ need (decide (1 ≤ cnt ∧ first + cnt ≤ 8192)), spadCheck (i.reg 1).toNat (8 * cnt) ]
  else if op = 0x1F then none
  else
    let acc := decide (0x10 ≤ op ∧ op ≤ 0x12)
    let norm := op == 0x18 || op == 0x19
    let cmp := op == 0x09 || op == 0x0A
    let sigmaUsed := op == 6 || op == 7 || op == 0x0A || norm || (full && (op == 0x10 || op == 0x11))
    let optUsed := norm || op == 0x12
    let rows := if norm then vSigma i else 1
    firstFault
      [ need (!vRnUsed i.w || decide (1 ≤ fld i.w 18 6 ∧ fld i.w 18 6 ≤ 62)),
        need (fld c 59 5 == 0 && (full || fld c 48 11 == 0)),
        need (if acc then n == 0 else decide (1 ≤ n ∧ n ≤ (if cmp then 256 else 1048576))),
        need (sigmaUsed || vSigma i == 0),
        need (!(norm) || decide (1 ≤ rows)),
        need (!(sigmaUsed && !norm && fmtBits (vFmt i) == 8) || fld c 40 8 == 0),
        need (if acc then vFmt i == 0 else srcOk (vFmt i)),
        need (if cmp then vOfmt i == 0 else dstOk (vOfmt i) || (op == 8 && isMx (vOfmt i))),
        need (if cmp || norm then vRnd i == 0 else vRnd i != 3),
        need (optUsed || !vOpt i),
        need (!(op == 8 && isMx (vOfmt i)) || n % 32 == 0),
        need (!cmp || (fld i.w 0 3 != 0 && fld i.w 3 3 != 7)),
        need (!norm || (fld (i.reg 12) 21 11 == 0 && fld (i.reg 12) 53 11 == 0 && (op == 0x18 || fld (i.reg 12) 32 21 == 0))),
        if acc then none else spadCheck ra (rows * n * fb),
        if op == 0x11 then spadCheck ra 256 else none,
        if op == 0x12 && !vOpt i then spadCheck ra 256 else none,
        if (decide (1 ≤ op ∧ op ≤ 5)) || op == 7 || op == 9 then spadCheck rb (n * fb) else none,
        if norm then spadCheck (fld (i.reg 12) 0 21) (n * fb) else none,
        if op == 0x18 then spadCheck (fld (i.reg 12) 32 21) (n * fb) else none,
        if cmp then none else spadCheck rd (if acc then vOutBytes (vOfmt i) 8192 else vOutBytes (vOfmt i) (rows * n)) ]

/-! ## Elementwise instructions -/

/-- The exact result of one element: a value or a quotient, with the flags of its operands. -/
structure VRes where
  q : Quot
  fl : Fl
  deriving DecidableEq, Repr

def VRes.of (v : Num) (fl : Fl) : VRes := { q := .num v false, fl := fl }

/-- vmax and vmin: NaN if either is one, and −0 below +0 (R150). -/
def vMaxNum (a b : Num) : Num :=
  if a.isNan || b.isNan then .nan
  else if a.isZero && b.isZero then (if a.sign then b else a)
  else if a.lt b then b else a
def vMinNum (a b : Num) : Num :=
  if a.isNan || b.isNan then .nan
  else if a.isZero && b.isZero then (if a.sign then a else b)
  else if b.lt a then b else a

/-- σ as a code of FMT in [47:32] (Table 5.9). -/
def vSigmaNum (i : EInstr) : Num :=
  match fmtOf (vFmt i) with
  | some F => F.decode (vSigma i % 2 ^ F.bits)
  | none => .nan

/-- Element j of opcodes 0x01 to 0x08 (Table 5.10). -/
def vElem (x : Tile) (i : EInstr) (j : Nat) : VRes :=
  let a := x.elem (vFmt i) (i.reg 6).toNat j
  let b := x.elem (vFmt i) (i.reg 12).toNat j
  let sg := vSigmaNum i
  let two := Fl.join (Fl.ofRead a) (Fl.ofRead b)
  let gen (r : Num × Bool) (fl : Fl) : VRes := .of r.1 { fl with nanGen := r.2 }
  match W.op i.w with
  | 1 => gen (a.addX b) two
  | 2 => gen (a.addX b.neg) two
  | 3 => gen (a.mulX b) two
  | 4 => .of (vMaxNum a b) two
  | 5 => .of (vMinNum a b) two
  | 6 => gen (sg.mulX a) (Fl.join (Fl.ofRead sg) (Fl.ofRead a))
  | 7 =>
    let (p, g1) := sg.mulX a
    let (r, g2) := p.addX b
    gen (r, g1 || g2) (Fl.join (Fl.ofRead sg) two)
  | _ => .of a (Fl.ofRead a)

/-- σ of the vep forms: BF16, 0x0000 standing for 1.0 (Table 5.9). -/
def vepSigma (i : EInstr) : Num := if vSigma i = 0 then .ofNat 1 else Fmt.bf16.decode (vSigma i)

/-- Entry e of vep, whose bias is +0, of vep.bias and of vep.att (Table 5.10, R126, R132). The conversion of an infinite entry raises
no INF_IN (Table 6.4, A36 addition); an infinite σ does. -/
def vepElem (x : Tile) (i : EInstr) (e : Nat) : VRes :=
  let a := A36.val (x.acc (vHalf i) e)
  let scaled (bias : Num) : VRes :=
    let (p, g1) := (vepSigma i).mulX a
    let (r, g2) := p.addX bias
    .of r (Fl.joinAll [Fl.ofRead (vepSigma i), Fl.ofRead bias, { nanIn := a.isNan, nanGen := g1 || g2 }])
  match W.op i.w with
  | 0x10 => scaled .zero
  | 0x11 => scaled (x.elem 0 (i.reg 6).toNat (e % 128))
  | _ =>
    let den := A36.val (x.acc (1 - vHalf i) (e / 128))
    if den.isZero then .of .zero {}
    else { q := a.divX den, fl := { nanIn := a.isNan || den.isNan } }

/-- One delivered element: code, flags, value. -/
def vStore (e : VEnv) (i : EInstr) (F : Fmt) (idx : Nat) (r : VRes) : Nat × Fl :=
  let (c, f) := F.storeQuot (vRounding e i idx) e.sat r.q
  (c, Fl.join r.fl f)

/-- The codes of n elements with masking (R128): merged elements keep their code, zeroed ones become +0. -/
def vMasked (x : Tile) (i : EInstr) (off n : Nat) (col : Nat → Nat) (f : Nat → Nat × Fl) : List (Nat × Fl × Bool) :=
  let m := x.rdK (vMk i)
  let w := fmtBits (vOfmt i)
  (List.range n).map (fun j =>
    if vMk i = 0 || bit m (col j % 256) then let (c, fl) := f j; (c, fl, true)
    else (if vMz i then 0 else x.spadCode off (w * j) w, {}, false))

/-- Codes of w bits packed into bytes, element i from bit w × i (R113). -/
def packCodes (w : Nat) (cs : List Nat) : List Byte :=
  toBytesLE (cs.length * w / 8) (cs.foldr (fun c n => c % 2 ^ w + 2 ^ w * n) 0)

/-- The result of a list of delivered elements. -/
def vDeliver (x : Tile) (i : EInstr) (off : Nat) (rs : List (Nat × Fl × Bool)) : EngRes :=
  let o := vOfmt i
  let vals := (rs.filter (fun r => r.2.2)).map (fun r => match fmtOf o with | some F => F.decode r.1 | none => .nan)
  { x := x.setSpad off (packCodes (fmtBits o) (rs.map (fun r => r.1))),
    fl := Fl.joinAll (rs.map (fun r => r.2.1)), tensor := vTensor i,
    nanOut := vals.any (fun v => v.isNan), outs := vals }

/-! ### MX results (R140) -/

/-- The scale byte of a block and the exponent its elements are divided by (none: a non-finite or all-zero block, whose codes
are 0). -/
def mxBlock (emax : Int) (vs : List Num) : Nat × Option Int :=
  if vs.any (fun v => !v.isFin) then (0xFF, none)
  else
    let top := vs.foldl (fun (b : Option Int) v =>
      match v with
      | .fin _ m e => if m = 0 then b else
          let l := (Nat.log2 m : Int) + e
          some (match b with | none => l | some k => max k l)
      | _ => b) none
    match top with
    | none => (0x7F, none)
    | some l =>
      let x := min 127 (max (-127) (l - emax))
      ((x + 127).toNat, some x)

def mxEmax : Nat → Int
  | 4 => 8
  | 5 => 15
  | 6 => 2
  | 7 => 4
  | _ => 2

/-- Largest finite magnitude code of an MX element format (E4M3 and E5M2 as element types keep their NaN codes apart). -/
def mxMax (F : Fmt) : Nat := F.maxCode

/-- An element v ÷ 2^X rounded into its format, clamped at the largest magnitude without a flag (R140 step 4). -/
def mxElem (F : Fmt) (rnd : Rnd) (x : Int) (v : Num) : Nat × Fl :=
  match v with
  | .fin s m e =>
    let (q, ex, _) := F.roundMag rnd m 1 (e - x)
    let c := F.magCode q ex
    (F.signBit s + min c (mxMax F), { unf := decide (m ≠ 0) && c == 0 })
  | _ => (0, {})

/-- vcvt into an MX format: element codes, then scale bytes (R126, R140). -/
def runCvtMx (x : Tile) (e : VEnv) (i : EInstr) : EngRes :=
  let n := vN i
  let o := vOfmt i
  let off := (i.reg 0).toNat
  let F := (fmtOf o).getD .e4m3
  let src := (List.range n).map (fun j => x.elem (vFmt i) (i.reg 6).toNat j)
  let blocks := (chunks 32 src).map (mxBlock (mxEmax o))
  let rs := vMasked x i off n id (fun j =>
    let v := src.getD j .zero
    match (blocks.getD (j / 32) (0x7F, none)).2 with
    | none => (0, Fl.ofRead v)
    | some k => let (c, f) := mxElem F (vRounding e i j) k v; (c, Fl.join (Fl.ofRead v) f))
  let r := vDeliver x i off rs
  { r with x := r.x.setSpad (off + n * fmtBits o / 8) (blocks.map (fun b => BitVec.ofNat 8 b.1)) }

/-- The effect of opcodes 0x01 to 0x08. -/
def runElem (x : Tile) (e : VEnv) (i : EInstr) : EngRes :=
  if isMx (vOfmt i) then runCvtMx x e i
  else
    let F := (fmtOf (vOfmt i)).getD .bf16
    let off := (i.reg 0).toNat
    vDeliver x i off (vMasked x i off (vN i) id (fun j => vStore e i F j (vElem x i j)))

/-! ## Comparisons (R129) -/

def condHolds (cond : Nat) (a b : Num) : Bool :=
  let un := a.isNan || b.isNan
  match cond with
  | 0 => !un && a.cmp b == .eq
  | 1 => un || a.cmp b != .eq
  | 2 => a.lt b
  | 3 => a.le b
  | 4 => b.lt a
  | 5 => b.le a
  | _ => un

/-- vcmp and vcmps: bits 0 to N − 1 of k[K], the rest 0. -/
def runCmp (x : Tile) (i : EInstr) : EngRes :=
  let b (j : Nat) : Num := if W.op i.w = 9 then x.elem (vFmt i) (i.reg 12).toNat j else vSigmaNum i
  let rs := (List.range (vN i)).map (fun j =>
    let a := x.elem (vFmt i) (i.reg 6).toNat j
    (condHolds (fld i.w 3 3) a (b j), Fl.join (Fl.ofRead a) (Fl.ofRead (b j))))
  let bits := rs.foldr (fun r n => b2n r.1 + 2 * n) 0
  { x := x.wrK (fld i.w 0 3) (BitVec.ofNat 256 bits), fl := Fl.joinAll (rs.map (fun r => r.2)) }

/-! ## Epilogues (R126, R132) and the row-statistics record (07 R171 to R173) -/

/-- The accumulator-reading forms without the record. -/
def runVep (x : Tile) (e : VEnv) (i : EInstr) : EngRes :=
  let F := (fmtOf (vOfmt i)).getD .bf16
  let off := (i.reg 0).toNat
  vDeliver x i off (vMasked x i off 8192 (fun j => j % 128) (fun j =>
    vStore e i F j (vepElem x i j)))

/-- ln of a row's denominator, when it is finite and above +0 (R172). -/
def rowLse (d : Num) : Option Int :=
  match d with
  | .fin s m e => if m = 0 || s then none else some (fxLn m e)
  | _ => none

/-- The integer nearest to x / 2^(P+1), ties to even. -/
def fxNearestHalf (x : Int) : Int :=
  let d : Int := 2 * 2 ^ fxP
  let q := x / d
  let r := x - q * d
  if 2 * r > d ∨ (2 * r = d ∧ q % 2 = 1) then q + 1 else q

/-- BASE of a record that is the first of its pair or stands alone (R172). -/
def lseBase (ls : List Int) : Int :=
  match ls with
  | [] => 0
  | l :: r => fxNearestHalf ((r.foldl min l) + (r.foldl max l))

/-- LSE, OUT and EMPTY of one row (R173). -/
def lseRow (base : Int) (d : Num) : Nat × Bool × Bool :=
  if d.isZero then (0, false, true)
  else
    match rowLse d with
    | none => (0, true, false)
    | some l =>
      let v := l - base * 2 ^ fxP
      let raw := l16Round (decide (v < 0)) v.natAbs 1 (-(fxP : Int))
      if -(63 * 512) ≤ raw ∧ raw ≤ 63 * 512 then ((BitVec.ofInt 16 raw).toNat, false, false) else (0, true, false)

/-- The 256-byte record (Table 7.1). -/
def lseRecord (base : Int) (dens : List Num) : List Byte :=
  let rows := dens.map (lseRow base)
  let bitsOf (f : Nat × Bool × Bool → Bool) : Nat := rows.foldr (fun r n => b2n (f r) + 2 * n) 0
  rows.flatMap (fun r => toBytesLE 2 r.1) ++ toBytesLE 2 (BitVec.ofInt 16 base).toNat ++ toBytesLE 1 1 ++
  List.replicate 5 0 ++ toBytesLE 8 (bitsOf (fun r => r.2.1)) ++ toBytesLE 8 (bitsOf (fun r => r.2.2)) ++
  List.replicate 104 0

/-- A record at F with F mod 512 = 256 is the second of a pair (R172). -/
def secondRecord (i : EInstr) : Bool := (i.reg 6).toNat % 512 == 256

/-- vep.att: the quotients, then the record unless OPT is set. The BASE of a first record was taken at the start and
stands in the field n of the running instruction (R172). -/
def runVepAtt (x : Tile) (e : VEnv) (i : EInstr) : EngRes :=
  let r := runVep x e i
  if vOpt i then r
  else
    let dens := (List.range 64).map (fun m => A36.val (x.acc (1 - vHalf i) m))
    let base := if secondRecord i then (BitVec.ofNat 16 i.n).toInt else lseBase (dens.filterMap rowLse)
    { r with x := r.x.setSpad (i.reg 6).toNat (lseRecord base dens) }

/-! ## Normalisation (R131, R160, R161) -/

/-- A36 values of a list summed in groups of 16 from +0 (R154). -/
def normSum (vs : List A36) : A36 × Fl := sum36 a36Zero (vs.map A36.val)

def a36Mul (a b : A36) : A36 × Fl :=
  let (v, g) := (A36.val a).mulX (A36.val b)
  let (r, o) := rnd36F v
  (r, { nanGen := g, ovf := o })

def a36Sub (a b : Num) : A36 × Fl :=
  let (v, g) := a.addX b.neg
  let (r, o) := rnd36F v
  (r, { nanGen := g, ovf := o })

def a36DivN (a : A36) (n : Nat) : A36 × Fl := rnd36Quot ((A36.val a).divX (.ofNat n))

/-- ε: 2^−20, or s[RN + 1][15:0] in BF16 with OPT (Table 5.9). -/
def normEps (i : EInstr) : Num := if vOpt i then Fmt.bf16.decode (fld (i.reg1 18) 0 16) else .pow2 (-20)

/-- The centred row and its scale r: vnorm (R160 steps 1 to 4). -/
def normRow (n : Nat) (eps : Num) (xs : List Num) : List A36 × A36 × Fl :=
  let x0 := xs.headD .zero
  let ys : List (A36 × Fl) := xs.map (fun v => a36Sub v x0)
  let (sm, f1) := normSum (ys.map (fun y => y.1))
  let (mu, f2) := a36DivN sm n
  let cs : List (A36 × Fl) := ys.map (fun y => a36Sub (A36.val y.1) (A36.val mu))
  let (var, f3) : A36 × Fl :=
    if n ≤ 32768 then
      let qs := cs.map (fun c => a36Mul c.1 c.1)
      let (q, f) := normSum (qs.map (fun q => q.1))
      let (v, g) := a36DivN q n
      (v, Fl.joinAll (f :: g :: qs.map (fun (q : A36 × Fl) => q.2)))
    else
      let qs := ys.map (fun y => a36Mul y.1 y.1)
      let (q, f) := normSum (qs.map (fun q => q.1))
      let (ss, g1) := a36Mul sm sm
      let (sn, g2) := a36DivN ss n
      let (d, g3) := a36Sub (A36.val q) (A36.val sn)
      let (v, g4) := a36DivN d n
      let fl := Fl.joinAll (f :: g1 :: g2 :: g3 :: g4 :: qs.map (fun (q : A36 × Fl) => q.2))
      if (A36.val v).isNeg then (a36Zero, { fl with varClamp := true, clamps := 1 }) else (v, fl)
  let (arg, f4) := a36Sub (A36.val var) eps.neg
  let (r, f5) := rsqrt36 arg
  (cs.map (fun c => c.1), r, Fl.joinAll ([f1, f2, f3, f4, f5] ++ ys.map (fun (y : A36 × Fl) => y.2) ++ cs.map (fun (c : A36 × Fl) => c.2)))

/-- The scale r of vrms. -/
def rmsRow (n : Nat) (eps : Num) (xs : List Num) : A36 × Fl :=
  let qs := xs.map (fun v =>
    let (p, g) := v.mulX v
    let (r, o) := rnd36F p
    (r, ({ nanGen := g, ovf := o } : Fl)))
  let (q, f1) := normSum (qs.map (fun q => q.1))
  let (ms, f2) := a36DivN q n
  let (arg, f3) := a36Sub (A36.val ms) eps.neg
  let (r, f4) := rsqrt36 arg
  (r, Fl.joinAll ([f1, f2, f3, f4] ++ qs.map (fun q => q.2)))

/-- vnorm and vrms: every row, each output rounded once (R131, R160). -/
def runNorm (x : Tile) (e : VEnv) (i : EInstr) : EngRes :=
  let n := vN i
  let F := (fmtOf (vOfmt i)).getD .bf16
  let fb := fmtBits (vFmt i) / 8
  let src := (i.reg 6).toNat
  let goff := fld (i.reg 12) 0 21
  let boff := fld (i.reg 12) 32 21
  let ln := W.op i.w = 0x18
  (List.range (vSigma i)).foldl
    (fun (res : EngRes) r =>
      let xs := (List.range n).map (fun j => x.elem (vFmt i) (src + r * n * fb) j)
      let bad := xs.any (fun v => !v.isFin)
      let (cs, rr, fl) : List Num × A36 × Fl :=
        if ln then let (c, rr, f) := normRow n (normEps i) xs; (c.map A36.val, rr, f)
        else let (rr, f) := rmsRow n (normEps i) xs; (xs, rr, f)
      let outs := cs.zipIdx.map (fun (c, j) =>
        let g := x.elem (vFmt i) goff j
        let b := if ln then x.elem (vFmt i) boff j else .zero
        let (p, g1) := c.mulX (A36.val rr)
        let (q, g2) := p.mulX g
        let (v, g3) := if ln then q.addX b else (q, false)
        let (code, f) := F.store .rne e.sat (if bad then .nan else v)
        (code, Fl.joinAll [f, Fl.ofRead g, if ln then Fl.ofRead b else {}, { nanGen := g1 || g2 || g3 }]))
      let vals := outs.map (fun o => F.decode o.1)
      { res with
        x := res.x.setSpad ((i.reg 0).toNat + r * n * F.bytes) (outs.flatMap (fun o => toBytesLE F.bytes o.1)),
        fl := Fl.joinAll ([res.fl, fl, Fl.ofRead (normEps i)] ++ xs.map Fl.ofRead ++ outs.map (fun o => o.2)),
        nanOut := res.nanOut || vals.any (fun v => v.isNan), outs := res.outs ++ vals })
    { x := x }

/-! ## Debug (04 R112) -/

/-- drda: raw entries as 64-bit words. -/
def runDrda (x : Tile) (i : EInstr) : EngRes :=
  let cnt := if W.full i.w then fld (i.reg 7) 0 32 else 8192
  let first := if W.full i.w then fld (i.reg 7) 32 32 else 0
  { x := x.setSpad (i.reg 1).toNat
      ((List.range cnt).flatMap (fun k => toBytesLE 8 (x.acc (fld i.w 0 1) (first + k)).toNat)) }

/-- The effect of a vector instruction on stored operands or accumulators. vstk writes the value taken at its start,
which stands in the field n (R130). -/
def runVec (x : Tile) (e : VEnv) (i : EInstr) : EngRes :=
  let op := W.op i.w
  if W.cls i.w = 7 then runDrda x i
  else if op = 0x1F then { x := x.wr (fld i.w 0 6) (BitVec.ofNat 64 i.n) }
  else if op ≤ 8 then runElem x e i
  else if op = 9 ∨ op = 0x0A then runCmp x i
  else if op = 0x12 then runVepAtt x e i
  else if op = 0x10 ∨ op = 0x11 then runVep x e i
  else runNorm x e i

end Sys2Proof.Machine
end

