-- ==== Sys2Proof/Machine/Madder.lean ====
section
/-! DEFINITION. Special class: the Madder unit (05 R133 to R136; 06 R156, R162 to R167). -/
namespace Sys2Proof.Machine

/-- mdr.exp (R133): enters the Madder queue. -/
def execMdrExp (t : BitVec 8) (w : W64) (s : State) : Out := .next (s.enqueue t.toNat 6 0x01 w .madder)
/-- mdr.log (R133). -/
def execMdrLog (t : BitVec 8) (w : W64) (s : State) : Out := .next (s.enqueue t.toNat 6 0x02 w .madder)
/-- mdr.rcp (R133). -/
def execMdrRcp (t : BitVec 8) (w : W64) (s : State) : Out := .next (s.enqueue t.toNat 6 0x03 w .madder)
/-- mdr.rsqrt (R133). -/
def execMdrRsqrt (t : BitVec 8) (w : W64) (s : State) : Out := .next (s.enqueue t.toNat 6 0x04 w .madder)
/-- mdr.erf (R133, R166). -/
def execMdrErf (t : BitVec 8) (w : W64) (s : State) : Out := .next (s.enqueue t.toNat 6 0x05 w .madder)
/-- mdr.gelu (R133, R166). -/
def execMdrGelu (t : BitVec 8) (w : W64) (s : State) : Out := .next (s.enqueue t.toNat 6 0x06 w .madder)
/-- mdr.gelut (R133, R166). -/
def execMdrGelut (t : BitVec 8) (w : W64) (s : State) : Out := .next (s.enqueue t.toNat 6 0x07 w .madder)
/-- mdr.silu (R133, R166). -/
def execMdrSilu (t : BitVec 8) (w : W64) (s : State) : Out := .next (s.enqueue t.toNat 6 0x08 w .madder)
/-- mdr.tab (R133, R136). -/
def execMdrTab (t : BitVec 8) (w : W64) (s : State) : Out := .next (s.enqueue t.toNat 6 0x09 w .madder)
/-- mdr.pexp (R134). -/
def execMdrPexp (t : BitVec 8) (w : W64) (s : State) : Out := .next (s.enqueue t.toNat 6 0x10 w .madder)
/-- mdr.tld (R135). -/
def execMdrTld (t : BitVec 8) (w : W64) (s : State) : Out := .next (s.enqueue t.toNat 6 0x20 w .madder)

def mdrSlot (i : EInstr) : Nat := fld i.w 25 2
def mdrHalf (i : EInstr) : Nat := fld i.w 24 1
def mdrFmt (i : EInstr) : Fmt := if fld (i.reg 18) 48 4 = 1 then .fp16 else .bf16
def mdrN (i : EInstr) : Nat := fld (i.reg 18) 0 32

/-- Checks at the start of a Madder instruction (R114, R133 to R136). -/
def mdrCheck (x : Tile) (i : EInstr) : Option TFault :=
  let op := W.op i.w
  let full := W.full i.w
  let c := i.reg 18
  let rnOk := decide (1 ≤ fld i.w 18 6)
  if op = 0x20 then
    firstFault [ need (!full || (rnOk && fld c 11 53 == 0)), spadCheck (i.reg 6).toNat 4096 ]
  else if op = 0x10 then
    firstFault [ need (rnOk && fld c 50 14 == 0 && (full || !bit c 49)),
                 spadCheck (i.reg 12).toNat 256, spadCheck (i.reg 0).toNat 16384 ]
  else
    firstFault
      [ need (rnOk && decide (1 ≤ mdrN i ∧ mdrN i ≤ 1048576) && fld c 32 16 == 0 && fld c 52 12 == 0 &&
              decide (fld c 48 4 ≤ (if full then 1 else 0))),
        need (op != 9 || !(Tab.get [] x.slots (mdrSlot i)).isEmpty),
        spadCheck (i.reg 6).toNat (2 * mdrN i), spadCheck (i.reg 0).toNat (2 * mdrN i) ]

def mdrFn (x : Tile) (i : EInstr) : MadFn :=
  match W.op i.w with
  | 0x01 => .exp
  | 0x02 => .log
  | 0x03 => .rcp
  | 0x04 => .rsqrt
  | 0x05 => .builtIn .erf
  | 0x06 => .builtIn .gelu
  | 0x07 => .builtIn .gelut
  | 0x08 => .builtIn .silu
  | _ => .table (Tab.get [] x.slots (mdrSlot i))

/-- A function of N elements, in the source's format (R133). -/
def runMdrFn (x : Tile) (sat : Bool) (i : EInstr) : EngRes :=
  let F := mdrFmt i
  let fn := mdrFn x i
  let rs := (List.range (mdrN i)).map (fun j => madApply fn F sat (x.spadNat ((i.reg 6).toNat + 2 * j) 2))
  let vals := rs.map (fun r => F.decode r.1)
  { x := x.setSpad (i.reg 0).toNat (rs.flatMap (fun r => toBytesLE 2 r.1)),
    fl := Fl.joinAll (rs.map (fun r => r.2)), nanOut := vals.any (fun v => v.isNan), outs := vals }

/-- One element of mdr.pexp: none for a NaN score (R134, R156 step 5). -/
def pexpElem (x : Tile) (i : EInstr) (m n : Nat) (lse : Num) : Option Nat × Fl :=
  let c := i.reg 18
  if masked c m n then (some 0, {})
  else
    let a := x.acc (mdrHalf i) (128 * m + n)
    let (s, f1) := scaledScore c a
    let v := A36.val s
    if v.isNan then (none, Fl.join f1 { nanIn := (A36.val a).isNan })
    else
      let (u, cl) := supervise v
      let (p, f2) := expPx16 (rnd36 (u.sub lse))
      (some p, Fl.joinAll [f1, f2, { range := cl, infIn := v.isInf }])

/-- mdr.pexp (R134). PX16 has no NaN code and no rule says what a row with a NaN score delivers: its unmasked elements
are free values `fv` (log 3). -/
def runPexp (x : Tile) (fv : Nat → Nat) (i : EInstr) : EngRes :=
  let c := i.reg 18
  let rec0 := x.spadNat (i.reg 12).toNat 256
  let base := (BitVec.ofNat 16 (rec0 >>> 1024)).toInt
  (List.range 64).foldl
    (fun (r : EngRes) m =>
      let skip := bit c 49 && ((rec0 >>> (1088 + m)) % 2 == 1 || (rec0 >>> (1216 + m)) % 2 == 1)
      let lse := (Num.ofInt base).add ((Num.ofInt (BitVec.ofNat 16 (rec0 >>> (16 * m))).toInt).mul (.pow2 (-9)))
      let es := (List.range 128).map (fun n => pexpElem x i m n lse)
      let nan := es.any (fun e => e.1.isNone)
      let codes := es.zipIdx.map (fun (e, n) =>
        if skip then 0
        else if nan && !masked c m n then fv (128 * m + n) % 2 ^ 16
        else e.1.getD 0)
      { r with x := r.x.setSpad ((i.reg 0).toNat + 256 * m) (codes.flatMap (toBytesLE 2)),
               fl := if skip then r.fl else Fl.joinAll (r.fl :: es.map (fun e => e.2)),
               nanOut := r.nanOut || (nan && !skip) })
    { x := x }

/-- The monotonicity a Full mdr.tld declares (R135). -/
def tldMono (i : EInstr) : Option LakeMono :=
  let c := i.reg 18
  if W.full i.w && bit c 10 then some { split := fld c 0 8, dirLo := bit c 8, dirHi := bit c 9 } else none

/-- mdr.tld: check and install, or the TABLE fault at the first failing record (R135, R165). -/
def runTld (x : Tile) (i : EInstr) : Tile × Option TFault :=
  let off := (i.reg 6).toNat
  let img := x.spadBytes off 4096
  match lakeCheck img (tldMono i) with
  | some g => (x, some { cause := .table, addr := off + 16 * g })
  | none => ({ x with slots := Tab.put [] x.slots (mdrSlot i) img }, none)

end Sys2Proof.Machine
end

