-- ==== Sys2Proof/Machine/Sync.lean ====
section
/-! DEFINITION. Sync class: signals, waits, credit queues, step base, page-table pins (04 R105 to R111, 07 R185, R186). -/
namespace Sys2Proof.Machine

/-! ## Operands (R105) -/

def SyncI.ro (i : EInstr) : W64 := i.reg 0
def SyncI.rv (i : EInstr) : W64 := i.reg 6
def SyncI.rx (i : EInstr) : W64 := i.reg 18
def SyncI.rdReg (i : EInstr) : Nat := fld i.w 12 6
def SyncI.isWait (i : EInstr) : Bool := let o := W.op i.w; o == 2 || o == 4 || o == 5 || o == 8

/-- Timeout in reference periods (R107): s[RX][31:0] µs, or JOB_CFG.DEP_TO_DEF ms, read when the wait starts and kept
in the field n of the running instruction. -/
def SyncI.timeout (s : State) (i : EInstr) : Nat :=
  let v := if W.full i.w then fld (SyncI.rx i) 0 32 else 0
  if v = 0 then s.depToDef * msec else v * usec
/-- Stall bound in reference periods (R107): s[RX][63:32] µs, or 1,000 µs. -/
def SyncI.bound (i : EInstr) : Nat :=
  let v := if W.full i.w then fld (SyncI.rx i) 32 32 else 0
  (if v = 0 then 1000 else v) * usec

/-- The condition of a sync wait (Table 4.10). -/
def State.syncMet (s : State) (i : EInstr) : Bool :=
  let ro := (SyncI.ro i).toNat
  let rv := (SyncI.rv i).setWidth 32
  match W.op i.w with
  | 2 => s.objReached ro rv
  | 4 => !s.homeStopped (2 * ro) && (s.obj (2 * ro) - s.obj (2 * ro + 1)).ult rv
  | 5 => !s.homeStopped (2 * ro) && decide (1 ≤ (s.obj (2 * ro) - s.obj (2 * ro + 1)).toNat)
  | 8 =>
    let st := SyncI.rv i
    let ph := (SyncI.ro i).setWidth 32
    st.ult s.stb.step || (st == s.stb.step && decide (ph.toNat ≤ s.phase.toNat))
  | _ => false

/-- Pins that the LAUNCH running on a tile holds there; those of a saved context stay its own (07 R185, R186). -/
def State.tilePins (s : State) (t : Nat) : List Pin :=
  match (s.tile t).launch with
  | some (q, seq) => s.cx.pins.filter (fun p => p.holder == .tile t q seq)
  | none => []

/-- Operand checks when a sync instruction starts (R105, R107, R185). -/
def syncCheck (s : State) (t : Nat) (i : EInstr) : Option TFault :=
  let o := W.op i.w
  let full := W.full i.w
  let ro := (SyncI.ro i).toNat
  let waitRx := !full || (decide (fld (SyncI.rx i) 0 32 ≤ 65535000) && decide (fld (SyncI.rx i) 32 32 ≤ 65535000))
  let sigRx := !full || fld (SyncI.rx i) 12 52 == 0
  let count := !full || (decide (1 ≤ fld (SyncI.rv i) 0 32) && decide (fld (SyncI.rv i) 0 32 ≤ 4095))
  let rd2 := decide (1 ≤ SyncI.rdReg i) && decide (SyncI.rdReg i ≤ 62)
  need (match o with
    | 1 => decide (ro ≤ 16383) && sigRx
    | 2 => decide (ro ≤ 16383) && waitRx
    | 3 => decide (ro ≤ 8191) && sigRx && count
    | 4 => decide (ro ≤ 8191) && waitRx
    | 5 => decide (ro ≤ 8191) && waitRx
    | 6 => decide (ro ≤ 8191) && sigRx && count
    | 7 => rd2
    | 8 => waitRx
    | 9 => decide (ro ≤ 47) && s.ctxEnabled ro && rd2 && decide ((s.tilePins t).length < 4)
    | _ => decide (ro ≤ 47) && s.ctxEnabled ro &&
           (s.tilePins t).any (fun p => p.ctx == ro && p.epoch == (SyncI.rv i).setWidth 32))

/-! ## Issue (R68, R105) -/

/-- A sync wait stalls the control core from its issue (R107). -/
def State.issueWait (s : State) (t o : Nat) (w : W64) : State :=
  let s1 := s.enqueue t 3 o w .sync
  if ((s1.tile t).queue .sync).length = ((s.tile t).queue .sync).length + 1 then s1.updTile t (fun x => { x with core := .syncWait })
  else s1

/-- ssig (R105, R106): enters the sync port. -/
def execSsig (t : BitVec 8) (w : W64) (s : State) : Out := .next (s.enqueue t.toNat 3 0x01 w .sync)
/-- swait (R107). -/
def execSwait (t : BitVec 8) (w : W64) (s : State) : Out := .next (s.issueWait t.toNat 0x02 w)
/-- cqput (R108). -/
def execCqput (t : BitVec 8) (w : W64) (s : State) : Out := .next (s.enqueue t.toNat 3 0x03 w .sync)
/-- cqacq (R107, R108). -/
def execCqacq (t : BitVec 8) (w : W64) (s : State) : Out := .next (s.issueWait t.toNat 0x04 w)
/-- cqget (R107, R108). -/
def execCqget (t : BitVec 8) (w : W64) (s : State) : Out := .next (s.issueWait t.toNat 0x05 w)
/-- cqrel (R108). -/
def execCqrel (t : BitVec 8) (w : W64) (s : State) : Out := .next (s.enqueue t.toNat 3 0x06 w .sync)
/-- sbrd (R110). -/
def execSbrd (t : BitVec 8) (w : W64) (s : State) : Out := .next (s.enqueue t.toNat 3 0x07 w .sync)
/-- sbwait (R107, R110). -/
def execSbwait (t : BitVec 8) (w : W64) (s : State) : Out := .next (s.issueWait t.toNat 0x08 w)
/-- ptpin (R185). -/
def execPtpin (t : BitVec 8) (w : W64) (s : State) : Out := .next (s.enqueue t.toNat 3 0x09 w .sync)
/-- ptrel (R185). -/
def execPtrel (t : BitVec 8) (w : W64) (s : State) : Out := .next (s.enqueue t.toNat 3 0x0A w .sync)

/-! ## Signals (R106, R108) -/

/-- A signal to a peer's object: a SIG packet, held until its directory acknowledges it (13 R346). -/
def State.remoteSig (s : State) (o : SigOwner) (m : BitVec 12) (obj : Nat) (add : W32) : State :=
  let (s1, e) := s.fabSend m (.sig (BitVec.ofNat 14 obj) add)
  { s1 with sync := { s1.sync with remote := s1.sync.remote ++ [{ owner := o, peer := m, eseq := e, obj := obj, add := add }] } }

/-- The command runs and has not ended. -/
def State.isRunning (s : State) (q : Nat) (seq : W32) : Bool :=
  match s.findCmd q seq with
  | some c => decide (c.phase = .running)
  | none => false

/-- A signal is discarded because its peer failed and nobody holds its role (13 R347). -/
def State.sigLost (s : State) (o : SigOwner) : State :=
  match o with
  | .cmd q seq => if s.isRunning q seq then s.endCmd q seq Status.peerLost [] else s
  | .tile t =>
    match (s.tile t).launch with
    | some (q, seq) => s.updLaunch q seq (fun l => { l with peerLost := true })
    | none => s

/-- A signal to an object of the holder of a failed peer's role; none where no spare has taken it (13 R347). A holder that is this
module signals locally (13 R346). -/
def State.sigToHolder (s : State) (o : SigOwner) (d : Option (BitVec 12)) (obj : Nat) (add : W32) : State :=
  match d with
  | none => s.sigLost o
  | some d =>
    if s.host.ident = some d then
      match o with
      | .tile t => s.signal { src := some t, obj := obj, add := add }
      | .cmd q seq => if s.isRunning q seq then (s.homeAdd obj add).endCmd q seq Status.ok [] else s.homeAdd obj add
    else s.remoteSig o d obj add

/-- A signal to an object of a peer: one that was declared failed is replaced by the holder of its role (13 R347). -/
def State.peerSig (s : State) (o : SigOwner) (m : BitVec 12) (obj : Nat) (add : W32) : State :=
  let d := s.holderOf m
  s.sigToHolder o (if s.isFailed d then none else some d) obj add

/-- Send one signal: to an object of this module, or to a peer's. -/
def State.sendSig (s : State) (t : Nat) (peer : Option (BitVec 12)) (obj : Nat) (add : W32) : State :=
  match peer with
  | none => s.signal { src := some t, obj := obj, add := add }
  | some m => s.peerSig (.tile t) m obj add

/-- The peer a Full signal names, when it is not this module (R108). -/
def SyncI.peer (s : State) (i : EInstr) : Option (BitVec 12) :=
  if W.full i.w then
    let m : BitVec 12 := (SyncI.rx i).setWidth 12
    if s.host.ident == some m then none else some m
  else none

/-- What a signalling instruction sends when it starts. -/
def State.startSig (s : State) (t : Nat) (i : EInstr) : State :=
  let ro := (SyncI.ro i).toNat
  let c : W32 := if W.full i.w then (SyncI.rv i).setWidth 32 else 1
  match W.op i.w with
  | 1 => s.sendSig t (SyncI.peer s i) ro ((SyncI.rv i).setWidth 32)
  | 3 => let s1 := s.sendSig t none (2 * ro) c
         match SyncI.peer s i with | some m => s1.sendSig t (some m) (2 * ro) c | none => s1
  | 6 => let s1 := s.sendSig t none (2 * ro + 1) c
         match SyncI.peer s i with | some m => s1.sendSig t (some m) (2 * ro + 1) c | none => s1
  | _ => s

/-- Every signal of the tile has been applied or acknowledged. -/
def State.sigsOut (s : State) (t : Nat) : Bool :=
  s.sync.sigs.all (fun g => g.src != some t) && s.sync.remote.all (fun g => g.owner != .tile t)

/-- SYNC_SIGNAL_APPLY (R16, R106): the controller of the home cluster applies the oldest signal on its way to the object. -/
def execSyncSignalApply (obj : BitVec 14) (s : State) : Out :=
  match s.sync.sigs.find? (fun g => g.obj == obj.toNat && !s.homeStopped obj.toNat) with
  | none => .next s
  | some g =>
    let s1 := { s with sync := { s.sync with sigs := s.sync.sigs.erase g } }
    .next (s1.setObj obj.toNat (s1.obj obj.toNat + g.add))

/-! ## Contexts: RECL_EPOCH and signals at reclaim (07 R188, R192) -/

/-- The oldest epoch a pin of context c holds, or EPOCH (R188). -/
def State.oldestPin (s : State) (c : Nat) : W32 :=
  (s.cx.pins.filter (fun p => p.ctx == c)).foldl
    (fun (m : W32) p => if p.epoch.toNat < m.toNat then p.epoch else m) (s.ctx c).epoch

/-- RECL_EPOCH brought up to date; epochs that it reaches free their frames and give their signals (R188, R192). -/
def State.reclaim (s : State) (c : Nat) : State :=
  let x := s.ctx c
  let r := s.oldestPin c
  let due := x.rsig.filter (fun p => p.1.toNat ≤ r.toNat)
  let y : Ctx :=
    { x with recl := r, rel := x.rel.filter (fun p => r.toNat < p.1.toNat), rsig := x.rsig.filter (fun p => r.toNat < p.1.toNat) }
  let s1 := s.setCtx c y
  due.foldl (fun (s : State) p => s.signal { src := none, obj := p.2, add := 1 }) s1

/-- PEND_REL (R188). -/
def State.pendRel (s : State) (c : Nat) : Nat := ((s.ctx c).rel.map (fun p => p.2)).foldl (· + ·) 0

/-- Drop one pin. -/
def State.unpin (s : State) (p : Pin) : State :=
  let s1 : State := { s with cx := { s.cx with pins := s.cx.pins.erase p } }
  s1.reclaim p.ctx

/-- Release the pin a KV_APPEND holds (R195). -/
def State.unpinAppend (s : State) (q : Nat) (seq : W32) : State :=
  match s.cx.pins.find? (fun p => p.holder == .append q seq) with
  | some p => s.unpin p
  | none => s

/-! ## Effects of the instructions that are no waits -/

/-- The effect of a started sync instruction at its completion. -/
def State.syncEffect (s : State) (t : Nat) (i : EInstr) : State :=
  let ro := (SyncI.ro i).toNat
  match W.op i.w with
  | 7 => s.updTile t (fun x => (x.wr (SyncI.rdReg i) s.stb.step).wr (SyncI.rdReg i + 1) (s.phase.setWidth 64))
  | 9 =>
    match (s.tile t).launch with
    | none => s
    | some (q, seq) =>
      let e := (s.ctx ro).epoch
      let pin : Pin := { ctx := ro, epoch := e, holder := .tile t q seq }
      let s1 : State := { s with cx := { s.cx with pins := s.cx.pins ++ [pin] } }
      s1.updTile t (fun x =>
        (x.wr (SyncI.rdReg i) (BitVec.ofNat 64 (s.ctxTable ro + 131072 * (e.toNat % 4)))).wr (SyncI.rdReg i + 1) (e.setWidth 64))
  | 10 =>
    match (s.tilePins t).find? (fun p => p.ctx == ro && p.epoch == (SyncI.rv i).setWidth 32) with
    | some p => s.unpin p
    | none => s
  | _ => s

/-! ## Waits (R107, R109) -/

/-- The wait running in tile t's sync port. -/
def State.waiting (s : State) (t : Nat) : Option EInstr :=
  match (s.tile t).running .sync with
  | i :: _ => if SyncI.isWait i then some i else none
  | [] => none

/-- A wait completes with an outcome: s[RD] written, events signalled, issue goes on (R107). -/
def State.endWait (s : State) (t : Nat) (i : EInstr) (outcome : W64) : State :=
  let x := s.tile t
  let y := (x.setRunning .sync ((x.running .sync).drop 1)).wr (SyncI.rdReg i) outcome
  let (z, ovf) := y.giveSigs i.w
  let s1 := s.setTile t { z with core := if z.core = .syncWait then .run else z.core, yieldAt := none }
  if ovf then s1.progFault t i.pc { cause := .eventOvf } else s1.settle t

/-- The end of the microsecond in which a wait's timeout expires, in reference periods: a condition that comes true up to then
counts as met (R107; DESIGN CHOICE, log 82: microseconds are counted from when power was first applied). -/
def EInstr.expiry (i : EInstr) : Nat := ceilDiv (i.t0 + i.n) usec * usec

/-- When a running wait's condition came true: as its home controller noted it, or now. -/
def State.waitMetAt (s : State) (i : EInstr) : Option Nat :=
  match i.metAt with
  | some m => some m
  | none => if s.syncMet i then some s.now else none

/-- A running wait is met before its timeout expires (R107). -/
def State.metInTime (s : State) (i : EInstr) : Option Nat :=
  match s.waitMetAt i with
  | some m => if m ≤ i.expiry then some m else none
  | none => none

/-- SYNC_WAIT_MET (R107; 10 R249): outcome 0 within the stall bound, 1 after it, by when the condition came true. -/
def execSyncWaitMet (t : BitVec 8) (s : State) : Out :=
  match s.waiting t.toNat with
  | some i =>
    match s.metInTime i with
    | some m => .next (s.endWait t.toNat i (if m - i.t0 ≤ SyncI.bound i then 0 else 1))
    | none => .next s
  | none => .next s

/-- SYNC_WAIT_TIMEOUT (R107; 10 R249): the timeout has passed and the condition had not come true by then. -/
def execSyncWaitTimeout (t : BitVec 8) (s : State) : Out :=
  match s.waiting t.toNat with
  | some i => if (s.metInTime i).isNone && decide (i.n ≤ s.now - i.t0) then .next (s.endWait t.toNat i 2) else .next s
  | none => .next s

/-- A wait has lasted longer than its stall bound: it was neither met nor timed out before, and its bound has not been taken note
of (R107, R109). -/
def EInstr.stalls (now : Nat) (i : EInstr) : Bool :=
  SyncI.isWait i && !i.stalled && decide (SyncI.bound i < now - i.t0) && decide (SyncI.bound i < i.expiry - i.t0) &&
  (match i.metAt with | some m => decide (SyncI.bound i < m - i.t0) | none => true)

/-- A context with its running waits changed. -/
def Tile.mapWaits (x : Tile) (f : EInstr → EInstr) : Tile := x.setRunning .sync ((x.running .sync).map f)

/-- STAGE_STALL is raised for a LAUNCH on tile t (R109): counted and logged. STATUS of the entry is OK (DESIGN CHOICE, log 83). -/
def State.stageStall (s : State) (t : Nat) (x : Tile) : State :=
  match x.launch with
  | some (q, seq) =>
    let s1 := (s.updLaunch q seq (fun l => { l with stageStall := true })).count Cnt.stageStall 1
    s1.notice (Unit.tile (t / 16) (s1.tilePos t)) (BitVec.ofNat 64 (q * 2 ^ 32 + seq.toNat))
  | none => s

/-- SYNC_STALL_BOUND_EXPIRY (R107, R109): a wait of the tile, or of a context of it that is saved, has lasted longer than its
stall bound; a cqacq raises STAGE_STALL once. -/
def execSyncStallBoundExpiry (t : BitVec 8) (s : State) : Out :=
  let n := t.toNat
  let mark (i : EInstr) : EInstr := if i.stalls s.now then { i with stalled := true } else i
  let credit (x : Tile) : Bool := (x.running .sync).any (fun i => i.stalls s.now && W.op i.w == 4)
  let late (x : Tile) : Bool := (x.running .sync).any (fun i => i.stalls s.now)
  let x := s.tile n
  if late x then
    let s1 := s.setTile n (x.mapWaits mark)
    .next (if credit x then s1.stageStall n x else s1)
  else
    match s.tl.saved.find? (fun v => v.tile == n && late v.ctx) with
    | none => .next s
    | some v =>
      let s1 : State := { s with tl := { s.tl with
        saved := s.tl.saved.map (fun u => if u = v then { u with ctx := u.ctx.mapWaits mark } else u) } }
      .next (if credit v.ctx then s1.stageStall n v.ctx else s1)

end Sys2Proof.Machine
end

