-- ==== Sys2Proof/Machine/Tiles.lean ====
section
/-! DEFINITION. Tiles given to a LAUNCH and taken back, context moves (03 R59, R66, R73 to R76, R82; 05 R136; 07 R186;
14 R353). -/
namespace Sys2Proof.Machine

/-! ## Uses of positions (14 R353) -/

/-- The result slot a command names, if RSLOT_EN is set (Table 2.5). -/
def Cmd.slot? (c : Cmd) : Option Nat := if bitsAt c.raw 11 1 = 1 then some (bitsAt c.raw 16 12) else none

/-- Record that a command uses the physical position of logical tile t from now on. -/
def State.openUse (s : State) (l : Launch) (t : Nat) : State :=
  let cmd := s.findCmd l.q l.seq
  let u : Use :=
    { q := l.q, seq := l.seq, cls := l.cls, cluster := t / 16, pos := s.tilePos t, since := s.now, upTo := none,
      runAt := match cmd with | some c => c.runAt | none => s.now,
      slot := (cmd.bind Cmd.slot?).map (fun i => (i, (s.slot i).gen)) }
  { s with flt := { s.flt with uses := s.flt.uses ++ [u] } }

/-- The command's uses that satisfy p end now; uses that ended more than a second ago are forgotten: no suspect interval
is longer (Table 14.1). -/
def State.closeUse (s : State) (q : Nat) (seq : W32) (p : Use → Bool) : State :=
  let us := s.flt.uses.map (fun u => if u.q == q && u.seq == seq && u.upTo.isNone && p u then { u with upTo := some s.now } else u)
  { s with flt := { s.flt with uses := us.filter (fun u =>
      match u.upTo with | none => true | some e => decide (s.now - e ≤ 1000 * msec)) } }

/-! ## Start of a LAUNCH on its tiles -/

/-- A tile with no LAUNCH: scratchpad and accumulators stay as they are (R60). -/
def Tile.freed (x : Tile) : Tile := { spad := x.spad, acc0 := x.acc0, acc1 := x.acc1 }

/-- The tile state at the start of a LAUNCH (Tables 3.1 and 3.6): index i of its set. -/
def State.startTile (s : State) (l : Launch) (t i : Nat) : Tile :=
  let sr : Tab W64 := ([(1, l.args), (2, BitVec.ofNat 64 t), (3, BitVec.ofNat 64 i), (4, BitVec.ofNat 64 l.tiles.length),
    (5, BitVec.ofNat 64 (l.q * 2 ^ 32 + l.seq.toNat)), (6, l.ver), (7, (s.host.ident.getD 0).setWidth 64)]).foldl
      (fun m p => Tab.put 0 m p.1 p.2) []
  { (s.tile t).freed with launch := some (l.q, l.seq), core := .run, pc := BitVec.ofNat 64 (l.prog + l.entry), s := sr,
                          icache := preload l.ilen, blkAt := s.now }

/-- Start the program on every tile of the set (R59, R66, R82). -/
def State.startAll (s : State) (l : Launch) : State :=
  let s1 := l.tiles.zipIdx.foldl (fun s (t, i) => (s.setTile t (s.startTile l t i)).openUse l t) s
  s1.updLaunch l.q l.seq (fun l => { l with started := true })

/-- Tile t is ready for a LAUNCH that awaited it; the last one starts the program (R81). -/
def State.tileReady (s : State) (q : Nat) (seq : W32) (t : Nat) : State :=
  let s1 := s.updLaunch q seq (fun l => { l with awaiting := l.awaiting.filter (· != t) })
  match s1.tl.launches.find? (fun l => l.q == q && l.seq == seq) with
  | some l => if l.awaiting.isEmpty && !l.started then s1.startAll l else s1
  | none => s1

/-! ## Context moves (R75) -/

def State.addMove (s : State) (m : Move) : State := { s with tl := { s.tl with moves := s.tl.moves ++ [m] } }
def State.dropMoves (s : State) (p : Move → Bool) : State :=
  { s with tl := { s.tl with moves := s.tl.moves.filter (fun m => !p m) } }

/-- The LAUNCH that awaits tile t (R81, 10 R248). -/
def State.awaiter (s : State) (t : Nat) : Option Launch := s.tl.launches.find? (fun l => l.awaiting.contains t)

/-- A yield point (R73, 13 R345). -/
def Tile.atYield (x : Tile) : Bool :=
  match x.core with
  | .run => x.atBlk
  | .lockWait => true
  | .syncWait =>
    Eng.all.all (fun e => if e = .sync then decide ((x.queue e).length + (x.running e).length ≤ 1)
                          else (x.queue e).isEmpty && (x.running e).isEmpty)
  | _ => false

/-- The tile runs a program: it holds a context (R76). -/
def Tile.hasContext (x : Tile) : Bool :=
  x.launch.isSome && (match x.core with | .idle => false | .halted => false | _ => true)

/-! ## The end of a LAUNCH -/

/-- Release the pins of the LAUNCH's tiles, each counted (07 R186). -/
def State.releasePins (s : State) (q : Nat) (seq : W32) : State :=
  let ps := s.cx.pins.filter (fun p => match p.holder with | .tile _ a b => a == q && b == seq | _ => false)
  ps.foldl (fun s p => (s.unpin p).count Cnt.pinRelease 1) s

/-- Give the tiles of a LAUNCH back (R76, R84, 05 R136): a saved context returns, a LAUNCH that awaited a tile gets it. -/
def State.freeLaunch (s : State) (q : Nat) (seq : W32) : State :=
  match s.tl.launches.find? (fun l => l.q == q && l.seq == seq) with
  | none => s
  | some l =>
    let mine (o : Option (Nat × W32)) : Bool := o == some (q, seq)
    let s1 := (s.releasePins q seq).closeUse q seq (fun _ => true)
    let s2 : State := { s1 with tl := { s1.tl with
      launches := s1.tl.launches.filter (fun x => !(x.q == q && x.seq == seq)),
      saved := s1.tl.saved.filter (fun v => !mine v.ctx.launch),
      moves := s1.tl.moves.filter (fun m =>
        !(l.tiles.contains m.tile && (match m.kind with
          | .save _ _ => mine (s1.tile m.tile).launch
          | .restore => s1.tl.saved.any (fun v => v.tile == m.tile && mine v.ctx.launch)
          | .toPos _ _ => false))) } }
    l.tiles.foldl
      (fun s t =>
        let own := mine (s.tile t).launch
        let s := if own then s.setTile t (s.tile t).freed else s
        match s.awaiter t with
        | some w => if own then s.tileReady w.q w.seq t else s
        | none =>
          if own && s.tl.saved.any (fun v => v.tile == t) && !s.tl.moves.any (fun m => m.tile == t) then
            s.addMove { tile := t, kind := .restore }
          else s)
      -- a LAUNCH switched aside for this one gets back the tiles that this one did not use (10 R248)
      (match l.aside with
        | none => s2
        | some x =>
          (s2.tl.saved.filter (fun v => v.ctx.launch == some x && !l.tiles.contains v.tile)).foldl
            (fun s v => s.addMove { tile := v.tile, kind := .restore }) s2)

/-! ## Tiles that may be taken (R80, R81; 14 R359, R363) -/

/-- The LAUNCHes that hold tile t: as the tile's own, with a context saved or being moved, or waiting for it. -/
def State.holdsTile (s : State) (t : Nat) : List Launch := s.tl.launches.filter (fun l => l.tiles.contains t)

/-- No third execution runs on tile t (14 R359). -/
def State.noThird (s : State) (t : Nat) : Bool := s.flt.arbs.all (fun a => a.third != .tile t)

/-- Tile t belongs to no LAUNCH: it may be claimed (R80). -/
def State.tileFree (s : State) (t : Nat) : Bool :=
  (s.holdsTile t).isEmpty && s.noThird t && s.tl.saved.all (fun v => v.tile != t) && s.tl.moves.all (fun m => m.tile != t)

/-- No LIVE LAUNCH holds tile t, and its save area is free: a LIVE LAUNCH may take it (R81). -/
def State.tileOpen (s : State) (t : Nat) : Bool :=
  (s.holdsTile t).all (fun l => l.cls != 0) && s.noThird t && s.tl.saved.all (fun v => v.tile != t) &&
  s.tl.moves.all (fun m => m.tile != t || (match m.kind with | .toPos _ _ => true | _ => false))

/-- Tile t has no context, and nothing is to bring one: a third execution may run there (14 R359). -/
def State.tileIdle (s : State) (t : Nat) : Bool :=
  (s.tileFree t ||
    (decide ((s.tile t).core = .halted) && s.noThird t && (s.awaiter t).isNone && s.tl.saved.all (fun v => v.tile != t) &&
      s.tl.moves.all (fun m => m.tile != t))) && !s.tileHeld t

/-- A test window waits for the context of tile t's position: its move is served before any other (14 R363). -/
def State.testWaits (s : State) (t : Nat) : Bool :=
  match (s.cluster (t / 16)).win with
  | some w => !w.cleared && w.pos == s.tilePos t
  | none => false

end Sys2Proof.Machine
end

