-- ==== Sys2Proof/Machine/Manage.lean ====
section
/-! DEFINITION. The fault manager's reactions: suspect work, resumption, margin steps, retirement, loss of capacity, fencing
(14 R351 to R354, R365, R366, R373, R374). -/
namespace Sys2Proof.Machine

/-! ## Resumption (R354) -/

/-- STATE after a resume: a module that takes part in the window is put back in it; one that is off, a spare or expelled stays
what it is (10 R267: expelled until ENABLE is cleared). -/
def resumedState (st to_ : Nat) : Nat := if st = 1 ∨ st = 2 ∨ st = 3 then to_ else st

/-- The module resumes its STEP-class work: after the decision (RESUME 2), with TRN_OPT restored where the optimiser has
touched it, or from the start of the window (RESUME 1), with the gradient buffer zeroed. -/
def State.resume (s : State) (afterDecision : Bool) : State :=
  let s1 := s.count Cnt.resumes 1
  if afterDecision then
    { s1 with trn := { s1.trn with resume := 2, st := resumedState s1.trn.st 2,
                                   restoreBusy := s1.trn.restoreBusy || s1.trn.optTouched } }
  else
    let s2 := if s1.trnOn then s1.zeroWhere (fun l => s1.refHas s1.gradRef s1.wlen l) else s1
    { s2 with trn := { s2.trn with resume := 1, st := resumedState s2.trn.st 1, formed := false, decidedAt := none,
                                   gradOut := false, gradIn := false, winOvf := false, winNan := false, winCheck := false } }

/-! ## Suspect work (R353) -/

/-- Commands of a list of uses, each once. -/
def useCmds (us : List Use) : List Use :=
  us.foldl (fun l u => if l.any (fun v => v.q == u.q && v.seq == u.seq) then l else l ++ [u]) []

/-- Stop the tiles of a LAUNCH and end its command with a status. -/
def State.cutLaunch (s : State) (q : Nat) (seq : W32) (st : W16) : State :=
  let s1 := match s.tl.launches.find? (fun l => l.q == q && l.seq == seq) with
    | some l => s.stopSet l st []
    | none => s
  s1.endCmd q seq st []

/-- A STEP command ends without completion (log 20). -/
def State.dropCmd (s : State) (q : Nat) (seq : W32) : State :=
  let s1 := (s.freeLaunch q seq).updCmd q seq (fun c => { c with phase := .dropped })
  s1.setQueue q (s1.queue q).pop

def cmdDetail (q : Nat) (seq : W32) : W64 := BitVec.ofNat 64 (q * 2 ^ 32 + seq.toNat)

/-- One LIVE or BULK command that used a suspect unit: still running, it completes with the status; completed, its slot
shows the status while it holds that generation. Its own log entry names it. -/
def State.recallOne (s : State) (cls : Nat) (unit : W16) (st : W16) (u : Use) : State :=
  let s1 :=
    if s.isRunning u.q u.seq then s.cutLaunch u.q u.seq st
    else
      match u.slot with
      | some (i, g) =>
        let x := s.slot i
        if x.gen = g ∧ x.st = .ready ∧ x.seq = u.seq then s.setSlot i { x with cstatus := st } else s
      | none => s
  (s1.count Cnt.recalls 1).log cls 6 st unit (s1.host.ident.getD 0) (cmdDetail u.q u.seq)

/-- Treat as suspect the work that used the units in the last `ivl` reference periods (R353): the state and the highest
reaction code. -/
def State.suspect (s : State) (cls : Nat) (unit : W16) (p : Use → Bool) (ivl : Nat) (st : W16) : State × Nat :=
  let hit := useCmds (s.flt.uses.filter (fun u =>
    p u && (match u.upTo with | none => true | some e => decide (s.now - e ≤ ivl))))
  let steps := hit.filter (fun u => u.cls == 1 && (s.isRunning u.q u.seq || decide (s.trn.flipAt ≤ u.runAt)))
  let others := hit.filter (fun u => u.cls != 1)
  let s1 := steps.foldl (fun s u => if s.isRunning u.q u.seq then s.dropCmd u.q u.seq else s) s
  let s2 := if steps.isEmpty then s1
            else s1.resume (match s1.trn.decidedAt with
              | some d => steps.all (fun u => decide (d ≤ u.runAt))
              | none => false)
  let s3 := others.foldl (fun s u => s.recallOne cls unit st u) s2
  (s3, if !others.isEmpty then 6 else if !steps.isEmpty then 5 else 0)

/-- A detection (R352, R353, R379): suspect work, then the log entry with the highest reaction code. An interval that reaches
back before the latest flip is told too, whatever work used the unit. -/
def State.detect (s : State) (cls : Nat) (unit : W16) (p : Use → Bool) (ivl : Nat) (st : W16) (action : Nat) (detail : W64) :
    State :=
  let (s1, a) := s.suspect cls unit p ivl st
  let e := s1.flt.next
  let s2 := s1.log cls (max a action) (if a = 6 then st else Status.ok) unit (s1.host.ident.getD 0) detail
  if s.trn.flipAt > 0 ∧ s.now - s.trn.flipAt < ivl then
    s2.event 0x04 Status.versionSuspect e (BitVec.ofNat 32 (cls % 256 + unit.toNat * 2 ^ 16))
  else s2

/-! ## Fencing and declarations (R373, R374) -/

/-- The module fences itself: every queued or running command completes with MODULE_FENCED. -/
def State.fence (s : State) : State :=
  if s.flt.fenced then s
  else
    let s1 : State := { s with flt := { s.flt with fenced := true } }
    let s2 := s1.tl.launches.foldl (fun s l => s.stopSet l Status.moduleFenced []) s1
    let s3 := s2.liveCmds.foldl (fun s c => (s.unpinAppend c.1 c.2.seq).endCmd c.1 c.2.seq Status.moduleFenced []) s2
    let s4 : State := { s3 with
      sync := { s3.sync with remote := [] },
      fab := { s3.fab with
        acks := [],
        sent := s3.fab.sent.filter (fun f => match f.body with | .ctl (.declare _) => true | .ctl (.declared _) => true | _ => false) } }
    s4.log Cls.module 8 Status.moduleFenced (Unit.iod 0xFF) (s4.host.ident.getD 0) 0

/-- The module declares itself failed (R366, R371, R373) and fences itself. -/
def State.declareSelf (s : State) : State :=
  let me := s.host.ident.getD 0
  let s1 := if s.master = me then s.sendAll s.stb.known (.declared me) else s.sendMsg s.master (.declare me)
  let s2 : State := { s1 with flt := { s1.flt with failed := if s1.flt.failed.contains me then s1.flt.failed else s1.flt.failed ++ [me] } }
  (s2.log Cls.module 7 Status.ok (Unit.iod 0xFF) me 0).fence

/-! ## Retirement (R366) -/

def Cluster.retired (x : Cluster) : Nat := (x.roles.filter (fun r => r == .retired)).length

/-- Position p of cluster c leaves service. A working role with a context moves to its cover at the tile's yield point. -/
def State.retire (s : State) (c p : Nat) : State :=
  let x := s.cluster c
  let unit := Unit.tile c p
  let me := s.host.ident.getD 0
  let done (s : State) : State :=
    let s1 := s.log Cls.capacity 3 Status.ok unit me 0
    { s1 with flt := { s1.flt with marginDue := true } }
  let cover : Option Nat := if x.posOf .spare < 18 then some (x.posOf .spare)
    else if x.posOf .mordant < 18 ∧ x.role p ≠ .mordant then some (x.posOf .mordant) else none
  match x.role p with
  | .retired => s
  | .work i =>
    match cover with
    | none => (done (s.setCluster c (x.setRole p .retired))).declareSelf
    | some k =>
      let lostM := x.role k == .mordant
      let y := { x with noMordant := x.noMordant || lostM }
      let t := 16 * c + i
      if (s.tile t).hasContext then
        done ((s.setCluster c (y.setRole k .reserved)).addMove { tile := t, kind := .toPos k .retired, begun := false })
      else done (s.setCluster c ((y.setRole p .retired).setRole k (.work i)))
  | .mordant =>
    match cover with
    | some k => done (s.setCluster c ((x.setRole p .retired).setRole k .mordant))
    | none => done (s.setCluster c { x.setRole p .retired with noMordant := true })
  | _ => done (s.setCluster c (x.setRole p .retired))

/-! ## Margin steps (R365) -/

/-- Start a relock after a clock change, once no context move runs in the cluster. -/
def State.relock (s : State) (c : Nat) : State :=
  if s.tl.moves.any (fun m => decide (m.tile / 16 = c) && m.begun) then s.updCluster c (fun x => { x with relockDue := true })
  else s.updCluster c (fun x => { x with relockAt := some s.now, relockDue := false })

/-- The power domain of a cluster's tile logic (16 Table 16.3). -/
def tlDomain (c : Nat) : Nat := 28 * (c / 8) + 3 * (c % 8)

/-- The TL domain's setpoint follows VSTEPS; a trim step waits while the domain is outside its limits (16 R420). -/
def State.applyTrim (s : State) (c : Nat) : State :=
  if Tab.get 2 s.pwr.pd (tlDomain c) = 2 then s.updCluster c (fun x => { x with trim := x.vsteps }) else s

/-- The reaction code of a margin step (Table 14.9). -/
def StepKind.reaction : StepKind → Nat
  | .clock => 2
  | .volt => 2
  | .toSpare => 3
  | .toMordant => 3

/-- The next margin step of a position, and which one it was. -/
def State.marginStep (s : State) (c p : Nat) : State × StepKind :=
  let x := s.cluster c
  let lv := x.levels.getD p 0
  let took (s : State) : State :=
    let s1 := (s.count Cnt.marginSteps 1).log Cls.margin 2 Status.ok (Unit.tile c p) (s.host.ident.getD 0) 0
    { s1 with flt := { s1.flt with marginDue := true } }
  let last := if x.posOf .spare < 18 then StepKind.toSpare else .toMordant
  if lv ≥ 2 then (s.retire c p, last)
  else
    let y := { x with levels := x.levels.set p (lv + 1) }
    if lv = 0 ∧ x.fsteps < 4 then (took ((s.setCluster c { y with fsteps := y.fsteps + 1 }).relock c), .clock)
    else if x.vsteps < 3 then (took ((s.setCluster c { y with vsteps := y.vsteps + 1 }).applyTrim c), .volt)
    else (s.retire c p, last)

/-- A step withdrawn under R72 or R368: the level falls by one and its action is undone (R367). A retired position takes the role
of the one that covers it (DEDUCED, log 50). -/
def State.marginBack (s : State) (c p : Nat) (k : StepKind) : State :=
  let x := s.cluster c
  let y := { x with levels := x.levels.set p (x.levels.getD p 0 - 1) }
  let back (r : Role) (z : Cluster) : Cluster := if z.role p = .retired then z.setRole p r else z
  let s1 := match k with
    | .clock => (s.setCluster c { y with fsteps := y.fsteps - 1 }).relock c
    | .volt => (s.setCluster c { y with vsteps := y.vsteps - 1 }).applyTrim c
    | .toSpare => s.setCluster c (back .spare y)
    | .toMordant => s.setCluster c { back .mordant y with noMordant := false }
  { s1 with flt := { s1.flt with marginDue := true } }

/-- A detection against one position that also takes a margin step (R352, R365). -/
def State.detectTile (s : State) (cls c p ivl : Nat) (st : W16) (margin : Bool) (detail : W64) : State :=
  let (s1, a) := if margin then (let (s1, k) := s.marginStep c p; (s1, k.reaction)) else (s, 0)
  s1.detect cls (Unit.tile c p) (fun u => u.cluster == c && u.pos == p) ivl st a detail

/-! ## Check mode in force (R356) -/

def Reg.chkCfg : Nat := 0x40000
/-- Plausibility checking runs in cluster c: by mode, or for want of a Mordant role. -/
def State.plausMode (s : State) : Bool :=
  match fld (s.reg Reg.chkCfg) 0 2 with
  | 1 => false
  | 2 => true
  | _ => fld (s.reg 0x30000) 0 2 == 3
def State.plaus (s : State) (c : Nat) : Bool := s.plausMode || (s.cluster c).noMordant

/-! ## Check units (R357, R358) -/

def State.chkRate (s : State) : Nat := fld (s.reg Reg.chkCfg) 2 2
/-- Two checkers share the cluster's tiles: RATE 1 while the spare is at its post and no third execution has it (R357). -/
def State.twoCheckers (s : State) (c : Nat) : Bool :=
  s.chkRate == 1 && (s.cluster c).roles.contains .spare && s.flt.arbs.all (fun a => a.tile / 16 != c || a.third != .spare)
/-- The position of the checker that visits logical tile i of cluster c in this slot. -/
def State.checker (s : State) (c i : Nat) : Option Nat :=
  let x := s.cluster c
  if s.plaus c || x.posOf .mordant ≥ 18 then none
  else if s.twoCheckers c && decide (i ≥ 8) then (if x.visit % 8 = i - 8 then some (x.posOf .spare) else none)
  else if (if s.twoCheckers c then x.visit % 8 else x.visit) = i then some (x.posOf .mordant) else none

/-- Of how many units of a slot one is checked (R357). -/
def State.chkShare (s : State) : Nat := match s.chkRate with | 2 => 2 | 3 => 4 | _ => 1

end Sys2Proof.Machine
end

