-- ==== Sys2Proof/Machine/Stream.lean ====
section
/-! DEFINITION. Stream class: descriptors and transfers (04 R97 to R104; sacc under 09 R227). -/
namespace Sys2Proof.Machine

/-! ## Descriptors (Table 4.5) -/

def Desc.base (d : BitVec 256) : Nat := fld d 0 64
def Desc.stride (d : BitVec 256) (i : Nat) : Int := sfld d (64 + 28 * i) 28
def Desc.cnt (d : BitVec 256) (i : Nat) : Nat := fld d (148 + 12 * i) 12
def Desc.run (d : BitVec 256) : Nat := fld d 184 11
def Desc.tgt (d : BitVec 256) : Nat := fld d 195 2
def Desc.vault (d : BitVec 256) : Nat := fld d 197 8
def Desc.pfd (d : BitVec 256) : Nat := fld d 205 4
def Desc.pos (d : BitVec 256) : Nat := fld d 209 36
def Desc.valid (d : BitVec 256) : Bool := bit d 245
def Desc.total (d : BitVec 256) : Nat := Desc.cnt d 0 * Desc.cnt d 1 * Desc.cnt d 2

/-- A transfer in a stream queue or running names descriptor i (R99). -/
def Tile.descBusy (x : Tile) (i : Nat) : Bool :=
  (Eng.all.flatMap (fun e => x.queue e ++ x.running e)).any (fun q => W.cls q.w == 2 && fld q.w 0 4 == i)

/-- One descriptor instruction (R99): it stalls while a transfer names the descriptor. -/
def State.descOp (s : State) (t o : Nat) (w : W64) (f : Tile → Option TFault × Tile) : State :=
  s.issue t 2 o w (fun s _ =>
    let x := s.tile t
    if x.descBusy (fld w 0 4) then s
    else match f x with
      | (some e, _) => s.progFault t x.pc e
      | (none, y) => s.setTile t ({ y with pc := x.pc + 8 }.retire w 1 none))

/-- The 32 bytes a dld or dsv addresses: a multiple of 32 (R99, R61). -/
def descAddr (a : W64) : Option TFault :=
  if a.toNat % 32 ≠ 0 then some { cause := .align, addr := a.toNat }
  else if a.toNat + 32 > spadSize then some { cause := .addr, addr := a.toNat }
  else none

/-- dld (R99): load a descriptor from the scratchpad. -/
def execDld (t : BitVec 8) (w : W64) (s : State) : Out :=
  .next (s.descOp t.toNat 1 w (fun x =>
    let a := x.rd (fld w 4 6)
    (descAddr a, x.setDesc (fld w 0 4) (BitVec.ofNat 256 (x.spadNat a.toNat 32)))))

/-- dsv (R99): store a descriptor to the scratchpad. -/
def execDsv (t : BitVec 8) (w : W64) (s : State) : Out :=
  .next (s.descOp t.toNat 2 w (fun x =>
    let a := x.rd (fld w 4 6)
    (descAddr a, x.setSpad a.toNat (toBytesLE 32 (x.desc (fld w 0 4)).toNat))))

/-- dwr (R99): 64-bit word W of a descriptor := s[RA]. -/
def execDwr (t : BitVec 8) (w : W64) (s : State) : Out :=
  .next (s.descOp t.toNat 3 w (fun x =>
    (none, x.setDesc (fld w 0 4) (setFld (x.desc (fld w 0 4)) (64 * fld w 4 2) 64 (x.rd (fld w 6 6)).toNat))))

/-- drd (R99): s[RD] := 64-bit word W of a descriptor. -/
def execDrd (t : BitVec 8) (w : W64) (s : State) : Out :=
  .next (s.descOp t.toNat 4 w (fun x =>
    (none, x.wr (fld w 6 6) (BitVec.ofNat 64 (fld (x.desc (fld w 0 4)) (64 * fld w 4 2) 64)))))

/-! ## Transfers: issue (R100, R101) -/

/-- n of a transfer: CNT1 in the Plain form, s[RN][31:0] in the Full form. -/
def xferN (x : Tile) (w : W64) : Nat :=
  if W.full w then fld (x.rd (fld w 10 6)) 0 32 else Desc.cnt (x.desc (fld w 0 4)) 0

/-- Issue of a transfer: runs POS to POS + n − 1 are assigned and POS advances (R101). A Full sst or sacc whose STREAM is 2 or 3
names no write stream, whose queue could hold it to its start: it is at fault at its issue (DESIGN CHOICE, log 85). -/
def State.issueXfer (s : State) (t o : Nat) (w : W64) (eng : Eng) : State :=
  s.issue t 2 o w (fun s _ =>
    let x := s.tile t
    let d := x.desc (fld w 0 4)
    let total := Desc.total d
    if W.full w ∧ o ≠ 0x10 ∧ fld w 22 2 > 1 then s.progFault t x.pc { cause := .operand }
    else if (x.queue eng).length ≥ Eng.depth eng then s
    else if Desc.pos d ≥ total then s.progFault t x.pc { cause := .operand }
    else
      let n := xferN x w
      let i : EInstr := { w := w, pc := x.pc, sr := x.s, run0 := Desc.pos d, n := n }
      let y := x.setDesc (fld w 0 4) (setFld d 209 36 ((Desc.pos d + n) % total))
      s.setTile t (({ y with pc := x.pc + 8 }.setQueue eng (x.queue eng ++ [i])).retire w 1 none))

/-- The read stream of an sld and the write stream of an sst or sacc (Table 4.8). -/
def rdStream (w : W64) : Eng := .rd (BitVec.ofNat 2 (if W.full w then fld w 22 2 else fld w 0 4))
def wrStream (w : W64) : Eng := .wr (BitVec.ofNat 1 (if W.full w then fld w 22 2 else fld w 0 4))

/-- sld (R100, R101): memory to scratchpad. -/
def execSld (t : BitVec 8) (w : W64) (s : State) : Out := .next (s.issueXfer t.toNat 0x10 w (rdStream w))
/-- sst (R100, R101): scratchpad to memory. -/
def execSst (t : BitVec 8) (w : W64) (s : State) : Out := .next (s.issueXfer t.toNat 0x11 w (wrStream w))
/-- sacc (R100, R101, 09 R227): scratchpad to memory-side arithmetic. -/
def execSacc (t : BitVec 8) (w : W64) (s : State) : Out := .next (s.issueXfer t.toNat 0x12 w (wrStream w))

/-! ## Transfers: start (R102) -/

/-- The memory-side control word of a sacc (R227, Table 9.4). -/
def saccCtl (i : EInstr) : W64 := if W.full i.w then i.reg 16 else 0x20

/-- Fields of a control word that are invalid or reserved and nonzero (Table 9.4). -/
def saccCtlOk (c : W64) : Bool :=
  fld c 0 2 != 3 && fld c 62 2 == 0 && !(fld c 0 2 == 2 && bit c 4) && (fld c 0 2 == 1 || fld c 22 16 == 0) &&
  (bit c 4 || fld c 38 24 == 0)

/-- Pitch of a transfer: 0 for packed. -/
def xferPitch (i : EInstr) : Nat := if W.full i.w then fld (i.reg 10) 32 32 else 0

/-- Bytes of scratchpad a transfer covers. -/
def xferFootprint (d : BitVec 256) (i : EInstr) : Nat :=
  let p := xferPitch i
  if p = 0 then 64 * Desc.run d * i.n else p * (i.n - 1) + 64 * Desc.run d

/-- The checks when a transfer starts (R102): descriptor fields, n, pitch, control word, footprint. -/
def xferCheck (s : State) (x : Tile) (i : EInstr) : Option TFault :=
  let d := x.desc (fld i.w 0 4)
  let tgt := Desc.tgt d
  let p := xferPitch i
  let fieldsOk :=
    Desc.valid d && fld d 246 10 == 0 && (List.range 3).all (fun k => Desc.cnt d k != 0) &&
    decide (1 ≤ Desc.run d ∧ Desc.run d ≤ 1024) && decide (Desc.pfd d ≤ 9) && (tgt == 1 || Desc.vault d == 0) &&
    (if tgt == 3 then Desc.base d / 2 ^ 32 % 64 == 0 else Desc.base d % 64 == 0) &&
    (tgt == 0 || (if s.dpm then tgt == 3 else tgt != 3))
  firstFault
    [ need fieldsOk,
      need (decide (1 ≤ i.n ∧ i.n ≤ Desc.total d)),
      need (p == 0 || (p % 64 == 0 && decide (64 * Desc.run d ≤ p))),
      need (W.op i.w != 0x12 || saccCtlOk (saccCtl i)),
      spadCheck (i.reg 4).toNat (xferFootprint d i) ]

/-! ## Transfers: runs (R98) -/

/-- loc of run r (R98). -/
def runLoc (d : BitVec 256) (r : Nat) : Int :=
  let c1 := Desc.cnt d 0
  let c2 := Desc.cnt d 1
  (if Desc.tgt d = 3 then (Desc.base d / 2 ^ 32 : Nat) else (Desc.base d : Nat)) +
    64 * ((r % c1 : Nat) * Desc.stride d 0 + (r / c1 % c2 : Nat) * Desc.stride d 1 + (r / (c1 * c2) : Nat) * Desc.stride d 2)

/-- The memory a run covers, or the ADDR fault of R98. -/
def State.runRef (s : State) (t : Nat) (d : BitVec 256) (r : Nat) : Except TFault Ref :=
  let l := runLoc d r
  let len := 64 * Desc.run d
  let bad : Except TFault Ref := .error { cause := .addr, addr := (BitVec.ofInt 64 l).toNat }
  if l < 0 then bad
  else
    let a := l.toNat
    match Desc.tgt d with
    | 0 => if inOneTier a len then .ok (.addr a) else bad
    | 3 => if s.handleOk (s.tile t).launch (.hnd (Desc.base d % 2 ^ 32) a) && s.refFits (.hnd (Desc.base d % 2 ^ 32) a) len then .ok (.hnd (Desc.base d % 2 ^ 32) a) else bad
    | g => if a + len ≤ 2 ^ 31 then .ok (.loc (vaultLoc (if g = 1 then Desc.vault d else t) a)) else bad

/-- The scratchpad offset of run k of a transfer. -/
def xferSpad (d : BitVec 256) (i : EInstr) (k : Nat) : Nat :=
  (i.reg 4).toNat + (if xferPitch i = 0 then 64 * Desc.run d * k else xferPitch i * k)

/-- A write transfer reaches storage still in use, or any transfer storage that has stopped: it waits at its start (10 R247,
14 R371). -/
def State.xferHeld (s : State) (t : Nat) (i : EInstr) : Bool :=
  let d := (s.tile t).desc (fld i.w 0 4)
  let hits (p : Nat → Bool) : Bool :=
    (List.range i.n).any (fun k =>
      match s.runRef t d ((i.run0 + k) % Desc.total d) with
      | .ok r => s.refAny r (64 * Desc.run d) p
      | .error _ => false)
  (s.memStopped && (s.domBad (28 * (t / 128) + 24) || hits s.locStopped)) || (W.op i.w != 0x10 && s.trnOn && hits s.heldWrite)

/-- Move one run of an sld: a fault leaves what landed before. -/
def State.sldRun (s : State) (t : Nat) (i : EInstr) (k : Nat) : State × Option TFault :=
  let x := s.tile t
  let d := x.desc (fld i.w 0 4)
  let len := 64 * Desc.run d
  match s.runRef t d ((i.run0 + k) % Desc.total d) with
  | .error f => (s, some f)
  | .ok r =>
    if s.refAny r len s.denyRead then (s, some { cause := .addr, addr := (runLoc d ((i.run0 + k) % Desc.total d)).toNat })
    else
      let (bs, s1, bad) := s.readRef r len
      let s2 := s1.updTile t (fun x => x.setSpad (xferSpad d i k) bs)
      match bad with
      | none => (s2, none)
      | some a => (s2, some { cause := .mem, addr := a })

/-- Move one run of an sst. -/
def State.sstRun (s : State) (t : Nat) (i : EInstr) (k : Nat) : State × Option TFault :=
  let x := s.tile t
  let d := x.desc (fld i.w 0 4)
  let len := 64 * Desc.run d
  match s.runRef t d ((i.run0 + k) % Desc.total d) with
  | .error f => (s, some f)
  | .ok r =>
    if s.refAny r len s.denyWrite then (s, some { cause := .addr, addr := (runLoc d ((i.run0 + k) % Desc.total d)).toNat })
    else (((s.writeRef r (x.spadBytes (xferSpad d i k) len)).1).markOpt r len, none)

/-- The contributions of one run of a sacc set out for their vaults: near tier only (R227). -/
def State.saccRun (s : State) (t : Nat) (i : EInstr) (k : Nat) : State × Option TFault :=
  let x := s.tile t
  let d := x.desc (fld i.w 0 4)
  let len := 64 * Desc.run d
  match s.runRef t d ((i.run0 + k) % Desc.total d), s.launchOf t with
  | .error f, _ => (s, some f)
  | .ok _, none => (s, none)
  | .ok r, some l =>
    if s.refAny r len (fun a => s.denyWrite a || !locNear a) then
      (s, some { cause := .addr, addr := (runLoc d ((i.run0 + k) % Desc.total d)).toNat })
    else
      let cs := (List.range (Desc.run d)).filterMap (fun g =>
        (s.refLoc (r.add (64 * g))).map (fun loc =>
          { src := .tile t l.q l.seq i.pc, gran := loc / 64, ctl := saccCtl i,
            data := x.spadBytes (xferSpad d i k + 64 * g) 64, ver := l.ver, step := l.cls == 1 : Contrib }))
      (({ s with mem := { s.mem with fly := s.mem.fly ++ cs } } : State).markOpt r len, none)

/-- Runs k, k + 1, … of a transfer until one faults. -/
def State.runs (step : State → Nat → State × Option TFault) : Nat → State → Nat → State × Option TFault
  | 0, s, _ => (s, none)
  | n + 1, s, k =>
    match step s k with
    | (s1, some f) => (s1, some f)
    | (s1, none) => State.runs step n s1 (k + 1)

/-- The contributions of a sacc that have not reached their vaults. -/
def State.saccFlying (s : State) (t : Nat) (pc : W64) : Bool :=
  s.mem.fly.any (fun c => match c.src with | .tile u _ _ p => u == t && p == pc | .fabric => false)

end Sys2Proof.Machine
end

