-- ==== Sys2Proof/Machine/Engine.lean ====
section
/-! DEFINITION. Engine instructions: start with its checks and interlocks, and the effect at completion
(03 R64, R69; 04 R102, R103; 05 R113 to R116, R125, R129). -/
namespace Sys2Proof.Machine

/-- The halves an instruction writes and the halves it reads (R116, Table 8.8). -/
def halvesWritten (i : EInstr) : List Nat :=
  match W.cls i.w with
  | 4 => if W.op i.w = 7 ∨ W.op i.w = 9 then [0, 1] else if W.op i.w = 8 then [] else [fld i.w 0 1]
  | _ => []

def halvesRead (i : EInstr) : List Nat :=
  match W.cls i.w with
  | 4 => if W.op i.w = 8 then [0, 1] else []
  | 5 => if W.op i.w = 0x12 then [0, 1] else if W.op i.w = 0x10 ∨ W.op i.w = 0x11 then [vHalf i] else []
  | 6 => if W.op i.w = 0x10 then [mdrHalf i] else []
  | 7 => if W.op i.w = 1 then [fld i.w 0 1] else []
  | _ => []

def Tile.allRunning (x : Tile) : List EInstr := Eng.all.flatMap (fun e => x.running e)

/-- A running instruction writes a half that this one reads or writes (R64). -/
def accConflict (x : Tile) (i : EInstr) : Bool :=
  let touched := halvesWritten i ++ halvesRead i
  x.allRunning.any (fun j => (halvesWritten j).any (fun h => touched.contains h))

/-- The mask register an instruction reads, and the one it writes (R128, R129). -/
def maskRead (i : EInstr) : Nat := if W.cls i.w = 5 ∧ W.op i.w < 0x18 ∧ W.op i.w ≠ 9 ∧ W.op i.w ≠ 0x0A then vMk i else 0
def maskWritten (i : EInstr) : Nat := if W.cls i.w = 5 ∧ (W.op i.w = 9 ∨ W.op i.w = 0x0A) then fld i.w 0 3 else 0

def isAtt (i : EInstr) : Bool := W.cls i.w == 4 && W.op i.w == 7
def isMdr (i : EInstr) : Bool := W.cls i.w == 6

/-- A start that has to wait although its events allow it: one transfer per stream and one sync instruction at a time
(R103, R105), the Madder and mm.att (R125), the mask interlock (R129), a table still being loaded (R136). -/
def startWaits (x : Tile) (e : Eng) (i : EInstr) : Bool :=
  (match e with
    | .rd _ => !(x.running e).isEmpty
    | .wr _ => !(x.running e).isEmpty
    | .sync => !(x.running e).isEmpty
    | _ => false) ||
  (isAtt i && x.allRunning.any isMdr) || (isMdr i && x.allRunning.any isAtt) ||
  (maskRead i != 0 && x.allRunning.any (fun j => maskWritten j == maskRead i)) ||
  (isMdr i && W.op i.w == 9 && x.allRunning.any (fun j => isMdr j && W.op j.w == 0x20))

/-- The checks made when an instruction starts (R88, R102, R105, R114). -/
def startCheck (s : State) (t : Nat) (x : Tile) (i : EInstr) : Option TFault :=
  if dupEvents i.w then some { cause := .operand }
  else if accConflict x i then some { cause := .accConflict }
  else
    match W.cls i.w with
    | 2 => xferCheck s x i
    | 3 => syncCheck s t i
    | 4 => if W.op i.w ≤ 6 then mmCheck i else if W.op i.w = 7 then attCheck i else parkCheck s x i
    | 6 => mdrCheck x i
    | _ => vCheck i

/-- What an instruction takes at its start: a wait its time and timeout (R107), a vstk the summary (R130), a second
statistics record its BASE (R172). -/
def startCapture (s : State) (x : Tile) (i : EInstr) : EInstr :=
  if W.cls i.w = 3 then { i with t0 := s.now, n := SyncI.timeout s i }
  else if W.cls i.w = 5 ∧ W.op i.w = 0x1F then { i with n := x.vsticky.toNat }
  else if W.cls i.w = 5 ∧ W.op i.w = 0x12 ∧ secondRecord i then
    { i with n := x.spadNat ((i.reg 6).toNat - 256 + 128) 2 }
  else i

/-! ## Check units (14 R357, R358) -/

/-- An engine instruction of tile t begins a unit: a matrix instruction with ACCUM 0, or a vector or Madder instruction that reads
no half but those its checker has computed in this slot (R358). -/
def State.unitStart (s : State) (t : Nat) (i : EInstr) : Bool :=
  let known := (halvesRead i).all (fun h => (s.cluster (t / 16)).halves.contains (t, h))
  match W.cls i.w with
  | 4 => if W.op i.w = 7 then !bit (i.reg 19) 53 else decide (W.op i.w < 7) && !(W.full i.w && bit (i.reg 19) 8)
  | 5 => known
  | 6 => known
  | _ => false

/-- The halves that the checker of tile t has computed once an instruction has started: those a checked unit writes are added, those
of a unit it leaves out, or of an unpark, are its own no more. -/
def halvesAfter (l : List (Nat × Nat)) (t : Nat) (i : EInstr) (starts checked : Bool) : List (Nat × Nat) :=
  let w := (halvesWritten i).map (fun h => (t, h))
  let kept := l.filter (fun h => !w.contains h)
  if starts && checked then kept ++ w else if starts || W.op i.w == 9 then kept else l

/-- A unit that starts on the visited tile is checked, in the share of RATE from the slot's first on (DESIGN CHOICE, log 33). -/
def State.checkUnit (s : State) (t : Nat) (i : EInstr) : State :=
  match s.checker (t / 16) (t % 16), (s.tile t).launch with
  | some p, some (q, seq) =>
    let starts := s.unitStart t i
    s.updCluster (t / 16) (fun x =>
      let checked := x.units % s.chkShare == 0
      { x with
        units := x.units + b2n starts,
        halves := halvesAfter x.halves t i starts checked,
        checks := if starts && checked then x.checks ++ [{ tile := t, pos := s.tilePos t, checkerPos := p, q := q, seq := seq }]
                  else x.checks })
  | _, _ => s

/-- ENGINE_INSTR_START (R69): the head of an engine's queue starts once its events allow it. -/
def execEngineInstrStart (t : BitVec 8) (e : Eng) (s : State) : Out :=
  let n := t.toNat
  let x := s.tile n
  match x.queue e with
  | [] => .next s
  | i :: rest =>
    if s.tileHeld n ∨ x.core.isStop = true ∨ x.core = .flowFault ∨ !x.waitsMet i.w ∨ startWaits x e i then .next s
    else
      match startCheck s n x i with
      | some f => .next (s.progFault n i.pc f)
      | none =>
        if W.cls i.w = 2 ∧ s.xferHeld n i = true then .next s
        else
        let j := startCapture s x i
        let y := ((x.takeWaits i.w).setQueue e rest).setRunning e (x.running e ++ [j])
        let y := if W.cls i.w = 5 ∧ W.op i.w = 0x1F ∧ bit i.w 6 then { y with vsticky := 0 } else y
        let s1 := s.setTile n y
        if W.cls i.w = 3 then .next (s1.startSig n j)
        else if W.cls i.w = 2 ∧ W.op i.w = 0x12 then
          match State.runs (fun s k => s.saccRun n j k) j.n s1 0 with
          | (s2, none) => .next s2
          | (s2, some f) =>
            .next ((s2.updTile n (fun x => x.setRunning e ((x.running e).erase j))).progFault n i.pc f)
        else .next (s1.checkUnit n j)

/-! ## Effects at completion -/

/-- Policy, seed and bound version for the results of tile t (R146, R151). -/
def State.vEnv (s : State) (t : Nat) : VEnv :=
  { sat := s.satPolicy, seed := s.jobSeed, ver := match s.launchOf t with | some l => l.ver | none => 0 }

/-- An arithmetic instruction that cannot fault at its effect. -/
def arithEffect (s : State) (t : Nat) (x : Tile) (i : EInstr) : Option EngRes :=
  match W.cls i.w with
  | 4 => if W.op i.w ≤ 6 then some (runMm x i) else if W.op i.w = 7 then some (runAtt x s.subtractPass i) else none
  | 5 => some (runVec x (s.vEnv t) i)
  | 6 =>
    if W.op i.w = 0x20 then none
    else if W.op i.w = 0x10 then some (runPexp x (fun k => (Config.freeValue (s.drawn + k)).toNat) i)
    else some (runMdrFn x s.satPolicy i)
  | 7 => if W.op i.w = 1 then some (runVec x (s.vEnv t) i) else none
  | _ => none

/-- The effect of the first running instruction of an engine, and a fault it meets. -/
def State.engEffect (s : State) (t : Nat) (i : EInstr) : State × Option EngRes × Option TFault :=
  let x := s.tile t
  match arithEffect s t x i with
  | some r =>
    let s1 := s.setTile t (r.x.addFlags r.fl)
    let s2 := if isMdr i ∧ W.op i.w = 0x10 then { s1 with drawn := s1.drawn + 8192 } else s1
    (s2.countSat r.tensor r.fl.sat, some r, none)
  | none =>
    match W.cls i.w with
    | 2 =>
      if W.op i.w = 0x10 then let (s1, f) := State.runs (fun s k => s.sldRun t i k) i.n s 0; (s1, none, f)
      else if W.op i.w = 0x11 then let (s1, f) := State.runs (fun s k => s.sstRun t i k) i.n s 0; (s1, none, f)
      else (s, none, none)
    | 3 => (s.syncEffect t i, none, none)
    | 4 =>
      if W.op i.w = 8 then (s.runPark t i, none, none)
      else let (s1, f) := s.runUnpark t i; (s1, none, f)
    | 6 => let (y, f) := runTld x i; (s.setTile t y, none, f)
    | _ =>
      -- drbs: refusals since the last count are timing the spec does not fix (log 3)
      let (v, s1) := s.draw
      let total := x.bank + v
      (s1.setTile t { x.wr (fld i.w 13 6) total with bank := if W.full i.w then 0 else total }, none, none)

/-- Whether the first running instruction may complete: a sync wait has events of its own, a sacc waits for its vaults, a
signal for its home or peer (R103, R106, R111). -/
def State.mayComplete (s : State) (t : Nat) (i : EInstr) : Bool :=
  match W.cls i.w with
  | 2 => W.op i.w != 0x12 || !s.saccFlying t i.pc
  | 3 => !SyncI.isWait i && s.sigsOut t
  | _ => true

end Sys2Proof.Machine
end

