-- ==== Sys2Proof/Machine/Ecc.lean ====
section
/-! DEFINITION. What the error code finds in memory and what follows: spare rows, remapping of vaults, the residue check of the vault
adders, uncorrectable data (09 R222 to R226, R235). -/
namespace Sys2Proof.Machine

/-! ## Spare rows and remapping (R223, R224) -/

def day : Nat := 24 * 3600 * 1000 * msec

/-- The row of its vault a location lies in: vault offset o[30:11], which is row o[30:16] and bank o[15:11]. -/
def rowOf (loc : Nat) : Nat := loc % 2 ^ 31 / 2048

/-- The physical vault at position p of cluster c. -/
def State.physVault (s : State) (c p : Nat) : PhysVault := Tab.get {} s.mem.pv (18 * c + p)
def State.setPhys (s : State) (c p : Nat) (x : PhysVault) : State :=
  { s with mem := { s.mem with pv := Tab.put {} s.mem.pv (18 * c + p) x } }
/-- The physical vault that logical vault v lies in. -/
def State.vaultPhys (s : State) (v : Nat) : PhysVault := s.physVault (v / 16) (s.vaultPos v)

/-- The reserve vault of cluster c is taken by logical vault 1 + v mod 16, or 17 for the system vault; a change to be recorded. -/
def State.takeReserve (s : State) (c k : Nat) : State :=
  { s with mem := { s.mem with reserve := Tab.put 0 s.mem.reserve c k }, flt := { s.flt with repairDue := true } }

/-- Remap logical vault v to the cluster's reserve vault, by copying; a second vault of the cluster is a loss of capacity. -/
def State.remapVault (s : State) (v : Nat) : State :=
  let x := s.vaultSt v
  if x.remap = 1 then s
  else if Tab.get 0 s.mem.reserve (v / 16) ≠ 0 then s.declareSelf
  else (s.setVault v { x with remap := 1 }).takeReserve (v / 16) (1 + v % 16)

/-- The reserve vault replaces the system vault of cluster c, by copying. -/
def State.remapSys (s : State) (c : Nat) : State :=
  if Tab.get 0 s.mem.sysRemap c = 1 then s
  else if Tab.get 0 s.mem.reserve c ≠ 0 then s.declareSelf
  else ({ s with mem := { s.mem with sysRemap := Tab.put 0 s.mem.sysRemap c 1 } } : State).takeReserve c 17

/-- The vault at position p of cluster c is to be given up: the logical vault or the system vault that it carries moves. -/
def State.remapAt (s : State) (c p : Nat) : State :=
  if (s.memPos (272 + c)) = some (c, p) then s.remapSys c
  else
    match (List.range 16).find? (fun i => s.vaultPos (16 * c + i) == p) with
    | some i => s.remapVault (16 * c + i)
    | none => s

/-- Accesses to logical vault v go to the reserve vault, at position 16. -/
def State.vaultMoved (s : State) (v remap : Nat) : State :=
  let s1 := s.setVault v { s.vaultSt v with remap := remap, phys := some 16, adderBad := false }
  let s2 : State := { s1 with flt := { s1.flt with repairDue := true } }
  s2.log Cls.memory 4 Status.ok (s2.vaultUnit v) (s2.host.ident.getD 0) 0

/-- Accesses to the system vault of cluster c go to the reserve vault. -/
def State.sysMoved (s : State) (c : Nat) : State :=
  let s1 : State := { s with mem := { s.mem with sysRemap := Tab.put 0 s.mem.sysRemap c 2 }, flt := { s.flt with repairDue := true } }
  s1.log Cls.memory 4 Status.ok (Unit.vault c 16) (s1.host.ident.getD 0) 0

/-- Retire a row of the vault at position p of cluster c to one of its 256 spare rows; 224 in use make the vault go to the reserve
(R223, R224). -/
def State.retireRow (s : State) (c p row : Nat) : State :=
  let x := s.physVault c p
  if x.rows.contains row ∨ x.rows.length ≥ 256 then s
  else
    let y : PhysVault :=
      { rows := x.rows ++ [row], corr := x.corr.map (fun e => if e.2.map (fun g => rowOf (64 * g)) = some row then (e.1, none) else e) }
    let s1 := (s.setPhys c p y).count Cnt.rowRetire 1
    let s2 : State := { s1 with flt := { s1.flt with repairDue := true } }
    if y.rows.length ≥ 224 then s2.remapAt c p else s2

/-- A granule was read with one erroneous byte, which the code corrected (R222, R223). -/
def State.corrected (s : State) (g : Nat) : State :=
  let loc := 64 * g
  match s.memPos (locVault loc) with
  | some (c, p) =>
    let s1 := s.count Cnt.nearCorr 1
    let x := s1.physVault c p
    let recent := (x.corr ++ [(s1.now, some g)]).filter (fun e => decide (s1.now - e.1 < day))
    let s2 := s1.setPhys c p { x with corr := recent }
    let inRow := recent.filterMap (fun e => if e.2.map (fun h => rowOf (64 * h)) = some (rowOf loc) then e.2 else none)
    if inRow.any (fun h => h != g) || decide ((inRow.filter (fun h => h == g)).length ≥ 3) then
      (s2.retireRow c p (rowOf loc)).notice (Unit.vault c p) (BitVec.ofNat 64 (s2.locAddr loc))
    else s2
  | none => if loc < outerBase then s else s.count Cnt.outerCorr 1

/-- A granule counts as uncorrectable until all 64 bytes of it are written (R226). -/
def State.markUe (s : State) (g : Nat) : State := { s with mem := { s.mem with ue := addUe s.mem.ue g } }

/-- A granule is found uncorrectable: its row is retired as it stands (R223, R226). -/
def State.foundUe (s : State) (g : Nat) : State :=
  if s.mem.ue.contains g then s
  else
    match s.memPos (locVault (64 * g)) with
    | some (c, p) => (s.markUe g).retireRow c p (rowOf (64 * g))
    | none => s.markUe g

/-- Residue mismatches of one operation of the adder of the vault that holds granule g (R235): the first is retried, the second
moves the work to the system vault's controller and schedules the vault for remapping, a third makes the granule uncorrectable. -/
def State.adderMiss (s : State) (g n : Nat) : State :=
  let v := locVault (64 * g)
  let s1 := (s.count Cnt.residue n).logMem Cls.adder 1 (64 * g)
  if n ≥ 2 then
    let x := s1.vaultSt v
    let s2 := (s1.setVault v { x with adderBad := true }).logMem Cls.adder 4 (64 * g)
    let s3 := if x.adderBad then s2 else s2.remapVault v
    if n ≥ 3 then (s3.logMem Cls.adder 0 (64 * g)).markUe g else s3
  else s1

/-- What the checks found while memory was read and memory-side operations were applied. -/
def State.found (s : State) (f : MemFind) : State :=
  (f.res.filter (fun r => locNear (64 * r.1) && r.2 != 0)).foldl (fun s r => s.adderMiss r.1 r.2.toNat)
    (f.ue.foldl State.foundUe (f.corr.foldl State.corrected s))

/-- Steps 3 and 4 of R225 on a granule that no copy repairs: storage of the training job goes to the step protocol. -/
def State.unmasked (s : State) (loc : Nat) : State :=
  if s.inTrn loc then
    let s1 := (s.logMem Cls.memory 5 loc).resume s.trn.decidedAt.isSome
    if s.inOpt loc then { s1 with trn := { s1.trn with restoreBusy := true } } else s1
  else s.logMem Cls.memory 0 loc

/-- The same at a reference. -/
def State.unmaskedAt (s : State) (r : Ref) : State := match s.refLoc r with | some l => s.unmasked l | none => s

/-- Steps 1 to 4 of R225 on a list of granules that something other than a reference reads: false where one stays uncorrectable. -/
def State.readGranules (s : State) : List Nat → State × Bool
  | [] => (s, true)
  | l :: ls =>
    match s.repairGranule (l / 64) with
    | (s1, true) => State.readGranules s1 ls
    | (s1, false) => (s1.unmasked l, false)

/-! ## Contributions that meet unusable data -/

/-- A memory-side operation meets a granule it cannot use: the tile that sent it faults, or the module resumes. -/
def State.contribLost (s : State) (c : Contrib) : State :=
  let s1 := s.unmasked (64 * c.gran)
  match c.src with
  | .tile t q seq pc =>
    if (s1.tile t).launch == some (q, seq) then
      if c.step && s.inTrn (64 * c.gran) then s1.dropCmd q seq
      else s1.progFault t pc { cause := .mem, addr := s1.locAddr (64 * c.gran) }
    else s1
  | .fabric => s1

/-! ## Vaults that fail at once (R224) -/

/-- Every granule of logical vault v counts as uncorrectable. -/
def State.vaultUe (s : State) (v : Nat) : State :=
  let gs := (List.range 33554432).map (· + v * 33554432)
  { s with mem := { s.mem with ue := s.mem.ue.filter (fun g => g / 33554432 != v) ++ gs } }

/-- Logical vault v cannot be read any more: remapped at once with no copy. One already being copied is given up too (DESIGN CHOICE,
log 88). -/
def State.vaultGone (s : State) (v : Nat) : State :=
  let x := s.vaultSt v
  if x.remap ≠ 1 ∧ Tab.get 0 s.mem.reserve (v / 16) ≠ 0 then s.declareSelf
  else (((s.takeReserve (v / 16) (1 + v % 16)).vaultMoved v 3).vaultUe v)

/-- The system vault of cluster c cannot be read any more: what it held is lost. A contribution held for one of the cluster's vaults is
treated as one that meets an uncorrectable granule, a LAUNCH with a saved context there ends with cause MEM (DESIGN CHOICE, log
88). -/
def State.sysGone (s : State) (c : Nat) : State :=
  if Tab.get 0 s.mem.sysRemap c ≠ 1 ∧ Tab.get 0 s.mem.reserve c ≠ 0 then s.declareSelf
  else
    let s1 := (s.takeReserve c 17).sysMoved c
    let mine (h : Contrib) : Bool := locVault (64 * h.gran) / 16 == c
    let s2 := (s1.mem.held.filter mine).foldl State.contribLost { s1 with mem := { s1.mem with held := s1.mem.held.filter (fun h => !mine h) } }
    (s2.tl.saved.filter (fun v => v.tile / 16 == c)).foldl
      (fun s v =>
        match s.tl.launches.find? (fun l => v.ctx.launch == some (l.q, l.seq)) with
        | some l => s.stopSet l Status.memUncorrectable
            (faultRecord (v.ctx.pc - BitVec.ofNat 64 l.prog).toNat .mem v.tile v.ctx.block 0)
        | none => s) s2

/-- VAULT_REMAP_COPY_DONE (R224), with the start of a remap that 95_what_each_step_holds.md puts inside it: of logical vault v, or
of the system vault of cluster v − 272; `what` is 0 where the copy ends, 1 where the bond path fails, 2 where the vault cannot be
read any more. -/
def execVaultRemapCopyDone (v : BitVec 9) (what : BitVec 2) (s : State) : Out :=
  let n := v.toNat
  let sys := decide (272 ≤ n ∧ n < 288)
  if n ≥ 256 ∧ sys = false then .next s
  else
    match what with
    | 0 =>
      if sys then .next (if Tab.get 0 s.mem.sysRemap (n - 272) = 1 then s.sysMoved (n - 272) else s)
      else .next (if (s.vaultSt n).remap = 1 then s.vaultMoved n 2 else s)
    | 1 => .next (if sys then s.remapSys (n - 272) else s.remapVault n)
    | 2 => .next (if sys then s.sysGone (n - 272) else s.vaultGone n)
    | _ => .next s

/-- The highest granule of the outer tier. -/
def lastGranule : Nat := outerEnd / 64 - 1

/-- PATROL_SCRUB_VISIT (14 R370): the scrub reads granule g, of either tier or of a reserve or system vault, and finds it good (0),
corrected (1) or uncorrectable. The highest granule ends a pass (DESIGN CHOICE, log 94). -/
def execPatrolScrubVisit (g : Nat) (res : BitVec 2) (s : State) : Out :=
  let s := if g = lastGranule then s.count Cnt.scrubPasses 1 else s
  if res = 0 then .next s
  else if res = 1 then .next (s.corrected g)
  else
    let (s1, ok) := (s.foundUe g).repairGranule g
    .next (if ok then s1 else s1.logMem Cls.memory 0 (64 * g))

end Sys2Proof.Machine
end

