-- ==== Sys2Proof/Machine/Rs.lean ====
section
/-! DEFINITION. The Reed-Solomon code of a flit (02 R30, R31): a byte string of 256 is a codeword when sixteen power sums
vanish; up to 8 byte errors are corrected. -/
namespace Sys2Proof.Machine

/-! ## The field GF(2^8) with x^8 + x^4 + x^3 + x^2 + 1 -/

/-- Multiply by x. -/
def gfX (a : Nat) : Nat := if a < 128 then 2 * a else (2 * a) ^^^ 0x11D

/-- The product of two field elements: one shifted copy of a for each bit of b. -/
def gfMul (a b : Nat) : Nat :=
  ([0, 1, 2, 3, 4, 5, 6, 7].foldl
    (fun (p : Nat × Nat) i => (if b.testBit i then p.1 ^^^ p.2 else p.1, gfX p.2)) (0, a)).1

def gfPow (a : Nat) : Nat → Nat
  | 0 => 1
  | n + 1 => gfMul a (gfPow a n)

/-- The inverse: a^254. -/
def gfInv (a : Nat) : Nat := gfPow a 254
def gfDiv (a b : Nat) : Nat := gfMul a (gfInv b)
def gfSum (l : List Nat) : Nat := l.foldl (· ^^^ ·) 0

/-! ## The code -/

/-- S_j: the sum of c_i times x_i^j, where x_i is i and 0^0 counts as 1 (R30). -/
def rsSyn (c : List Byte) (j : Nat) : Nat := gfSum (c.zipIdx.map (fun (b, i) => gfMul b.toNat (gfPow i j)))

/-- A flit is a codeword when all sixteen sums vanish (R30). -/
def rsCodeword (c : List Byte) : Bool := (List.range 16).all (fun j => rsSyn c j == 0)

/-- Parity byte p (240 to 255) of 240 bytes: interpolation through the sixteen parity places makes every sum vanish. -/
def rsParity (c : List Byte) (p : Nat) : Byte :=
  let others := ((List.range 16).map (· + 240)).filter (· != p)
  let lag (i : Nat) : Nat :=
    gfDiv ((others.map (fun q => i ^^^ q)).foldl gfMul 1) ((others.map (fun q => p ^^^ q)).foldl gfMul 1)
  BitVec.ofNat 8 (gfSum (c.zipIdx.map (fun (b, i) => gfMul b.toNat (lag i))))

/-- The sender's flit: 240 bytes and the parity that makes a codeword (R30). -/
def rsEncode (c : List Byte) : List Byte :=
  let c := (c ++ List.replicate 240 0).take 240
  c ++ (List.range 16).map (fun i => rsParity c (240 + i))

/-! ## Correction (R31) -/

/-- A polynomial by its coefficients, lowest first. -/
def gfEval (p : List Nat) (x : Nat) : Nat := p.foldr (fun a acc => a ^^^ gfMul x acc) 0
def gfCoef (p : List Nat) (i : Nat) : Nat := p.getD i 0
/-- p + k x^m q. -/
def gfAxpy (p q : List Nat) (k m : Nat) : List Nat :=
  (List.range (max p.length (q.length + m))).map
    (fun i => gfCoef p i ^^^ (if i < m then 0 else gfMul k (gfCoef q (i - m))))

/-- Berlekamp and Massey: the shortest locator polynomial of a run of sums. -/
structure BmState where
  lam : List Nat
  prev : List Nat
  len : Nat
  shift : Nat
  last : Nat
  deriving DecidableEq, Repr

def bmStep (syn : List Nat) (s : BmState) (n : Nat) : BmState :=
  let d := gfSum ((List.range (s.len + 1)).map (fun i => gfMul (gfCoef s.lam i) (gfCoef syn (n - i))))
  if d = 0 then { s with shift := s.shift + 1 }
  else
    let lam := gfAxpy s.lam s.prev (gfDiv d s.last) s.shift
    if 2 * s.len ≤ n then { lam := lam, prev := s.lam, len := n + 1 - s.len, shift := 1, last := d }
    else { s with lam := lam, shift := s.shift + 1 }

def locator (syn : List Nat) : BmState :=
  (List.range syn.length).foldl (bmStep syn) { lam := [1], prev := [1], len := 0, shift := 1, last := 1 }

/-- The errors that the sums S_b onward show at places 1 to 255: place and value. -/
def rsErrors (b : Nat) (syn : List Nat) : List (Nat × Nat) :=
  let s := locator syn
  let om := (List.range syn.length).map
    (fun k => gfSum ((List.range (k + 1)).map (fun i => gfMul (gfCoef s.lam i) (gfCoef syn (k - i)))))
  let der := (List.range s.lam.length).map (fun i => if i % 2 = 0 then gfCoef s.lam (i + 1) else 0)
  ((List.range 255).map (· + 1)).filterMap (fun x =>
    let xi := gfInv x
    if gfEval s.lam xi = 0 then
      let e := gfDiv (gfEval om xi) (gfEval der xi)
      some (x, if b = 0 then gfMul x e else e)
    else none)

/-- The flit with errors taken out. -/
def rsApply (c : List Byte) (es : List (Nat × Nat)) : List Byte :=
  es.foldl (fun c (i, v) => c.set i ((c.getD i 0) ^^^ BitVec.ofNat 8 v)) c

/-- How many bytes two flits differ in. -/
def rsDist (a b : List Byte) : Nat := ((a.zip b).filter (fun (x, y) => x != y)).length

/-- The codeword within 8 bytes of the flit, if there is one, and the number of bytes corrected (R31). The place of x_0
shows in S_0 alone: first it is taken as right, then as wrong. -/
def rsCorrect (c : List Byte) : Option (List Byte × Nat) :=
  if c.length ≠ 256 then none
  else
    let syn := (List.range 16).map (rsSyn c)
    if syn.all (· == 0) then some (c, 0)
    else
      let a := rsApply c (rsErrors 0 syn)
      if rsCodeword a && decide (rsDist c a ≤ 8) then some (a, rsDist c a)
      else
        let d := rsApply c (rsErrors 1 (syn.drop 1))
        let d := rsApply d [(0, rsSyn d 0)]
        if rsCodeword d && decide (rsDist c d ≤ 8) then some (d, rsDist c d) else none

end Sys2Proof.Machine
end

