-- ==== Sys2Proof/Machine/Link.lean ====
section
/-! DEFINITION. Link training, flits, replay and credit of PXL and fabric ports (02 R26 to R34; 13 R322 to R325). -/
namespace Sys2Proof.Machine

/-! ## What differs between PXL and fabric ports -/

def PortId.isFab : PortId → Bool
  | .fab _ => true
  | _ => false

def PortId.fabNum : PortId → Nat
  | .fab n => n.toNat
  | _ => 0

/-- Bounds of the training states in ms (Tables 2.1 and 13.2). -/
def trainBound (p : PortId) : LinkState → Nat
  | .eq => if PortId.isFab p then 240 else 12
  | .align => if PortId.isFab p then 40 else 4
  | .config => if PortId.isFab p then 20 else 2
  | .retrain => if PortId.isFab p then 300 else 20
  | _ => 0

/-- Replay buffer in flits (R32, R324). -/
def replayCap (p : PortId) : Nat := if PortId.isFab p then 1024 else 512
/-- Header bytes and packet-data bytes of a flit. -/
def hdrLen (p : PortId) : Nat := if PortId.isFab p then 8 else 4
def dataLen (p : PortId) : Nat := if PortId.isFab p then 232 else 236
/-- Unit number of a port in the fault log (Table 14.12). -/
def portUnit (p : PortId) : W16 :=
  match p with
  | .pxu => Unit.iod 0x20
  | .pxd => Unit.iod 0x21
  | .fab n => Unit.iod (0x10 + n.toNat)

/-- Add to a link counter of the port: 0 CORRECTED, 1 NAKS, 2 RETRAINS, 3 DROPPED (Tables 2.14 and 13.6). -/
def State.linkCount (s : State) (p : PortId) (i n : Nat) : State :=
  match p with
  | .fab f =>
    { s with fab := { s.fab with err := Tab.upd 0 s.fab.err (4 * f.toNat + i) (fun x => min 0xFFFF (x + n)) } }
  | _ => s.errCount i n

/-- A log entry whose DETAIL the spec leaves open: a free value (log 3). -/
def State.logOpen (s : State) (cls action : Nat) (st : W16) (unit : W16) : State :=
  let (d, s1) := s.draw
  s1.log cls action st unit (s1.host.ident.getD 0) d

/-! ## Entering training states -/

def State.updPort (s : State) (p : PortId) (f : Port → Port) : State := s.setPort p (f (s.port p))

/-- RETRAIN entered, or started again (R26, R32): the replay buffers are kept. A RETRAIN that starts again after its bound is
one more entry into RETRAIN (DESIGN CHOICE, log 75). -/
def State.enterRetrain (s : State) (p : PortId) : State :=
  let s1 := s.updPort p (fun x =>
    { x with st := .retrain, sub := .eq, since := s.now, subSince := s.now, nakCnt := 0, nakDue := false })
  ((s1.linkCount p 2 1).logOpen Cls.notice 0 Status.ok (portUnit p))

/-- The module number of the next position down the chain (R28). -/
def State.nextMod (s : State) : Nat := (modNum s.host.ident + 1) % 64

/-- The packets that have a flit in a replay buffer (R28): those that start there, and one whose first flit has been
acknowledged and whose later flits have not. -/
def packetsIn (l : List SentFlit) : Nat :=
  (l.filter (fun f => f.starts)).length + (match l with | f :: _ => b2n !f.starts | [] => 0)

/-- DOWN entered (R28): the replay buffer is discarded, the packets it held are lost; a PXL port counts each. A fabric port's
DROPPED counts other discards only (13 R329, Table 13.6): its packets are sent again end to end (13 R326). -/
def State.enterDown (s : State) (p : PortId) : State :=
  let x := s.port p
  let lost := if PortId.isFab p then 0 else packetsIn x.replay
  let s1 := s.setPort p { x with st := .down, sub := .down, since := s.now, subSince := s.now, replay := [], resend := [],
                                 txq := x.txq.dropWhile (fun t => !t.2.1) }
  let s2 := s1.linkCount p 3 lost
  match p with
  | .pxu => s2
  | .pxd => s2.event 0x06 Status.linkDown (BitVec.ofNat 32 s.nextMod) 0
  | .fab _ => s2.logOpen Cls.link 0 Status.ok (portUnit p)

/-- One training failure (R26, R28): three in succession make the port enter DOWN. -/
def State.trainFail (s : State) (p : PortId) : State :=
  let x := s.port p
  let n := x.fails + 1
  let s1 := s.setPort p { x with fails := n }
  match x.st with
  | .down => s1.updPort p (fun x => { x with sub := .detect, subSince := s.now })
  | .retrain => if n ≥ 3 then s1.enterDown p else s1.enterRetrain p
  | _ => if n ≥ 3 then s1.enterDown p
         else s1.updPort p (fun x => { x with st := .detect, sub := .detect, since := s.now, subSince := s.now })

/-! ## Lane choice (R27, R323) -/

/-- The lanes a port runs on, from the lanes that EQ left unmarked. -/
def laneChoice (good : BitVec 4) : Option (BitVec 4) :=
  if good = 0xF then some 0xF
  else if bit good 0 && bit good 1 then some 0x3
  else if bit good 2 && bit good 3 then some 0xC
  else if bit good 0 then some 0x1
  else if bit good 1 then some 0x2
  else if bit good 2 then some 0x4
  else if bit good 3 then some 0x8
  else none

def laneCount (l : BitVec 4) : Nat := b2n (bit l 0) + b2n (bit l 1) + b2n (bit l 2) + b2n (bit l 3)

/-! ## Torus wiring (R322, Table 13.1) -/

/-- Depth of the torus for a SHAPE; 0 for none. -/
def torusZ : Nat → Nat
  | 1 => 1
  | 2 => 2
  | 3 => 4
  | _ => 0

/-- The far end of a torus port of module m: module and port; none for an outer port or a direction the shape lacks. -/
def torusFar (shape m p : Nat) : Option (Nat × Nat) :=
  let x := m % 4
  let y := m / 4 % 4
  let z := m / 16
  let zz := torusZ shape
  let mk (x y z : Nat) : Nat := x + 4 * y + 16 * z
  if zz = 0 then none
  else
    match p / 2 with
    | 0 => some (mk ((x + 1) % 4) y z, p + 2)
    | 1 => some (mk ((x + 3) % 4) y z, p - 2)
    | 2 => some (mk x ((y + 1) % 4) z, p + 2)
    | 3 => some (mk x ((y + 3) % 4) z, p - 2)
    | 4 => if zz > 1 then some (mk x y ((z + 1) % zz), p + 2) else none
    | 5 => if zz > 1 then some (mk x y ((z + zz - 1) % zz), p - 2) else none
    | _ => none

def Reg.fabCfg : Nat := 0x30000
def State.shape (s : State) : Nat := fld (s.reg Reg.fabCfg) 0 2
def State.modNumber (s : State) : Nat := modNum s.host.ident
def State.ownIdent (s : State) : BitVec 12 := s.host.ident.getD 0
def domainOf (id : BitVec 12) : Nat := fld id 6 6

/-- A port whose direction the shape lacks stays in DETECT (R322). -/
def State.portUsed (s : State) (p : PortId) : Bool :=
  match p with
  | .fab n => decide (n.toNat ≥ 12) || (torusFar s.shape s.modNumber n.toNat).isSome
  | _ => true

/-- The far end a fabric port found in CONFIG is not the one it should have (R323). -/
def State.miswire (s : State) (p : PortId) (r : TrainReport) : Bool :=
  match p with
  | .fab n =>
    if n.toNat ≥ 12 then domainOf r.peer == domainOf s.ownIdent
    else match torusFar s.shape s.modNumber n.toNat with
      | some (m, q) => !(domainOf r.peer == domainOf s.ownIdent && r.peer.toNat % 64 == m && r.peerPort.toNat == q)
      | none => true
  | _ => false

/-! ## Training rows -/

/-- SIGNAL_DETECT (R26): a port in DETECT leaves it for EQ. -/
def execSignalDetect (p : PortId) (s : State) : Out :=
  let x := s.port p
  if !x.live || !s.portUsed p then .next s
  else
    match x.st with
    | .detect => .next (s.setPort p { x with st := .eq, sub := .eq, since := s.now, subSince := s.now })
    | .down => if x.sub = .detect then .next (s.setPort p { x with sub := .eq, subSince := s.now }) else .next s
    | _ => .next s

/-- The training state a port is in: its own, or the one a RETRAIN or DOWN has reached. -/
def Port.training (x : Port) : LinkState := if x.st = .retrain ∨ x.st = .down then x.sub else x.st

/-- Move to a training state, within RETRAIN or DOWN where the port is in one of them. -/
def Port.toTraining (x : Port) (now : Nat) (t : LinkState) : Port :=
  if x.st = .retrain ∨ x.st = .down then { x with sub := t, subSince := now }
  else { x with st := t, sub := t, since := now, subSince := now }

/-- Counts by class, of a list of them. -/
def classTab (l : List (BitVec 16)) : Tab Nat := (l.zipIdx.map (fun (c, i) => (i, c.toNat))).filter (fun c => c.2 != 0)

/-- What the ends agree in CONFIG keeps the bounds of R34 and R324: a PXL receive buffer holds 512 flits; a fabric port's 1,024
are shared among its 32 classes, at least 8 to every class of the signal lane. Credit given after a RETRAIN leaves out what the
far end's buffer still holds. -/
def agreed (p : PortId) (x : Port) (r : TrainReport) : Bool :=
  let sum (l : List (BitVec 16)) : Nat := (l.map BitVec.toNat).foldl (· + ·) 0
  let least (l : List (BitVec 16)) : Bool := (l.drop 16).all (fun c => decide (8 ≤ c.toNat))
  let again := decide (x.st = .retrain)
  if PortId.isFab p then
    r.credit.length == 32 && decide (sum r.credit ≤ 1024) && (again || least r.credit) &&
    r.share.length == 32 && decide (sum r.share ≤ 1024) && least r.share
  else r.credit.length == 1 && decide (sum r.credit ≤ 512) && decide (r.share = [512])

/-- ACTIVE entered from CONFIG: a fresh training starts the sequences over and gives the whole receive buffer; after a RETRAIN
the flits not yet acknowledged are sent again and use the credit newly given (R26, R32, R34; DEDUCED, log 16). -/
def Port.activate (x : Port) (now : Nat) (r : TrainReport) : Port :=
  let y := { x with st := .active, sub := .active, since := now, subSince := now, fails := 0, credit := classTab r.credit,
                    freed := [], nakDue := false, waiting := false, nakCnt := 0, lastGood := now, peer := r.peer,
                    peerPort := r.peerPort, miswired := false }
  if x.st = .retrain then
    let l := x.replay.map (fun f => { f with paid := false })
    { y with replay := l, resend := l }
  else { y with rxSeq := 0, ackSeq := 0xFFF, txSeq := 0, replay := [], resend := [], share := classTab r.share, rx := [],
                resync := false, nakSeq := 0xFFF }

/-- TRAINING_STATE_DONE (R26, R27, R323): EQ, ALIGN or CONFIG meets its exit condition; CONFIG where both ends agree. -/
def State.trainDone (s : State) (p : PortId) (r : TrainReport) : State :=
  let x := s.port p
  match x.training with
  | .eq =>
    match laneChoice r.good with
    | none => s
    | some l => s.setPort p ({ x with lanes := l }.toTraining s.now .align)
  | .align => s.setPort p ({ x with rev := r.rev }.toTraining s.now .config)
  | .config =>
    if s.miswire p r then
      let s1 := s.enterDown p
      s1.updPort p (fun x => { x with miswired := true, peer := r.peer, peerPort := r.peerPort })
    else if agreed p x r then s.setPort p (x.activate s.now r)
    else s
  | _ => s

/-- TRAINING_BOUND_EXPIRY (R26, R28): a training state, or a RETRAIN as a whole, has lasted longer than its bound. -/
def execTrainingBoundExpiry (p : PortId) (s : State) : Out :=
  let x := s.port p
  let due : Bool :=
    match x.st with
    | .retrain => decide (s.now - x.since > trainBound p .retrain * msec)
    | _ =>
      match x.training with
      | .eq | .align | .config => decide (s.now - x.subSince > trainBound p x.training * msec)
      | _ => false
  if due then .next (s.trainFail p) else .next s

/-- DOWN_RETRY_TIMER (R26, R323): after 100 ms training restarts at DETECT; a MISWIRED port waits for another far end. A
training under way is not cut short (DEDUCED, log 16). -/
def execDownRetryTimer (p : PortId) (farChanged : Bool) (s : State) : Out :=
  let x := s.port p
  if x.live && decide (x.st = .down) && decide (x.sub = .down ∨ x.sub = .detect) && decide (s.now - x.subSince ≥ 100 * msec) &&
     (!x.miswired || farChanged) then
    .next (s.setPort p { x with sub := .detect, subSince := s.now, miswired := false })
  else .next s

/-! ## Flits (R29 to R34, R324) -/

/-- What a flit says, after correction. -/
structure Flit where
  fseq : BitVec 12
  ack : BitVec 12
  ftype : Nat
  sop : Nat
  cls : Nat
  data : List Byte
  deriving DecidableEq, Repr

/-- The header of a corrected flit (Tables 2.2 and 13.3). -/
def readFlit (p : PortId) (c : List Byte) : Flit :=
  let fab := PortId.isFab p
  { fseq := BitVec.ofNat 12 (bitsAt c 0 12), ack := BitVec.ofNat 12 (bitsAt c 12 12), ftype := bitsAt c 24 2,
    sop := bitsAt c (if fab then 32 else 26) 6,
    cls := if fab then 16 * bitsAt c 30 1 + bitsAt c 26 4 else 0,
    data := (c.drop (hdrLen p)).take (dataLen p) }

/-- FTYPE 3 or an invalid SOP makes the flit uncorrectable (Tables 2.2 and 13.3). -/
def Flit.valid (p : PortId) (f : Flit) : Bool :=
  f.ftype != 3 && (f.sop == 63 || decide (f.sop < (if PortId.isFab p then 58 else 59)))

/-- A flit as sent: header, data, parity. -/
def mkFlit (p : PortId) (fseq ack : BitVec 12) (ftype sop cls : Nat) (data : List Byte) : List Byte :=
  let w := fseq.toNat + ack.toNat * 2 ^ 12 + ftype * 2 ^ 24 +
    (if PortId.isFab p then cls % 16 * 2 ^ 26 + cls / 16 * 2 ^ 30 + sop * 2 ^ 32 else sop * 2 ^ 26)
  rsEncode (toBytesLE (hdrLen p) w ++ data)

/-- Free the replay entries that an ACKSEQ covers (R32). -/
def Port.take (x : Port) (ack : BitVec 12) : Port :=
  if x.replay.any (fun f => f.fseq == ack) then
    let rest := (x.replay.dropWhile (fun f => f.fseq != ack)).drop 1
    { x with replay := rest, resend := x.resend.filter (fun f => rest.any (fun g => g.fseq == f.fseq)) }
  else x

/-- A flit is discarded under R31 and a NAK is due; while waiting for the expected FSEQ, further flits out of order call
for none. -/
def State.discardFlit (s : State) (p : PortId) (nak : Bool) : State :=
  let s1 := s.linkCount p 1 1
  if nak then s1.updPort p (fun x => { x with nakDue := true, waiting := true }) else s1

/-! ### The receive buffer (R34, R324, R40) -/

/-- The flits of a class in the receive buffer. -/
def Port.rxOf (x : Port) (c : Nat) : List RxFlit := Tab.get [] x.rx c

/-- The flits of a class after some have left: each one that left is freed, to be reported in the next CTRL flit (R34). -/
def Port.leave (x : Port) (c : Nat) (l : List RxFlit) : Port :=
  { x with rx := Tab.put [] x.rx c l, freed := Tab.upd 0 x.freed c (· + ((x.rxOf c).length - l.length)) }

/-- Packet data received in order: from the start of the next packet only, while data is being discarded (R40). A flit whose
data is all discarded is freed at once. -/
def Port.takeData (x : Port) (f : Flit) : Port :=
  if x.resync && f.sop == 63 then { x with freed := Tab.upd 0 x.freed f.cls (· + 1) }
  else
    let d := if x.resync then f.data.drop (4 * f.sop) else f.data
    { x with rx := Tab.upd [] x.rx f.cls (fun l => l ++ [{ sop := f.sop, data := d }]), resync := false }

/-- The flits without their first n bytes; those that are then empty have left. -/
def dropData : Nat → List RxFlit → List RxFlit
  | _, [] => []
  | n, f :: l => if f.data.length ≤ n then dropData (n - f.data.length) l else { f with data := f.data.drop n } :: l

/-- The rest of a flit behind the end of a packet holds zeros (DESIGN CHOICE, log 75), and leaves with the packet. -/
def dropFill (p : PortId) : List RxFlit → List RxFlit
  | [] => []
  | f :: l => if decide (f.data.length < dataLen p) && f.data.all (· == 0) then l else f :: l

/-- A packet of bytes b leaves the receive buffer, where the data of its class begins with them (DESIGN CHOICE, log 18). -/
def Port.takePacket (p : PortId) (c : Nat) (b : List Byte) (x : Port) : Port :=
  let l := x.rxOf c
  if (l.flatMap (fun f => f.data)).take b.length = b then x.leave c (dropFill p (dropData b.length l)) else x

/-- The data of a class is discarded up to the next flit whose SOP is not 63; a packet whose header is `h` has begun in the first
one, if that is where it stands (R40). -/
def Port.toNextStart (x : Port) (c : Nat) (h : List Byte) : Port :=
  let l := x.rxOf c
  let l1 := if (l.flatMap (fun f => f.data)).take h.length = h then l.drop 1 else l
  match l1.dropWhile (fun f => f.sop == 63) with
  | [] => { x.leave c [] with resync := true }
  | f :: r => { x.leave c ({ f with data := f.data.drop (4 * f.sop) } :: r) with resync := false }

/-- NAK and CREDIT of a CTRL flit (R34, R324). -/
def State.takeCtrl (s : State) (p : PortId) (f : Flit) : State :=
  let add (x : Port) : Port :=
    if PortId.isFab p then
      { x with credit := (List.range 32).foldl (fun c k => Tab.upd 0 c k (fun v => v + leAt f.data (2 + 2 * k) 2)) x.credit }
    else { x with credit := Tab.upd 0 x.credit 0 (fun v => v + leAt f.data 2 2) }
  let s1 := s.updPort p add
  if bitsAt f.data 0 1 = 1 then
    let x := s1.port p
    let n := if x.nakCnt > 0 && x.nakSeq == f.ack then x.nakCnt + 1 else 1
    let s2 := s1.setPort p { x with nakSeq := f.ack, nakCnt := n, resend := x.replay }
    if n ≥ 4 then s2.enterRetrain p else s2
  else s1

/-- A flit arrives at an ACTIVE port (R31); `ctrl` tells the row for CTRL flits from the row for the others. A DATA flit for which
the receive buffer has no room is discarded as one out of order is (DESIGN CHOICE, log 75). -/
def State.recvFlit (s : State) (p : PortId) (bytes : List Byte) (ctrl : Bool) : State :=
  if (s.port p).st ≠ .active ∨ s.portStopped p then s
  else
    let bad (s : State) : State :=
      if ctrl then s else (s.discardFlit p true).logOpen Cls.link 1 Status.ok (portUnit p)
    match rsCorrect bytes with
    | none => bad s
    | some (c, n) =>
      let f := readFlit p c
      if !f.valid p then bad s
      else if (f.ftype == 2) != ctrl then s
      else
        let s1 := if n > 0 then s.linkCount p 0 1 else s
        let s2 := s1.updPort p (fun x => { x.take f.ack with lastGood := s.now })
        if ctrl then s2.takeCtrl p f
        else if f.ftype = 1 then s2
        else
          let x := s2.port p
          if f.fseq = x.rxSeq && decide ((x.rxOf f.cls).length < Tab.get 0 x.share f.cls) then
            s2.setPort p ({ x with rxSeq := x.rxSeq + 1, ackSeq := f.fseq, waiting := false }.takeData f)
          else s2.discardFlit p (!x.waiting)

/-- DATA_FLIT_RECEIVE (R31). -/
def execDataFlitReceive (p : PortId) (bytes : List Byte) (s : State) : Out := .next (s.recvFlit p bytes false)

/-- CTRL_FLIT_RECEIVE (R34). -/
def execCtrlFlitReceive (p : PortId) (bytes : List Byte) (s : State) : Out := .next (s.recvFlit p bytes true)

/-- LINK_IDLE_TIMEOUT (R32): 10 ms without a flit that decodes correctly. -/
def execLinkIdleTimeout (p : PortId) (s : State) : Out :=
  let x := s.port p
  if x.st = .active ∧ s.now - x.lastGood ≥ 10 * msec then .next (s.enterRetrain p) else .next s

/-! ## Sending (R29, R32 to R34, R325) -/

/-- Packet data of one packet cut into flit payloads; a fabric piece keeps the packet's class. A packet starts at offset 0 of a
new flit, and zeros fill the rest of its last flit (DESIGN CHOICE, log 75). -/
def cutPacket (p : PortId) (cls : Nat) (bs : List Byte) : List (Nat × Bool × List Byte) :=
  (chunks (dataLen p) bs).zipIdx.map
    (fun (d, i) => (cls, i == 0, d ++ List.replicate (dataLen p - d.length) 0))

/-- The content of a CTRL flit (R34, R324). -/
def ctrlData (p : PortId) (x : Port) : List Byte :=
  let nak := b2n x.nakDue
  let body :=
    if PortId.isFab p then [BitVec.ofNat 8 nak, 0] ++ (List.range 32).flatMap (fun k => toBytesLE 2 (Tab.get 0 x.freed k))
    else toBytesLE 4 (nak + Tab.get 0 x.freed 0 * 2 ^ 16)
  body ++ List.replicate (dataLen p - body.length) 0

/-- The next piece to send: a signal-lane piece that is ready before any bulk piece (R325), the oldest first. A piece is ready
while its class has credit (R34). -/
def nextPiece (credit : Tab Nat) (l : List (Nat × Bool × List Byte)) : Option (Nat × Bool × List Byte) :=
  let ready := l.filter (fun t => decide (0 < Tab.get 0 credit t.1))
  match ready.find? (fun t => decide (t.1 ≥ 16)) with
  | some t => some t
  | none => ready.head?

/-- What an ACTIVE port sends at a flit boundary: a CTRL flit that is due, a flit again, a DATA flit, an IDLE flit. A flit sent
again after a NAK has used its credit; one sent again after a RETRAIN uses credit of the new count (R34; DEDUCED, log 16). -/
def Port.send (p : PortId) (x : Port) : Port :=
  let ctrl : Port := { x with tx := mkFlit p 0 x.ackSeq 2 63 0 (ctrlData p x), nakDue := false, freed := [] }
  let freed := (x.freed.map (fun c => c.2)).foldl (· + ·) 0
  let idle : Port := if freed > 0 then ctrl else { x with tx := mkFlit p 0 x.ackSeq 1 63 0 (List.replicate (dataLen p) 0) }
  if x.nakDue || decide (freed ≥ 127) then ctrl
  else
    match x.resend with
    | f :: fs =>
      let y : Port := { x with tx := mkFlit p f.fseq x.ackSeq 0 (if f.starts then 0 else 63) f.cls f.data, resend := fs }
      if f.paid then y
      else if Tab.get 0 x.credit f.cls > 0 then
        { y with credit := Tab.upd 0 x.credit f.cls (· - 1),
                 replay := x.replay.map (fun g => if g.fseq == f.fseq then { g with paid := true } else g) }
      else idle
    | [] =>
      match nextPiece x.credit x.txq with
      | some (c, st, d) =>
        if x.replay.length < replayCap p then
          { x with tx := mkFlit p x.txSeq x.ackSeq 0 (if st then 0 else 63) c d, txSeq := x.txSeq + 1,
                   replay := x.replay ++ [{ fseq := x.txSeq, cls := c, starts := st, data := d }],
                   credit := Tab.upd 0 x.credit c (· - 1), txq := x.txq.erase (c, st, d) }
        else idle
      | none => idle

end Sys2Proof.Machine
end

