-- ==== Sys2Proof/Machine/Packets.lean ====
section
/-! DEFINITION. Packets of the host link: header checks, relaying, the gate every packet row passes, ENUM and RESULT_RD
(02 R35 to R41, R54 to R56). -/
namespace Sys2Proof.Machine

/-! ## Header fields (Table 2.3) -/

def Packet.ty (k : Packet) : Nat := fld k.dw0 0 4
def Packet.dir (k : Packet) : Bool := bit k.dw0 4
def Packet.bcast (k : Packet) : Bool := bit k.dw0 5
def Packet.mod (k : Packet) : Nat := fld k.dw0 6 6
def Packet.len (k : Packet) : Nat := fld k.dw0 12 11
def Packet.tag (k : Packet) : Nat := fld k.dw0 23 9
/-- DW2 and DW3 as one 64-bit word. -/
def Packet.qw (k : Packet) : W64 := k.dw3 ++ k.dw2
/-- The payload, LEN × 32 bytes. -/
def Packet.data (k : Packet) : List Byte := (k.payload ++ List.replicate (32 * Packet.len k) 0).take (32 * Packet.len k)
/-- The register offset of a REG_RD or REG_WR. -/
def Packet.off (k : Packet) : Nat := fld k.dw1 0 20

/-! ## What a type allows (R41, Table 2.4) -/

/-- Least and greatest LEN of a type sent by the host. -/
def typeLen : Nat → Option (Nat × Nat)
  | 0x1 => some (2, 2046)
  | 0x2 => some (0, 0)
  | 0x3 => some (0, 0)
  | 0x4 => some (1, 2046)
  | 0x5 => some (0, 0)
  | 0x6 => some (0, 0)
  | 0x9 => some (0, 0)
  | 0xA => some (1, 1)
  | _ => none

/-- BCAST as the type allows it. -/
def bcastOk (k : Packet) : Bool :=
  match Packet.ty k with
  | 0x3 => true
  | 0xA => Packet.bcast k
  | _ => !Packet.bcast k

/-- Reserved header bits are 0; the last 24 bytes of a TIME payload are reserved too. -/
def rsvdOk (k : Packet) : Bool :=
  match Packet.ty k with
  | 0x1 => fld k.dw1 6 26 == 0 && Packet.qw k == 0
  | 0x2 => fld k.dw1 20 12 == 0 && Packet.qw k == 0
  | 0x3 => fld k.dw1 20 12 == 0
  | 0x4 => fld k.dw1 1 31 == 0
  | 0x5 => fld k.dw1 12 20 == 0
  | 0x6 => fld k.dw1 28 4 == 0 && Packet.qw k == 0
  | 0x9 => fld k.dw1 15 17 == 0 && Packet.qw k == 0
  | 0xA => ((Packet.data k).drop 8).all (· == 0)
  | _ => true

/-- The fault of a packet under R41, taken in the order TYPE, LEN, BCAST, reserved bits (DEDUCED, log 17). -/
def headerFault (k : Packet) : Option W16 :=
  match typeLen (Packet.ty k) with
  | none => some Status.errRange
  | some (lo, hi) =>
    if Packet.len k < lo ∨ hi < Packet.len k then some Status.errLen
    else if !bcastOk k then some Status.errRange
    else if !rsvdOk k then some Status.errReserved
    else none

/-! ## Answers (Table 2.4) -/

/-- A response packet of a type to a packet, from module m. -/
def State.respondAs (s : State) (k : Packet) (ty m : Nat) (dw1 : W32) (v : W64) (payload : List Byte) : State :=
  s.postUp (mkUp ty (Packet.tag k) m dw1 (v.setWidth 32) ((v >>> 32).setWidth 32) payload)

/-- The response of the packet's own type. -/
def State.respond (s : State) (k : Packet) (st : W16) (v : W64) (payload : List Byte) : State :=
  s.respondAs k (Packet.ty k) (modNum s.host.ident) (st.setWidth 32) v payload

/-- Whether the type has a response (Table 2.4): a broadcast REG_WR and a TIME have none. -/
def hasResponse (k : Packet) : Bool :=
  match Packet.ty k with
  | 0x1 | 0x2 | 0x4 | 0x5 | 0x6 | 0x9 => true
  | 0x3 => !Packet.bcast k
  | _ => false

/-- The CMD response (R48), from module m; a field that no rule states is a free value (log 3). -/
def State.cmdReply (s : State) (k : Packet) (m : Nat) (st : W16) (idx fld_ : Option Nat) (first : Option W32) : State :=
  let (v, s1) := s.draw
  s1.respondAs k 0x1 m
    (BitVec.ofNat 32 (st.toNat + (idx.getD (fld v 0 10)) % 1024 * 2 ^ 16))
    (BitVec.ofNat 64 ((first.getD (BitVec.ofNat 32 (fld v 32 32))).toNat + fld_.getD (fld v 10 8) % 256 * 2 ^ 32)) []

/-- The response with a failing status and MOD m (R37, R41). A RESULT names the slot; its other fields, and those of a CMD
response, are free values (log 3). -/
def State.failResponse (s : State) (k : Packet) (st : W16) (m : Nat) : State :=
  match Packet.ty k with
  | 0x1 => s.cmdReply k m st none none none
  | 0x6 =>
    let (v, s1) := s.draw
    s1.respondAs k 0x7 m (st.setWidth 32 ||| BitVec.ofNat 32 (fld k.dw1 0 12 * 2 ^ 17)) v []
  | 0x9 => s.respondAs k 0x9 m (st.setWidth 32) Config.deviceNumber []
  | t => s.respondAs k t m (st.setWidth 32) 0 []

/-- An EVENT of class PACKET_ERROR, at least PKTERR_GAP after the one before (R56). -/
def State.packetError (s : State) (k : Packet) (st : W16) : State :=
  let gap := fld (s.reg Reg.evtCfg) 8 16 * usec
  let early : Bool := match s.host.pktErrAt with | some t => decide (s.now - t < gap) | none => false
  if early || !bit (s.reg Reg.evtCfg) 1 then s
  else
    let s1 : State := { s with host := { s.host with pktErrAt := some s.now } }
    s1.event 0x02 st (BitVec.ofNat 32 (Packet.tag k + Packet.ty k * 2 ^ 9)) 0

/-- A packet dropped or rejected is counted (Table 2.14). -/
def State.dropped (s : State) : State := s.errCount 3 1

/-- R41: the packet is skipped, counted and answered with its type's response, or a PACKET_ERROR event. -/
def State.badPacket (s : State) (k : Packet) (st : W16) : State :=
  if hasResponse k then s.dropped.failResponse k st (modNum s.host.ident) else s.dropped.packetError k st

/-! ## Relaying (R35 to R38) -/

/-- Forward a packet on PXD, or answer for a destination beyond a PXD that is not ACTIVE (R37). -/
def State.forwardDown (s : State) (k : Packet) (dest : Nat) : State :=
  if (s.port .pxd).st = .active then s.postDown k
  else if hasResponse k then s.failResponse k Status.linkDown dest
  else s.event 0x06 Status.linkDown (BitVec.ofNat 32 dest) 0

/-- The packet is for this module: an ENUM, a broadcast, or its own number. -/
def State.addressed (s : State) (k : Packet) : Bool :=
  !Packet.dir k && (Packet.ty k == 0x9 ||
    (s.host.ident.isSome && (Packet.bcast k || Packet.mod k == s.modNumber)))

/-- A packet that arrives on an ACTIVE PXU is at the front of the data its flits brought (log 18): take it from there. -/
def pktBytes (k : Packet) : List Byte :=
  toBytesLE 4 k.dw0.toNat ++ toBytesLE 4 k.dw1.toNat ++ toBytesLE 4 k.dw2.toNat ++ toBytesLE 4 k.dw3.toNat ++ Packet.data k

def State.takeRx (s : State) (p : PortId) (k : Packet) : State := s.updPort p (Port.takePacket p 0 (pktBytes k))

/-- LEN 2,047 (R40): the packet is dropped and packet data discarded up to the next packet start. -/
def State.badLen (s : State) (p : PortId) (k : Packet) : State :=
  let s1 := s.updPort p (fun x => x.toNextStart 0 ((pktBytes k).take 16))
  s1.dropped.packetError k Status.errLen

/-- R41 for a packet this module consumes; relaying is cut-through, so a broadcast is forwarded whatever its fault (R35, R36;
DEDUCED, log 17). -/
def State.badAndOn (s : State) (k : Packet) (st : W16) : State :=
  let s1 := s.badPacket k st
  if Packet.bcast k && s.host.ident.isSome then s1.forwardDown k (Packet.mod k) else s1

/-- A packet of type ty for this module, good under R41, handled by `body`; a broadcast is forwarded as well. Every other
packet leaves the row without effect, but for a bad one (R41). -/
def State.pxu (s : State) (k : Packet) (ty : Nat) (body : State → State) : State :=
  if (s.port .pxu).st ≠ .active ∨ !s.serving ∨ Packet.ty k ≠ ty ∨ !s.addressed k then s
  else
    let s := s.takeRx .pxu k
    if Packet.len k = 2047 then s.badLen .pxu k
    else
      match headerFault k with
      | some st => s.badAndOn k st
      | none => if Packet.bcast k then (body s).forwardDown k (Packet.mod k) else body s

/-! ## Packets that wait (R43) -/

/-- A DATA_PUT waits for its storage. -/
def State.putWaits (s : State) : Bool := s.host.late.any (fun i => match i with | .dataPut _ => true | _ => false)

/-- A packet taken from PXU waits behind those that wait already. -/
def State.wait (s : State) (i : Instr) : State := { s with host := { s.host with late := s.host.late ++ [i] } }

/-- A packet whose storage is held waits, and so does one that comes while an earlier DATA_PUT waits: a CMD, DATA_GET or REG_RD by
R43, a DATA_PUT to keep the order of writes (DESIGN CHOICE, log 76). Any other is handled at once. -/
def State.inTurn (s : State) (i : Instr) (held : Bool) (now_ : State) : State := if held || s.putWaits then s.wait i else now_

/-- PXU_PACKET_RELAY (R35, R37, R40, R41): a packet this module does not consume. -/
def execPxuPacketRelay (k : Packet) (s : State) : Out :=
  if (s.port .pxu).st ≠ .active ∨ !s.serving then .next s
  else if s.addressed k && Packet.len k != 2047 && (headerFault k).isNone then .next s
  else
    let s := s.takeRx .pxu k
    if Packet.len k = 2047 then .next (s.badLen .pxu k)
    else if s.addressed k then .next (s.badAndOn k ((headerFault k).getD Status.errRange))
    else if s.host.ident.isNone then .next s
    else if Packet.dir k then .next (s.dropped.packetError k Status.errRange)
    else if Packet.mod k / 8 = s.modNumber / 8 ∧ Packet.mod k > s.modNumber then .next (s.forwardDown k (Packet.mod k))
    else .next s.dropped

/-- PXD_PACKET_RELAY (R35, R40). -/
def execPxdPacketRelay (k : Packet) (s : State) : Out :=
  if (s.port .pxd).st ≠ .active ∨ !s.serving then .next s
  else
    let s := s.takeRx .pxd k
    if Packet.len k = 2047 then .next (s.badLen .pxd k)
    else if Packet.dir k then .next { s with host := { s.host with upRelay := s.host.upRelay ++ [k] } }
    else .next s.dropped

/-- What follows enumeration: the domain forms, or is the module itself (15 R393); a boot that fell back says so (15 R389). -/
def State.joins (s : State) : State :=
  let alone := fld (s.reg Reg.fabCfg) 0 2 = 0
  let s1 : State := { s with dom := { s.dom with
    st := if alone then 2 else 1, decided := decide alone, electAt := s.now, present := if alone then at64 s.modNumber 1 1 else 0 } }
  if s1.boot.tell then
    ({ s1 with boot := { s1.boot with tell := false } } : State).log Cls.image 0 Status.imageFallback (Unit.iod 0x50) (s1.host.ident.getD 0) 0
  else s1

/-- ENUM (R38). -/
def execEnum (k : Packet) (s : State) : Out :=
  .next (s.pxu k 0x9 (fun s =>
    let hop := fld k.dw1 0 3
    let id : BitVec 12 := BitVec.ofNat 12 (fld k.dw1 3 12)
    if hop > 0 then s.forwardDown { k with dw1 := k.dw1 - 1 } (fld id 0 6)
    else
      match s.host.ident with
      | none =>
        let s1 : State := { s with host := { s.host with ident := some id } }
        (s1.respond k Status.ok Config.deviceNumber []).joins
      | some old => s.respond k (if old = id then Status.ok else Status.errRange) Config.deviceNumber []))

/-! ## Results (R54, R55) -/

/-- The outcome of a RESULT_RD: status, REPEAT and whether data follows (Table 2.8). -/
def resultOutcome (x : Slot) (gen : W16) : W16 × Bool × Bool :=
  let d := (x.gen - gen).toNat
  if d = 0 then
    match x.st with
    | .ready => (Status.ok, x.read, true)
    | .armed => (Status.notReady, false, false)
    | .idle => (Status.stale, false, false)
  else if d ≤ 32767 then (Status.stale, false, false)
  else (Status.errRange, false, false)

/-- RESULT_RD (R54): a read changes nothing but the mark for REPEAT. Where no data follows, GEN, CSTATUS and SEQ of the
answer are free values (log 3). -/
def execResultRd (k : Packet) (s : State) : Out :=
  .next (s.pxu k 0x6 (fun s =>
    let i := fld k.dw1 0 12
    let x := s.slot i
    let (st, rep, full) := resultOutcome x (BitVec.ofNat 16 (fld k.dw1 12 16))
    let dw1 : W32 := BitVec.ofNat 32 (st.toNat + b2n rep * 2 ^ 16 + i * 2 ^ 17)
    if full then
      let v : W64 := x.seq ++ (x.cstatus ++ x.gen)
      (s.setSlot i { x with read := true }).respondAs k 0x7 s.modNumber dw1 v x.data
    else
      let (v, s1) := s.draw
      s1.respondAs k 0x7 s.modNumber dw1 v []))

end Sys2Proof.Machine
end

