-- ==== Sys2Proof/Machine/Ctx.lean ====
section
/-! DEFINITION. Sequence contexts: configuration, epochs, PT_EDIT, PT_COMMIT, KV_APPEND (07 R180 to R197). -/
namespace Sys2Proof.Machine

/-! ## Tables -/

/-- The module address of the table buffer of an epoch (R183, R184). -/
def State.ctxBuf (s : State) (c : Nat) (e : W32) : Nat := s.ctxTable c + 131072 * (e.toNat % 4)

/-- The context a command names (R181): KV_APPEND, PT_EDIT, PT_COMMIT. -/
def Cmd.ctx? (c : Cmd) : Option Nat :=
  match Cmd.opcode c with
  | 0x05 => some (if Cmd.full c then Cmd.opnd c 160 6 else Cmd.opnd c 96 6)
  | 0x06 => some (Cmd.opnd c 93 6)
  | 0x07 => some (Cmd.opnd c 0 6)
  | _ => none

def State.pinCount (s : State) (c : Nat) : Nat := (s.cx.pins.filter (fun p => p.ctx == c)).length

/-! ## CTX_CFG (R180, R181) -/

/-- Fields of CTX_CFG that exist (Table 7.3). -/
def ctxCfgMask : W64 := 0x7FFF000FFFFF077F#64

/-- A write to CTX_CFG[c]; none where it is rejected. -/
def State.writeCtxCfg (s : State) (c : Nat) (v : W64) : Option State :=
  let v := v &&& ctxCfgMask
  let old := s.reg (Reg.ctxCfg c)
  match bit old 0, bit v 0 with
  | false, true =>
    if fld v 5 2 ≠ 3 ∧ fld v 8 3 ≤ 4 ∧ 1 ≤ fld v 48 15 ∧ fld v 48 15 ≤ 16384 ∧ s.dpm = false ∧
       (List.range 48).all (fun d => d == c || !s.ctxEnabled d || s.ctxTable d != fld v 16 20 * 524288) = true then
      let s1 := s.setReg (Reg.ctxCfg c) v
      let s2 := s1.zeroRange (s1.ctxTable c) 524288
      some (s2.setCtx c { nextOpen := true })
    else none
  | true, true => if v = old then some s else none
  | true, false =>
    if s.pinCount c = 0 ∧ s.liveCmds.all (fun q => Cmd.ctx? q.2 != some c) = true then some (s.setReg (Reg.ctxCfg c) v) else none
  | false, false => none

/-- CTX_STAT[c] and CTX_USE[c] (Tables 7.4 and 7.5). -/
def State.ctxStat (s : State) (c : Nat) : W64 := at64 0 32 (s.ctx c).epoch.toNat ||| at64 32 32 (s.ctx c).recl.toNat
def State.ctxUse (s : State) (c : Nat) : W64 :=
  at64 0 23 (s.ctx c).len ||| at64 23 1 (b2n (s.ctx c).nextOpen) ||| at64 24 11 (s.pinCount c) ||| at64 36 15 (s.pendRel c)

/-- A REG_WR to a register of a group: acted on by the group's own write function and answered with its status; a broadcast is
not answered (R41, R42, R58). -/
def State.regWrS (s : State) (k : Packet) (mine : Nat → Bool) (write : State → Nat → W64 → State × W16) : State :=
  if !mine (Packet.off k) then s
  else
    s.pxu k 0x3 (fun s =>
      let (s1, st) := if regServed s (Packet.off k) then write s (Packet.off k) (Packet.qw k) else (s, Status.errRange)
      if Packet.bcast k then s1 else s1.respond k st 0 [])

/-- The outcome of a write that is accepted or rejected with ERR_RANGE. -/
def State.orRange (s : State) (o : Option State) : State × W16 :=
  match o with
  | some s1 => (s1, Status.ok)
  | none => (s, Status.errRange)

/-- A REG_WR to a register of a group whose rejection is ERR_RANGE. -/
def State.regWr (s : State) (k : Packet) (mine : Nat → Bool) (write : State → Nat → W64 → Option State) : State :=
  s.regWrS k mine (fun s o v => s.orRange (write s o v))

/-- Offset of CTX_CFG[c]. -/
def isCtxCfg (off : Nat) : Bool := decide (0x70000 ≤ off) && decide (off < 0x70000 + 32 * 48) && off % 32 == 0

/-- CTX_CFG_WRITE (R181). -/
def execCtxCfgWrite (k : Packet) (s : State) : Out :=
  .next (s.regWr k isCtxCfg (fun s off v => s.writeCtxCfg ((off - 0x70000) / 32) v))

/-! ## Epochs (R184, R188) -/

/-- NEXT_EPOCH_OPEN (R184): the next epoch opens once no pin holds epoch N − 4. -/
def execNextEpochOpen (c : BitVec 6) (s : State) : Out :=
  let n := c.toNat
  let x := s.ctx n
  let e := x.epoch + 1
  if s.ctxEnabled n && !x.nextOpen && s.cx.pins.all (fun p => p.ctx != n || p.epoch != e - 4) then
    let s1 := s.copyRange (s.ctxBuf n x.epoch) (s.ctxBuf n e) 131072
    .next (s1.setCtx n { x with nextOpen := true })
  else .next s

/-! ## PT_EDIT (R189 to R191) -/

def Edit.mode (c : Cmd) : Nat := if Cmd.full c then Cmd.opnd c 99 2 else 0
def Edit.first (c : Cmd) : Nat := Cmd.opnd c 64 14
def Edit.count (c : Cmd) : Nat := Cmd.opnd c 78 15

/-- The entries a PT_EDIT writes: from memory, invalid ones, or a run, whose FRAME may leave the field (R190, R191). -/
def State.editEntries (s : State) (c : Cmd) (ctx : Nat) : State × Option (List W64) :=
  let n := Edit.count c
  match Edit.mode c with
  | 0 =>
    let (bs, s1, bad) := s.readRef (.addr (Cmd.opnd c 0 64)) (8 * n)
    if let some k := bad then (s1.unmaskedAt (.addr k), none) else (s1, some ((List.range n).map (fun i => BitVec.ofNat 64 (leAt bs (8 * i) 8))))
  | 1 => (s, some (List.replicate n 0))
  | _ =>
    let e : W64 := BitVec.ofNat 64 (Cmd.opnd c 128 64)
    let sp := 2 ^ Cmd.opnd c 192 4
    (s, some ((List.range n).map (fun i =>
      at64 0 1 1 ||| at64 4 8 ((fld e 4 8 + i % sp) % 256) ||| BitVec.ofNat 64 ((fld e 12 19 + i / sp * s.frameUnits ctx) * 4096))))

/-- Some frame of a valid entry overlaps a park store (R209). -/
def State.entryParked (s : State) (e : W64) (ctx : Nat) : Bool :=
  let a := fld e 12 52 * 4096
  decide (s.parkSlots > 0) && decide (a < s.parkOff + 73728 * s.parkSlots) && decide (s.parkOff < a + s.frameUnits ctx * 4096)

/-- Why an entry is refused at execution (R191, R209). In a run (MODE 2) the reserved bits were checked at submission, and a FRAME
beyond its field breaks the frame rule of R183. -/
def State.entryFault (s : State) (ctx : Nat) (run : Bool) (e : W64) : Option W16 :=
  if !run && (decide (fld e 1 3 ≠ 0) || decide (fld e 31 33 ≠ 0)) then some Status.errReserved
  else if bit e 0 && (decide (fld e 12 52 * 4096 + s.frameUnits ctx * 4096 > 2 ^ 31) || s.entryParked e ctx) then
    some Status.errRange
  else none

/-- An earlier accepted command of the opcode and context has not ended. -/
def State.earlierOf (s : State) (c : Cmd) (p : Cmd → Bool) : Bool :=
  s.liveCmds.any (fun x => decide (x.2.acc < c.acc) && p x.2 && (match x.2.phase with | .ended _ => false | _ => true))

/-- PT_EDIT (R191): waits for an open epoch and for earlier PT_EDITs of its context; every entry is checked before any is
written. `f` is what the code finds while it reads (09 R222). -/
def execPtEdit (q : BitVec 6) (seq : W32) (f : MemFind) (s : State) : Out :=
  match s.findCmd q.toNat seq with
  | none => .next s
  | some c =>
    let ctx := Cmd.opnd c 93 6
    if c.phase ≠ .running ∨ Cmd.opcode c ≠ 0x06 ∨ (s.ctx ctx).nextOpen = false ∨ s.memStopped ∨
       s.earlierOf c (fun x => Cmd.opcode x == 0x06 && Cmd.ctx? x == some ctx) then .next s
    else
      match (s.found f).editEntries c ctx with
      | (s1, none) => .next (s1.endCmd q.toNat seq Status.memUncorrectable [])
      | (s1, some es) =>
        match es.findSome? (s1.entryFault ctx (Edit.mode c == 2)) with
        | some st => .next (s1.endCmd q.toNat seq st [])
        | none =>
          let a := s1.ctxBuf ctx ((s1.ctx ctx).epoch + 1) + 8 * Edit.first c
          let (s2, bad) := s1.writeRef (.addr a) (es.flatMap (fun e => toBytesLE 8 e.toNat))
          .next (s2.endCmd q.toNat seq (if bad.isSome then Status.memUncorrectable else Status.ok) [])

/-! ## PT_COMMIT (R192) -/

/-- Entries released by the open epoch against the current one (R188). -/
def State.releases (s : State) (c : Nat) : Nat :=
  let e := (s.ctx c).epoch
  ((List.range (s.ctxPages c)).filter (fun p =>
    let o := s.pageEntry c e p
    bit o 0 && o != s.pageEntry c (e + 1) p)).length

/-- PT_COMMIT (R192): waits for the PT_EDITs of its context that were running at its dispatch. -/
def execPtCommit (q : BitVec 6) (seq : W32) (s : State) : Out :=
  match s.findCmd q.toNat seq with
  | none => .next s
  | some c =>
    let ctx := Cmd.opnd c 0 6
    let x := s.ctx ctx
    if c.phase ≠ .running ∨ Cmd.opcode c ≠ 0x07 ∨ x.nextOpen = false ∨
       s.liveCmds.any (fun y => decide (y.2.phase = .running) && decide (y.2.disp < c.disp) && Cmd.opcode y.2 == 0x06 &&
         Cmd.ctx? y.2 == some ctx) then .next s
    else
      let n := s.releases ctx
      let e := x.epoch + 1
      let y : Ctx := { x with epoch := e, nextOpen := false,
                              rel := if n = 0 then x.rel else x.rel ++ [(e, n)],
                              rsig := if Cmd.full c && Cmd.opnd c 6 1 == 1 then x.rsig ++ [(e, Cmd.opnd c 7 14)] else x.rsig }
      let s1 := (s.setCtx ctx y).reclaim ctx
      .next (s1.endCmd q.toNat seq Status.ok (toBytesLE 4 e.toNat ++ toBytesLE 2 n ++ List.replicate 26 0))

/-! ## KV_APPEND (R193 to R197) -/

/-- The operands of a KV_APPEND, Plain defaults filled in (Tables 7.13 and 7.14). -/
structure KvArgs where
  ksrc : Nat
  vsrc : Nat
  kp : Nat
  vp : Nat
  count : Nat
  ctx : Nat
  posEn : Bool
  pos : Nat
  stoch : Bool
  tensor : Nat
  deriving DecidableEq, Repr

/-- The packed pitch of R194, and the source of a Plain append: K then V of each head (R193). -/
def State.kvArgs (s : State) (c : Cmd) : KvArgs :=
  if Cmd.full c then
    let hkv := s.ctxHkv (Cmd.opnd c 160 6)
    let pitch (p : Nat) : Nat := if p = 0 then 256 * hkv else 32 * p
    { ksrc := Cmd.opnd c 0 64, vsrc := Cmd.opnd c 64 64, kp := pitch (Cmd.opnd c 216 16), vp := pitch (Cmd.opnd c 232 16),
      count := Cmd.opnd c 128 32, ctx := Cmd.opnd c 160 6, posEn := Cmd.opnd c 166 1 == 1, pos := Cmd.opnd c 168 23,
      stoch := Cmd.opnd c 167 1 == 1, tensor := Cmd.opnd c 192 24 }
  else
    let hkv := s.ctxHkv (Cmd.opnd c 96 6)
    { ksrc := Cmd.opnd c 0 64, vsrc := Cmd.opnd c 0 64 + 256, kp := 512 * hkv, vp := 512 * hkv,
      count := Cmd.opnd c 64 32, ctx := Cmd.opnd c 96 6, posEn := false, pos := 0, stoch := false, tensor := 0 }

/-- Module address of source row (t, h): kv is 0 for K, 1 for V. -/
def KvArgs.row (a : KvArgs) (plain : Bool) (t h kv : Nat) : Nat :=
  let step := if plain then 512 else 256
  if kv = 0 then a.ksrc + t * a.kp + step * h else a.vsrc + t * a.vp + step * h

/-- The smallest BF16 value that is 2^−126 or more and m × 2^e ÷ d or more (R196, 11 R285). -/
def scaleOver (d m : Nat) (e : Int) : Nat :=
  let l := ilog2Q m d + e
  if l < -126 then 0x0080
  else
    let x := l - 7
    let sh := e - x
    let q := if 0 ≤ sh then ceilDiv (m * 2 ^ sh.toNat) d else ceilDiv m (d * 2 ^ (-sh).toNat)
    Fmt.bf16.magCode q x

/-- One triple of 128 source codes converted to the context's format: element bytes, scale bytes, triples or blocks
counted in NONFIN (R196). -/
def kvConvert (kvf : Nat) (rnd : Nat → Rnd) (src : List Nat) : List Byte × List Byte × Nat :=
  let vs := src.map Fmt.bf16.decode
  match kvf with
  | 0 => (src.flatMap (toBytesLE 2), [], 0)
  | 1 =>
    if vs.any (fun v => !v.isFin) then (List.replicate 128 0x7F, [0xC0, 0x7F], 1)
    else
      match vs.foldl (fun (b : Num) v => if b.lt v.abs then v.abs else b) Num.zero with
      | .fin _ 0 _ => (vs.map (fun v => if v.sign then 0x80 else 0x00), [0x80, 0x3F], 0)
      | .fin _ m e =>
        let sc := scaleOver 448 m e
        let codes := vs.zipIdx.map (fun (v, d) => (Fmt.e4m3.storeQuot (rnd d) false (v.divX (Fmt.bf16.decode sc))).1)
        (codes.map (BitVec.ofNat 8), toBytesLE 2 sc, 0)
      | _ => ([], [], 0)
  | _ =>
    let blocks := (chunks 32 vs).map (mxBlock (mxEmax 6))
    let codes := vs.zipIdx.map (fun (v, d) =>
      match (blocks.getD (d / 32) (0x7F, none)).2 with
      | none => 0
      | some k => (mxElem Fmt.e2m3 (rnd d) k v).1)
    (packCodes 6 codes, blocks.map (fun b => BitVec.ofNat 8 b.1), (blocks.filter (fun b => b.1 == 0xFF)).length)

/-- Offsets within one head of a page: bytes of a row, of a row's scales; starts of K elements, K scales, V elements,
V scales (Table 7.6). -/
def kvLayout : Nat → Nat × Nat × Nat × Nat × Nat × Nat
  | 0 => (256, 0, 0, 65536, 65536, 131072)
  | 1 => (128, 2, 0, 32768, 33280, 66048)
  | _ => (96, 4, 0, 24576, 25600, 50176)

/-- Write row t of head h, tensor kv, into every copy of its page; false where a granule refused the write. -/
def State.kvPut (s : State) (ctx : Nat) (e : W64) (t h kv : Nat) (el sc : List Byte) : State × Bool :=
  let (rb, sb, ke, ks, ve, vs) := kvLayout (s.ctxKvf ctx)
  let base := h * headBytes (s.ctxKvf ctx)
  let oe := base + (if kv = 0 then ke else ve) + t * rb
  let os := base + (if kv = 0 then ks else vs) + t * sb
  (s.pageCopies ctx e).foldl
    (fun (p : State × Bool) c =>
      let (s1, b1) := p.1.writeRef (.loc (c + oe)) el
      let (s2, b2) := s1.writeRef (.loc (c + os)) sc
      (s2, p.2 && b1.isNone && b2.isNone)) (s, true)

/-- A row of a KV_APPEND: position, head, 0 K or 1 V, element bytes, scale bytes. -/
structure KvRow where
  p : Nat
  h : Nat
  kv : Nat
  el : List Byte
  sc : List Byte

/-- What the reading half of an append has found: the rows to write, NONFIN, and the byte number that stayed uncorrectable. -/
structure KvRun where
  s : State
  rows : List KvRow := []
  nonfin : Nat := 0
  bad : Option Nat := none

/-- One source row read and converted. -/
def kvStep (a : KvArgs) (plain : Bool) (pos0 : Nat) (ver seed : W64) (r : KvRun) (i : Nat) : KvRun :=
  if r.bad.isSome then r
  else
    let hkv := r.s.ctxHkv a.ctx
    let t := i / (2 * hkv)
    let h := i / 2 % hkv
    let kv := i % 2
    let p := pos0 + t
    let (bs, s1, ue) := r.s.readRef (.addr (a.row plain t h kv)) 256
    if ue.isSome then { r with s := s1, bad := ue }
    else
      let rnd (d : Nat) : Rnd :=
        if a.stoch then .stoch (srBits seed ver a.tensor (((p * 16 + h) * 2 + kv) * 128 + d)) else .rne
      let (el, sc, nf) := kvConvert (s1.ctxKvf a.ctx) rnd (elems 2 bs)
      { s := s1, rows := r.rows ++ [{ p := p, h := h, kv := kv, el := el, sc := sc }], nonfin := r.nonfin + nf }

/-- The rows written through the entries of an epoch; false where a granule refused a write. -/
def State.kvWrite (s : State) (ctx : Nat) (epoch : W32) (rows : List KvRow) : State × Bool :=
  rows.foldl
    (fun (r : State × Bool) w =>
      let (s1, ok) := r.1.kvPut ctx (r.1.pageEntry ctx epoch (w.p / 256)) (w.p % 256) w.h w.kv w.el w.sc
      (s1, r.2 && ok)) (s, true)

/-- Two appends write a common position of one context. -/
def kvOverlap (s : State) (c d : Cmd) : Bool :=
  let a := s.kvArgs c
  let b := s.kvArgs d
  a.ctx == b.ctx && decide (c.pos < d.pos + b.count) && decide (d.pos < c.pos + a.count)

/-- An executed append ends: its pin goes. -/
def State.kvEnd (s : State) (q : Nat) (seq : W32) (st : W16) (data : List Byte) : State :=
  (s.unpinAppend q seq).endCmd q seq st data

/-- What an append does through the epoch it pinned (R195 to R197): every page it touches must be valid there, and one that fails
leaves the contents of its positions unchanged. -/
def State.kvRun (s : State) (q : Nat) (c : Cmd) (epoch : W32) : State :=
  let a := s.kvArgs c
  let pages := (List.range ((c.pos + a.count - 1) / 256 + 1 - c.pos / 256)).map (· + c.pos / 256)
  if pages.all (fun p => bit (s.pageEntry a.ctx epoch p) 0) then
    let r := (List.range (a.count * s.ctxHkv a.ctx * 2)).foldl (kvStep a (!Cmd.full c) c.pos c.ver s.jobSeed) { s := s }
    match r.bad with
    | some k => (r.s.unmaskedAt (.addr k)).kvEnd q c.seq Status.memUncorrectable []
    | none =>
      match r.s.kvWrite a.ctx epoch r.rows with
      | (_, false) => r.s.kvEnd q c.seq Status.memUncorrectable []
      | (s1, true) =>
        s1.kvEnd q c.seq Status.ok (toBytesLE 4 c.pos ++ toBytesLE 4 a.count ++ toBytesLE 4 r.nonfin ++ List.replicate 20 0)
  else s.kvEnd q c.seq Status.errRange []

/-- KV_APPEND (R195 to R197): once no earlier append writes a common position; `f` is what the code finds while it reads (09 R222). -/
def execKvAppend (q : BitVec 6) (seq : W32) (f : MemFind) (s : State) : Out :=
  match s.findCmd q.toNat seq with
  | none => .next s
  | some c =>
    if c.phase ≠ .running ∨ Cmd.opcode c ≠ 0x05 ∨ s.memStopped ∨
       s.earlierOf c (fun x => Cmd.opcode x == 0x05 && kvOverlap s c x) then .next s
    else
      match s.cx.pins.find? (fun p => p.holder == .append q.toNat seq) with
      | none => .next s
      | some pin => .next ((s.found f).kvRun q.toNat c pin.epoch)

end Sys2Proof.Machine
end

