-- ==== Sys2Proof/Machine/MemSide.lean ====
section
/-! DEFINITION. Contributions at their vault, COPY and FILL, DATA_PUT and DATA_GET, MEM_CFG and MSA_SQ (02 R42, R43; 09 R229 to
R243). -/
namespace Sys2Proof.Machine

/-! ## Contributions at their vault (R229, R230, R235) -/

/-- A contribution that is not applied was an order error: the tile that sent it faults (R229). -/
def State.orderFault (s : State) (c : Contrib) : State :=
  match c.src with
  | .tile t q seq pc =>
    if (s.tile t).launch == some (q, seq) then s.progFault t pc { cause := .order, addr := s.locAddr (64 * c.gran) } else s
  | .fabric => s

/-- A contribution reaches its vault: its granule is read under R225, and it is applied, held, discarded, or offered again. -/
def State.arrive (s : State) (i : Nat) (c : Contrib) (lost : Bool) : State :=
  let s1 : State := { s with mem := { s.mem with fly := s.mem.fly.eraseIdx i } }
  let (s2, ok) := if c.op = 2 then (s1, !lost) else s1.repairGranule c.gran
  if ok then
    match s2.offer c with
    | (s3, .discarded) => s3.orderFault c
    | (_, .refused) => s
    | (s3, _) => s3
  else s2.contribLost c

/-- CONTRIBUTION_ARRIVE (R229): contribution i of those on their way reaches its vault; `f` is what the code and the residue check
of the adder find while it and the held ones after it are applied (R222, R235). -/
def execContributionArrive (i : Nat) (f : MemFind) (s : State) : Out :=
  match s.mem.fly[i]? with
  | none => .next s
  | some c =>
    if s.locStopped (64 * c.gran) then .next s
    else .next ((s.found f).arrive i c (f.res.any (fun r => r.1 == c.gran && r.2 == 3)))

/-! ## SQ registers and MEM_CFG (R233, R243) -/

/-- A write to MSA_SQ[v]: CLR clears the register and its held contributions. -/
def State.writeMsaSq (s : State) (v : Nat) (w : W64) : State :=
  if bit w 53 then
    let s1 := s.setSq v {}
    { s1 with mem := { s1.mem with held := s1.mem.held.filter (fun c => !(fld c.ctl 0 2 == 2 && locVault (64 * c.gran) == v)) } }
  else s

def isMsaSq (off : Nat) : Bool := decide (0x92000 ≤ off) && decide (off < 0x92800) && off % 8 == 0

/-- MSA_SQ_CLR (R233, Table 9.13). -/
def execMsaSqClr (k : Packet) (s : State) : Out :=
  .next (s.regWr k isMsaSq (fun s off v => some (s.writeMsaSq ((off - 0x92000) / 8) v)))

/-- A write to MEM_CFG (R243). -/
def State.writeMemCfg (s : State) (w : W64) : Option State :=
  let il := fld w 0 2
  if il = 3 ∨ (il ≠ s.il ∧ s.busy = true) then none else some (s.setReg Reg.memCfg (at64 0 2 il))

/-- MEM_CFG_WRITE (R216, R243). -/
def execMemCfgWrite (k : Packet) (s : State) : Out :=
  .next (s.regWr k (fun o => o == Reg.memCfg) (fun s _ v => s.writeMemCfg v))

/-! ## COPY and FILL (R237 to R240) -/

/-- Write up to the first granule that refuses a partial write: the state and the bytes written. -/
def State.putUntil (s : State) : Nat → Ref → List Byte → State × Nat
  | 0, _, _ => (s, 0)
  | _ + 1, _, [] => (s, 0)
  | fuel + 1, r, b :: bs =>
    let n := pieceLen r.num
    let p := (b :: bs).take n
    let (s1, ok) := s.putRefPiece r p
    if ok then
      let (s2, m) := State.putUntil s1 fuel (r.add n) ((b :: bs).drop n)
      (s2, p.length + m)
    else (s, 0)

/-- Module address of the granule of byte k of a reference. -/
def State.granAddr (s : State) (r : Ref) (k : Nat) : Nat :=
  match s.refLoc (r.add k) with
  | some l => s.locAddr (l / 64 * 64)
  | none => 0

/-- The 32 bytes of result data of a COPY or FILL (R240). -/
def copyData (n a : Nat) : List Byte := toBytesLE 8 n ++ toBytesLE 8 a ++ List.replicate 16 0

/-- The end of a command that wrote n of its bytes, stopped with a status at an address, if it was. -/
def State.copyEnd (s : State) (q : Nat) (seq : W32) (n : Nat) (stop : Option (W16 × Nat)) : State :=
  match stop with
  | none => s.endCmd q seq Status.ok (copyData n 0)
  | some (st, a) => s.endCmd q seq st (copyData n a)

/-- Operands of a COPY (Table 9.5): source, destination, bytes. -/
def State.copySrc (s : State) (c : Cmd) : Ref := s.refOf (BitVec.ofNat 64 (Cmd.opnd c 0 64))
def State.copyDst (s : State) (c : Cmd) : Ref := s.refOf (BitVec.ofNat 64 (Cmd.opnd c 64 64))
def copyLen (c : Cmd) : Nat := Cmd.opnd c 128 32 * 32
def copyOp (c : Cmd) : Nat := if Cmd.full c then Cmd.opnd c 160 3 else 0
/-- The control word of the rounds of one of a COPY with OP = 1 (R240). -/
def copyCtl (c : Cmd) : W64 :=
  at64 2 2 (Cmd.opnd c 163 2) ||| at64 4 1 (Cmd.opnd c 165 1) ||| at64 5 1 1 ||| at64 38 24 (Cmd.opnd c 166 24)

/-- A command whose queue is of class STEP (R21, R152). -/
def State.isStep (s : State) (q : Nat) : Bool := s.qClass q == 1

/-- Accumulate source granules into destination granules in ascending order (R240): bytes accumulated, and why it stopped. -/
def State.copyAcc (s : State) (c : Cmd) (step : Bool) : Nat → Nat → State × Nat × Option (W16 × Nat)
  | 0, k => (s, k, none)
  | n + 1, k =>
    let src := (s.copySrc c).add k
    let dst := (s.copyDst c).add k
    let (bs, s1, bad) := s.readRef src 64
    match s1.refLoc dst with
    | none => (s1, k, none)
    | some loc =>
      if bad.isSome then
        (s1.unmaskedAt src, k, some (Status.memUncorrectable, s1.granAddr src 0))
      else
        let (s2, ok) := s1.repairGranule (loc / 64)
        if !ok then (s2.unmasked loc, k, some (Status.memUncorrectable, s2.granAddr dst 0))
        else
          let x : Contrib := { src := .fabric, gran := loc / 64, ctl := copyCtl c, data := bs, ver := c.ver, step := step }
          match s2.offer x with
          | (s3, .discarded) => (s3, k, some (Status.errRange, s3.granAddr dst 0))
          | (s3, _) => State.copyAcc (s3.markOpt dst 64) c step n (k + 64)

/-- A range a command writes is still in use by the training job (10 R247), or its memory has stopped (14 R371). -/
def State.writeHeld (s : State) (r : Ref) (n : Nat) : Bool := s.refAny r n s.heldWrite

/-- A range a command reads lies in memory that has stopped (14 R371). -/
def State.readHeld (s : State) (r : Ref) (n : Nat) : Bool := s.memStopped && s.refAny r n s.locStopped

/-- A range that may not be written when a COPY or FILL comes to execute, such as a buffer committed since its acceptance: ERR_RANGE,
with nothing written (10 R246; DEDUCED, log 89). -/
def State.writeDenied (s : State) (r : Ref) (n : Nat) : Bool := s.refAny r n s.denyWrite

/-- What a COPY does (R237, R240): the whole source is read before the first write, or granules are accumulated. -/
def State.copyRun (s : State) (q : Nat) (c : Cmd) : State :=
  if s.writeDenied (s.copyDst c) (copyLen c) then s.endCmd q c.seq Status.errRange (copyData 0 0)
  else if copyOp c = 1 then
    let (s1, n, stop) := s.copyAcc c (s.isStep q) (copyLen c / 64) 0
    s1.copyEnd q c.seq n stop
  else
    let src := s.copySrc c
    let (bs, s1, bad) := s.readRef src (copyLen c)
    let (s2, n) := s1.putUntil (bs.length + 1) (s1.copyDst c) bs
    let s3 := s2.markOpt (s2.copyDst c) n
    if n < bs.length then s3.copyEnd q c.seq n (some (Status.memUncorrectable, s3.granAddr (s3.copyDst c) n))
    else if bad.isSome then
      let s4 := s3.unmaskedAt (src.add n)
      s4.copyEnd q c.seq n (some (Status.memUncorrectable, s4.granAddr src n))
    else s3.copyEnd q c.seq n none

/-- COPY (R237, R240), by one of at most eight copy engines; `f` is what the code and the residue check find (R222, R235). -/
def execCopy (q : BitVec 6) (seq : W32) (f : MemFind) (s : State) : Out :=
  match s.findCmd q.toNat seq with
  | none => .next s
  | some c =>
    if c.phase ≠ .running ∨ Cmd.opcode c ≠ 0x02 ∨ s.writeHeld (s.copyDst c) (copyLen c) ∨
       s.readHeld (s.copySrc c) (copyLen c) then .next s
    else .next ((s.found f).copyRun q.toNat c)

/-- The destination and the length of a FILL, and the 8 bytes it repeats (Table 9.6). -/
def State.fillDst (s : State) (c : Cmd) : Ref := s.refOf (BitVec.ofNat 64 (Cmd.opnd c 0 64))
def fillLen (c : Cmd) : Nat := Cmd.opnd c 64 32 * 32
def fillPattern (c : Cmd) : List Byte :=
  if Cmd.full c then toBytesLE 8 (Cmd.opnd c 96 64) else toBytesLE 4 (Cmd.opnd c 96 32) ++ toBytesLE 4 (Cmd.opnd c 96 32)

/-- FILL (R238, R240). -/
def execFill (q : BitVec 6) (seq : W32) (s : State) : Out :=
  match s.findCmd q.toNat seq with
  | none => .next s
  | some c =>
    if c.phase ≠ .running ∨ Cmd.opcode c ≠ 0x03 ∨ s.writeHeld (s.fillDst c) (fillLen c) then .next s
    else if s.writeDenied (s.fillDst c) (fillLen c) then .next (s.endCmd q.toNat seq Status.errRange (copyData 0 0))
    else
      let bs := (List.replicate (fillLen c / 8) (fillPattern c)).flatten
      let (s1, n) := s.putUntil (bs.length + 1) (s.fillDst c) bs
      let s2 := s1.markOpt (s1.fillDst c) n
      .next (s2.copyEnd q.toNat seq n
        (if n < bs.length then some (Status.memUncorrectable, s2.granAddr (s2.fillDst c) n) else none))

/-! ## DATA_PUT and DATA_GET (02 R42, R43) -/

/-- The reference of a DATA_PUT or DATA_GET: an address, or with HANDLE = 1 a buffer and offset. -/
def dataRef (hnd : Bool) (v : W64) : Ref := if hnd then .hnd (fld v 0 32) (fld v 32 32) else .addr v.toNat

/-- R42 for a range of n bytes. -/
def State.dataOk (s : State) (r : Ref) (n : Nat) : Bool := decide (r.num % 32 = 0) && s.handleOk none r && s.refFits r n &&
  (!s.recovery || (match r with | .addr a => inOuter a | _ => false))

/-- The storage a DATA_PUT writes, and whether the packet may write it (R42, R187, R209, R246). -/
def putRef (k : Packet) : Ref := dataRef (bit k.dw1 0) (Packet.qw k)
def State.putOk (s : State) (k : Packet) : Bool :=
  let n := (Packet.data k).length
  s.dataOk (putRef k) n && !s.refAny (putRef k) n s.denyWrite
/-- Storage still in use holds the packet (10 R247; 14 R371). -/
def State.putHeld (s : State) (k : Packet) : Bool := s.putOk k && s.writeHeld (putRef k) (Packet.data k).length

/-- What a DATA_PUT does: written whole, or rejected; a partial write of an uncorrectable granule answers MEM_UNCORRECTABLE. -/
def State.putNow (s : State) (k : Packet) : State :=
  if !s.putOk k then s.respond k Status.errRange 0 []
  else
    let (s1, bad) := s.writeRef (putRef k) (Packet.data k)
    (s1.markOpt (putRef k) (Packet.data k).length).respond k (if bad.isSome then Status.memUncorrectable else Status.ok) 0 []

/-- DATA_PUT (R42, R43, R187, R209, R246). -/
def execDataPut (k : Packet) (s : State) : Out :=
  .next (s.pxu k 0x4 (fun s => s.inTurn (.dataPut k) (s.putHeld k) (s.putNow k)))

/-- Bytes a DATA_GET asks for: 32-byte units in DW1. -/
def getLen (k : Packet) : Nat := 32 * fld k.dw1 1 11

/-- A DATA_GET may read what it names (R42, R209): GLEN outside 1 to 2,046 is out of range (DESIGN CHOICE, log 77). -/
def State.getOk (s : State) (k : Packet) : Bool :=
  decide (0 < getLen k) && decide (getLen k ≤ 32 * 2046) && s.dataOk (putRef k) (getLen k) &&
  !s.refAny (putRef k) (getLen k) s.denyRead
/-- Memory that is stopped holds the packet (14 R371). -/
def State.getHeld (s : State) (k : Packet) : Bool := s.getOk k && s.readHeld (putRef k) (getLen k)

/-- What a DATA_GET does (R43): `f` is what the code finds during the read. -/
def State.getNow (s : State) (k : Packet) (f : MemFind) : State :=
  if !s.getOk k then s.respond k Status.errRange 0 []
  else
    let (bs, s1, bad) := (s.found f).readRef (putRef k) (getLen k)
    match bad with
    | none => s1.respond k Status.ok 0 bs
    | some _ =>
      (s1.unmaskedAt ((putRef k).add bs.length)).respond k Status.memUncorrectable 0 []

/-- DATA_GET (R42, R43). -/
def execDataGet (k : Packet) (f : MemFind) (s : State) : Out :=
  .next (s.pxu k 0x5 (fun s => s.inTurn (.dataGet k f) (s.getHeld k) (s.getNow k f)))

end Sys2Proof.Machine
end

