-- ==== Sys2Proof/Machine/Dpm.lean ====
section
/-! DEFINITION. Drikel placement mode: buffers and handles, and the memory plan (09 R241, R242). -/
namespace Sys2Proof.Machine

/-! ## Room (Table 9.7) -/

/-- Buffers whose storage is taken. -/
def State.heldBufs (s : State) : List DpmBuf :=
  s.mem.dpm.filterMap (fun e => match e.2 with | some b => if s.bufHeld b then some b else none | none => none)

/-- Frames of 4 KiB in use, as vault and frame, of the first copy and of the mirror. -/
def DpmBuf.used (b : DpmBuf) : List (Nat × Nat) :=
  b.frames.zipIdx.map (fun (f, g) => ((b.vault0 + g) % 256, f)) ++
  b.mframes.zipIdx.map (fun (f, g) => ((b.vault0 + g + 128) % 256, f))

/-- Frames a park store leaves out (08 R209). -/
def State.frameParked (s : State) (f : Nat) : Bool :=
  decide (s.parkSlots > 0) && decide (f * 4096 < s.parkOff + 73728 * s.parkSlots) && decide (s.parkOff < f * 4096 + 4096)

/-- The lowest free frame of a vault (log 22). -/
def State.freeFrame (s : State) (used : List (Nat × Nat)) (v : Nat) : Option Nat :=
  (List.range 524288).find? (fun f => !used.contains (v, f) && !s.frameParked f)

/-- Frames for n granules round robin from a vault; none where some vault has no room. -/
def State.takeFrames (s : State) (v0 : Nat) : Nat → Nat → List (Nat × Nat) → Option (List Nat × List (Nat × Nat))
  | 0, _, used => some ([], used)
  | n + 1, g, used =>
    let v := (v0 + g) % 256
    match s.freeFrame used v with
    | none => none
    | some f =>
      match State.takeFrames s v0 n (g + 1) ((v, f) :: used) with
      | some (fs, u) => some (f :: fs, u)
      | none => none

/-- The lowest outer-tier base, a multiple of 1 KiB, with room for n bytes (log 22). -/
def State.freeOuter (s : State) (n : Nat) : Option Nat :=
  let bufs := s.heldBufs.filter (fun b => !b.near)
  let cands := outerBase :: bufs.map (fun b => ceilDiv (b.base + b.size) 1024 * 1024)
  let ok := cands.filter (fun a =>
    decide (a + n ≤ outerEnd) && bufs.all (fun b => decide (a + n ≤ b.base) || decide (b.base + b.size ≤ a)))
  ok.foldl (fun (m : Option Nat) a => match m with | some x => some (min x a) | none => some a) none

/-- A near-tier buffer of n bytes placed from the next vault (Table 9.7). -/
def State.placeNear (s : State) (cls n : Nat) (mirror : Bool) : Option DpmBuf :=
  let used := s.heldBufs.flatMap DpmBuf.used
  let v0 := s.mem.dpmNext
  match s.takeFrames v0 (n / 4096) 0 used with
  | none => none
  | some (fs, u) =>
    let b : DpmBuf := { gen := 0, cls := cls, mirror := mirror, size := n, near := true, vault0 := v0, frames := fs, base := 0,
                        mframes := [], live := true, waits := [] }
    if mirror then
      match s.takeFrames ((v0 + 128) % 256) (n / 4096) 0 u with
      | some (ms, _) => some { b with mframes := ms }
      | none => none
    else some b

def State.placeOuter (s : State) (cls n : Nat) : Option DpmBuf :=
  (s.freeOuter n).map (fun a =>
    { gen := 0, cls := cls, mirror := false, size := n, near := false, vault0 := 0, frames := [], base := a, mframes := [],
      live := true, waits := [] })

/-! ## Handles (R241) -/

/-- The lowest INDEX whose storage is free, and its next GEN (log 22). -/
def State.freeIndex (s : State) : Option (Nat × Nat) :=
  (List.range 65535).findSome? (fun k =>
    match Tab.get none s.mem.dpm (k + 1) with
    | none => some (k + 1, 0)
    | some b => if s.bufHeld b then none else some (k + 1, (b.gen + 1) % 2 ^ 16))

/-- Give a placed buffer its handle; 0 where no INDEX is free. -/
def State.addBuf (s : State) (b : DpmBuf) : State × Nat :=
  match s.freeIndex with
  | none => (s, 0)
  | some (i, g) =>
    ({ s with mem := { s.mem with dpm := Tab.put none s.mem.dpm i (some { b with gen := g }),
                                  dpmNext := if b.near then (b.vault0 + b.frames.length) % 256 else s.mem.dpmNext } },
     i + g * 2 ^ 16)

/-- DPM_RESULT (Table 9.10). -/
def dpmResult (h : Nat) (st : W16) (outer : Bool) (disp : Nat) : W64 :=
  at64 0 32 h ||| at64 32 16 st.toNat ||| at64 48 1 (b2n outer) ||| at64 49 2 disp

def State.setDpmResult (s : State) (v : W64) : State := { s with mem := { s.mem with dpmResult := v } }

/-- Record the outcome of a placement. -/
def State.placed (s : State) (b : Option DpmBuf) (disp : Nat) : State :=
  match b with
  | none => s.setDpmResult (dpmResult 0 Status.bufOver false disp)
  | some b =>
    match s.addBuf b with
    | (_, 0) => s.setDpmResult (dpmResult 0 Status.bufOver false disp)
    | (s1, h) => s1.setDpmResult (dpmResult h Status.ok (!b.near) disp)

/-- A write to DPM_ALLOC (R241). -/
def State.writeDpmAlloc (s : State) (w : W64) : Option State :=
  let size := fld w 0 32
  let cls := fld w 32 4
  let mirror := bit w 36
  let layer := fld w 37 10
  let n := size * 4096
  let bad := some (s.setDpmResult (dpmResult 0 Status.errRange false 0))
  if fld w 47 17 ≠ 0 then none
  else if !s.dpm || size == 0 || size == 0xFFFFFFFF || decide (cls > 5) || (mirror && decide (cls > 2)) ||
          (cls != 3 && layer != 0) then bad
  else
    match cls with
    | 3 =>
      match s.mem.plan with
      | none => bad
      | some p =>
        match p.dec[layer]? with
        | none => bad
        | some 0 => some (s.placed (s.placeNear 3 n false) 0)
        | some 1 => some (s.placed (s.placeOuter 3 (ceilDiv (ceilDiv (n * 16) p.ratio) 1024 * 1024)) 1)
        | some _ => some (s.setDpmResult (dpmResult 0 Status.ok false 2))
    | 4 =>
      match s.placeNear 4 n false with
      | some b => some (s.placed (some b) 0)
      | none => some (s.placed (s.placeOuter 4 n) 0)
    | 5 => some (s.placed (s.placeOuter 5 n) 0)
    | c => some (s.placed (s.placeNear c n mirror) 0)

/-- A write to DPM_FREE (R241). -/
def State.writeDpmFree (s : State) (w : W64) : Option State :=
  if fld w 32 32 ≠ 0 then none
  else
    match s.dpmBuf (fld w 0 32) with
    | none => none
    | some b =>
      if !b.live then none
      else
      let d : DpmBuf := { b with live := false, waits := s.liveCmds.map (fun c => (c.1, c.2.seq)) }
      some { s with mem := { s.mem with dpm := Tab.put none s.mem.dpm (fld w 0 16) (some d) } }

/-- DPM_ALLOC (R241). -/
def execDpmAlloc (k : Packet) (s : State) : Out :=
  .next (s.regWr k (fun o => o == 0x90010) (fun s _ v => s.writeDpmAlloc v))

/-- DPM_FREE (R241). -/
def execDpmFree (k : Packet) (s : State) : Out :=
  .next (s.regWr k (fun o => o == 0x90020) (fun s _ v => s.writeDpmFree v))

/-! ## Memory plan (R242) -/

/-- A write to PLAN_REQ. -/
def State.writePlanReq (s : State) (w : W64) : Option State :=
  if fld w 42 22 ≠ 0 ∨ s.mem.planAddr.isSome then none
  else some { s with mem := { s.mem with planAddr := some (fld w 0 42) } }

/-- PLAN_REQ (R242): BUSY is set. -/
def execPlanReq (k : Packet) (s : State) : Out :=
  .next (s.regWr k (fun o => o == 0x90030) (fun s _ v => s.writePlanReq v))

/-- What is left while the plan is decided from the last layer down. -/
structure PlanRun where
  near : Nat
  outer : Nat
  /-- Bytes sent out so far. -/
  sent : Nat
  dec : List Nat

/-- One layer: 2 × bytes ÷ bw ≤ step_ms ÷ 1,000, in whole numbers (log 22). -/
def planStep (mb ratio stepMs pct : Nat) (r : PlanRun) (size : Nat) : PlanRun :=
  let n := mb * size
  let e := ceilDiv (n * 16) ratio
  if n ≤ r.near then { r with near := r.near - n, dec := 0 :: r.dec }
  else if e ≤ r.outer ∧ 2 * (r.sent + e) * 100 * 1000 ≤ stepMs * (1228800000000 * pct) then
    { r with outer := r.outer - e, sent := r.sent + e, dec := 1 :: r.dec }
  else { r with dec := 2 :: r.dec }

/-- Why a request header is refused, with the bytes the request and the decisions take (Table 9.8). -/
def planFault (h : List Byte) (a : Nat) : Option W16 :=
  let nl := leAt h 0 2
  let mb := leAt h 2 1
  let ratio := leAt h 3 1
  let pct := leAt h 20 1
  if leAt h 4 4 ≠ 0 ∨ leAt h 21 11 ≠ 0 ∨ nl = 0 ∨ nl > 1024 ∨ mb = 0 ∨ mb > 64 ∨ ratio < 16 ∨ leAt h 16 4 = 0 ∨ pct = 0 ∨ pct > 100 then
    some Status.errRange
  else if !inOneTier a (32 + 8 * nl + ceilDiv nl 32 * 32) then some Status.bufOver
  else none

/-- The plan ends with a status, BUSY clears. -/
def State.planEnd (s : State) (st : W16) : State := { s with mem := { s.mem with planAddr := none, planStatus := st } }

/-- The plan of the request at a with header h: read, decided and written back. -/
def State.planRun (s : State) (a : Nat) (h : List Byte) : State :=
  let nl := leAt h 0 2
  match s.readRef (.addr (a + 32)) (8 * nl) with
  | (_, s1, some k) => (s1.unmaskedAt (.addr k)).planEnd Status.errRange
  | (bs, s1, none) =>
    let sizes := (List.range nl).map (fun l => leAt bs (8 * l) 8)
    let ratio := leAt h 3 1
    let r := sizes.reverse.foldl (planStep (leAt h 2 1) ratio (leAt h 16 4) (leAt h 20 1))
      { near := leAt h 8 4 * 2 ^ 20, outer := leAt h 12 4 * 2 ^ 20, sent := 0, dec := [] }
    match s1.writeRef (.addr (a + 32 + 8 * nl)) (padTo 32 (r.dec.map (BitVec.ofNat 8))) with
    | (s2, some _) => s2.planEnd Status.errRange
    | (s2, none) => ({ s2 with mem := { s2.mem with plan := some { ratio := ratio, dec := r.dec, sizes := sizes } } } : State).planEnd Status.ok

/-- PLAN_COMPLETE (R242): the request is read, decided and written back, BUSY clears. A request outside the tiers or not on 32
bytes is ERR_RANGE, reserved fields too, and data that stays uncorrectable, since STATUS has no other error for them (log 22). `f` is
what the code finds (R222). -/
def execPlanComplete (f : MemFind) (s : State) : Out :=
  match s.mem.planAddr with
  | none => .next s
  | some a =>
    if a % 32 ≠ 0 ∨ !inTier a then .next (s.planEnd Status.errRange)
    else if !inOneTier a 32 then .next (s.planEnd Status.bufOver)
    else
      match (s.found f).readRef (.addr a) 32 with
      | (_, s1, some k) => .next ((s1.unmaskedAt (.addr k)).planEnd Status.errRange)
      | (h, s1, none) =>
        match planFault h a with
        | some st => .next (s1.planEnd st)
        | none => .next (s1.planRun a h)

end Sys2Proof.Machine
end

