-- ==== Sys2Proof/Machine/Ring.lean ====
section
/-! DEFINITION. The Woad ring: configuration, formation, rotations, gradients and park stores (08 R198 to R214). -/
namespace Sys2Proof.Machine

/-! ## Settings (Tables 8.2 to 8.4) -/

def Reg.wrCfg (r : Nat) : Nat := 0x80000 + 64 * r
def Reg.wrGbuf (r : Nat) : Nat := 0x80008 + 64 * r
def State.wr (s : State) (r lo n : Nat) : Nat := fld (s.reg (Reg.wrCfg r)) lo n
def State.wrShape (s : State) (r : Nat) : Nat := s.wr r 1 2
def State.wrBidir (s : State) (r : Nat) : Bool := s.wr r 7 1 == 1
def State.wrGrad (s : State) (r : Nat) : Bool := s.wr r 8 1 == 1
def State.wrCtx (s : State) (r : Nat) : Nat := s.wr r 9 6
def State.wrBlkpg (s : State) (r : Nat) : Nat := s.wr r 15 7
def State.wrSlots (s : State) (r : Nat) : Nat := s.wr r 33 3
def State.wrNsig (s : State) (r : Nat) : Nat := s.wr r 44 9
/-- B, the first of the ring's sync objects. -/
def State.wrObj (s : State) (r : Nat) : Nat := 64 * s.wr r 36 8
/-- BPS, PPS and R of R201. -/
def State.wrBps (s : State) (r : Nat) : Nat := 2 * s.wr r 22 11
def State.wrPps (s : State) (r : Nat) : Nat := s.wrBps r * s.wrBlkpg r
def State.wrRegion (s : State) (r : Nat) : Nat := s.wrPps r * 256 * s.ctxHkv (s.wrCtx r) * 512
def State.wrSum (s : State) (r k : Nat) : Nat := fld (s.reg (Reg.wrGbuf r)) 0 39 + 2 * k * s.wrRegion r
def State.wrIn (s : State) (r k : Nat) : Nat := fld (s.reg (Reg.wrGbuf r)) 0 39 + (2 * k + 1) * s.wrRegion r

/-! ## Positions (R199, Table 8.1) -/

def layerXY : List (Nat × Nat) :=
  [(0, 0), (1, 0), (2, 0), (3, 0), (3, 1), (2, 1), (1, 1), (1, 2), (2, 2), (3, 2), (3, 3), (2, 3), (1, 3), (0, 3), (0, 2), (0, 1)]

/-- P. -/
def ringSize (shape zz : Nat) : Nat :=
  match shape with
  | 0 => 4
  | 1 => 16
  | _ => 16 * zz

/-- Module number of ring position p. -/
def ringModule (shape ysel zsel p : Nat) : Nat :=
  match shape with
  | 0 => p + 4 * ysel + 16 * zsel
  | 1 => let (x, y) := layerXY.getD p (0, 0); x + 4 * y + 16 * zsel
  | _ =>
    let z := p / 16
    let j := p % 16
    let (x, y) := layerXY.getD (if z % 2 = 0 then j else 15 - j) (0, 0)
    x + 4 * y + 16 * z

def State.wrSize (s : State) (r : Nat) : Nat := ringSize (s.wrShape r) (torusZ s.shape)
/-- The role at position p. -/
def State.wrRole (s : State) (r p : Nat) : BitVec 12 :=
  BitVec.ofNat 12 (64 * domainOf s.ownIdent + ringModule (s.wrShape r) (s.wr r 3 2) (s.wr r 5 2) p)
/-- This module's position; P where it has none. -/
def State.wrPos (s : State) (r : Nat) : Nat :=
  (List.range (s.wrSize r)).findIdx (fun p => s.wrRole r p == s.myRole)
/-- The module that holds the next position, and the one before. -/
def State.wrNext (s : State) (r : Nat) : BitVec 12 := s.holderOf (s.wrRole r ((s.wrPos r + 1) % s.wrSize r))
def State.wrPrev (s : State) (r : Nat) : BitVec 12 := s.holderOf (s.wrRole r ((s.wrPos r + s.wrSize r - 1) % s.wrSize r))

def State.ringOf (s : State) (r : Nat) : Ring := Tab.get {} s.ring r
def State.setRing (s : State) (r : Nat) (x : Ring) : State := { s with ring := Tab.put {} s.ring r x }

/-- WR_STAT (Table 8.5). -/
def State.wrStat (s : State) (r : Nat) : W64 :=
  let x := s.ringOf r
  if x.st = 0 then at64 15 3 x.err ||| at64 32 32 x.rot.toNat
  else at64 0 2 x.st ||| at64 2 6 (s.wrPos r) ||| at64 8 7 (s.wrSize r) ||| at64 15 3 x.err ||| at64 32 32 x.rot.toNat

/-! ## WR_CFG, WR_GBUF and PARK_CFG (R202, R209) -/

/-- The bits of WR_CFG that are stored: YSEL is reserved but in shape X, ZSEL in shape XYZ (Table 8.3), and a reserved bit is ignored
on write and reads 0 (R8). -/
def wrCfgMask (v : W64) : W64 :=
  let m : W64 := if fld v 1 2 = 0 then 0x001FFFFFFFFFFFFF#64 else 0x001FFFFFFFFFFFE7#64
  if fld v 1 2 = 2 then m &&& ~~~(0x60#64) else m

/-- The conditions of R202 on a setting about to be enabled, `s` holding it already. -/
def State.ringOk (s : State) (r : Nat) : Bool :=
  let c := s.wrCtx r
  let zz := torusZ s.shape
  decide (s.wrShape r ≠ 3) && decide (4 ≤ s.wrBlkpg r) && decide (s.wrBlkpg r ≤ 64) && decide (1 ≤ s.wr r 22 11) &&
  decide (s.wr r 22 11 ≤ 1024) && decide (2 ≤ s.wrSlots r) && decide (s.wrSlots r ≤ 4) && decide (1 ≤ s.wrNsig r) &&
  decide (s.wrNsig r ≤ 256) && decide (c < 48) &&
  decide (zz ≠ 0) && (s.wrShape r == 2 || decide (s.wr r 5 2 < zz)) && decide (s.wrPos r < s.wrSize r) &&
  !s.dpm && s.ctxEnabled c && decide ((1 + s.wrSlots r * (1 + s.wr r 7 1)) * s.wrPps r ≤ s.ctxPages c) &&
  (List.range 4).all (fun q => q == r || s.wr q 0 1 == 0 || (s.wrCtx q != c && s.wrObj q != s.wrObj r)) &&
  (!s.wrGrad r ||
    (!s.wrBidir r && s.ctxKvf c == 0 && decide (s.wrSum r 0 % 4096 = 0) && decide (s.wrSum r (s.wrSlots r + 1) ≤ nearSize)))

/-- A write to WR_CFG[r] (R202). -/
def State.writeWrCfg (s : State) (r : Nat) (v : W64) : Option State :=
  let w := v &&& wrCfgMask v
  let old := s.reg (Reg.wrCfg r)
  match bit old 0, bit w 0 with
  | false, true =>
    let s1 := s.setReg (Reg.wrCfg r) w
    if s1.ringOk r then some (s1.setRing r { st := 1 }) else none
  | true, true => if w = old then some s else none
  | true, false => if (s.ringOf r).on then none else some ((s.setReg (Reg.wrCfg r) w).setRing r {})
  | false, false => none

def isWrCfg (off : Nat) : Bool := decide (0x80000 ≤ off) && decide (off < 0x80100) && off % 64 == 0

/-- WR_CFG_WRITE (R202, R203). -/
def execWrCfgWrite (k : Packet) (s : State) : Out :=
  .next (s.regWr k isWrCfg (fun s off v => s.writeWrCfg ((off - 0x80000) / 64) v))

/-- A write to PARK_CFG (R209). -/
def State.writeParkCfg (s : State) (v : W64) : Option State :=
  if s.busy ∨ fld v 0 31 % 4096 ≠ 0 ∨ fld v 0 31 + 73728 * fld v 31 12 > 2 ^ 31 then none
  else some (s.setReg Reg.parkCfg (at64 0 43 (fld v 0 43)))

/-- PARK_CFG_WRITE (R209). -/
def execParkCfgWrite (k : Packet) (s : State) : Out :=
  .next (s.regWr k (fun o => o == Reg.parkCfg) (fun s _ v => s.writeParkCfg v))

/-! ## Formation (R203, R214) -/

/-- The hash of the settings that must match. -/
def State.wrHash (s : State) (r : Nat) : W64 :=
  Config.ringHash [s.wrShape r, s.wr r 3 2, s.wr r 5 2, s.wr r 7 1, s.wr r 8 1, s.wrBlkpg r, s.wr r 22 11, s.wrSlots r,
    s.ctxHkv (s.wrCtx r), s.ctxKvf (s.wrCtx r)]

/-- RING_HASH_SEND (R203): each 1 ms, while the ring forms and after, so that the last neighbour to enable hears it as well. -/
def execRingHashSend (r : BitVec 2) (s : State) : Out :=
  let n := r.toNat
  let x := s.ringOf n
  let due : Bool := match x.hashAt with | none => true | some t => decide (s.now - t ≥ msec)
  if (x.st = 1 ∨ x.st = 2) ∧ due = true then
    let s1 := s.setRing n { x with hashAt := some s.now }
    .next ((s1.sendMsg (s1.wrNext n) (.ringHash r (s1.wrHash n))).sendMsg (s1.wrPrev n) (.ringHash r (s1.wrHash n)))
  else .next s

/-- A neighbour's hash arrives (R203); it tells a member that no longer forms nothing (DEDUCED, log 23). -/
def State.ringHashFrom (s : State) (r : Nat) (src : BitVec 12) (h : W64) : State :=
  let x := s.ringOf r
  if x.st ≠ 1 ∨ x.err = 1 ∨ (src ≠ s.wrNext r ∧ src ≠ s.wrPrev r) then s
  else if h ≠ s.wrHash r then
    (s.setRing r { x with err := 1 }).notice (Unit.iod 0xFF) (BitVec.ofNat 64 r)
  else
    let y := { x with prevHash := if src = s.wrPrev r then some h else x.prevHash,
                      nextHash := if src = s.wrNext r then some h else x.nextHash }
    if y.prevHash = some h ∧ y.nextHash = some h then s.setRing r { y with st := 2 } else s.setRing r y

/-- RING_HASH_RECEIVE (R203). -/
def execRingHashReceive (r : BitVec 2) (src : BitVec 12) (h : W64) (s : State) : Out := .next (s.ringHashFrom r.toNat src h)

/-- A ring loses a member (R213): suspended, its pin released. -/
def State.ringSuspend (s : State) (r : Nat) : State :=
  let x := s.ringOf r
  if x.st = 0 then s
  else
    let s1 := s.setRing r { x with st := 3, err := 2, on := false }
    match s1.cx.pins.find? (fun p => p.holder == .ring r) with
    | some p => s1.unpin p
    | none => s1

/-- Form ring r anew (R214): its 64 objects at 0, ROT at 0, the exchange of R203 to be repeated. -/
def State.ringAnew (s : State) (r : Nat) : State :=
  ((List.range 64).foldl (fun s i => s.setObj (s.wrObj r + i) 0) s).setRing r { st := 1 }

/-- Every position of ring r is held by a live module. -/
def State.ringWhole (s : State) (r : Nat) : Bool :=
  (List.range (s.wrSize r)).all (fun p => !s.isFailed (s.holderOf (s.wrRole r p)))

/-- RING_REFORM (R214): once every position is held by a live module again, the ring forms anew. A spare that has taken a position
over and whose ring is off then holds the position's configuration, `cfg` and `gbuf`; how they reach it the spec does not say
(DESIGN CHOICE, log 90). -/
def execRingReform (r : BitVec 2) (cfg gbuf : W64) (s : State) : Out :=
  let n := r.toNat
  if (s.ringOf n).st = 3 then .next (if s.ringWhole n then s.ringAnew n else s)
  else if (s.ringOf n).st = 0 ∧ s.myRole ≠ s.ownIdent ∧ bit cfg 0 = true then
    let s1 := (s.setReg (Reg.wrCfg n) (cfg &&& wrCfgMask cfg)).setReg (Reg.wrGbuf n) (at64 0 39 gbuf.toNat)
    .next (if s1.ringOk n && s1.ringWhole n then s1.ringAnew n else s)
  else .next s

/-! ## Steps, slots and uses (R205 to R207) -/

/-- Steps that bring data, clockwise or counter-clockwise. -/
def State.wrSteps (s : State) (r : Nat) (ccw : Bool) : Nat :=
  let p := s.wrSize r
  if ccw then (if s.wrBidir r then (p - 1) / 2 else 0) else if s.wrBidir r then p / 2 else p - 1

/-- The slot of step st of a direction. -/
def State.wrSlot (s : State) (r : Nat) (ccw : Bool) (st : Nat) : Nat :=
  if st = 0 then 0 else (if ccw then s.wrSlots r + 1 else 1) + (st - 1) % s.wrSlots r

/-- Uses of a slot before step st ≥ 1 of rotation n: whole rotations and earlier steps. -/
def State.wrUses (s : State) (r : Nat) (ccw : Bool) (n st : Nat) : Nat :=
  let i := (st - 1) % s.wrSlots r
  n * ((List.range (s.wrSteps r ccw)).filter (fun j => j % s.wrSlots r == i)).length + (st - 1) / s.wrSlots r

def Ring.dir (x : Ring) (ccw : Bool) : RingDir := if ccw then x.ccw else x.cw
def Ring.setDir (x : Ring) (ccw : Bool) (d : RingDir) : Ring := if ccw then { x with ccw := d } else { x with cw := d }

/-- Add to a ring object (R204). -/
def State.ringSignal (s : State) (r o : Nat) (k : Nat) : State :=
  s.signal { src := none, obj := s.wrObj r + o, add := BitVec.ofNat 32 k }

def State.ringPin (s : State) (r : Nat) : Option Pin := s.cx.pins.find? (fun p => p.holder == .ring r)

/-- Bytes of one page and of one block. -/
def State.wrPageBytes (s : State) (r : Nat) : Nat := s.ctxHkv (s.wrCtx r) * headBytes (s.ctxKvf (s.wrCtx r))

/-- Read pages as the pinned epoch holds them, one copy of each, under R225: the bytes, and whether all could be read. -/
def State.ringPagesRead (s : State) (r : Nat) (epoch : W32) : List Nat → List Byte × State × Bool
  | [] => ([], s, true)
  | p :: ps =>
    let ref : Ref := .loc ((s.pageCopies (s.wrCtx r) (s.pageEntry (s.wrCtx r) epoch p)).headD 0)
    let (bs, s1, bad) := s.readRef ref (s.wrPageBytes r)
    match bad with
    | some n => ([], s1.unmaskedAt (.loc n), false)
    | none =>
      let (rest, s2, ok) := State.ringPagesRead s1 r epoch ps
      (bs ++ rest, s2, ok)

/-- Block b of slot k. -/
def State.ringBlock (s : State) (r : Nat) (epoch : W32) (k b : Nat) : List Byte × State × Bool :=
  s.ringPagesRead r epoch ((List.range (s.wrBlkpg r)).map (fun i => k * s.wrPps r + b * s.wrBlkpg r + i))

/-- The next block to forward in a direction, if it has landed and credit allows (R206, R207). -/
def State.ringForward (s : State) (r : Nat) (ccw : Bool) : Option (Nat × Nat) :=
  let x := s.ringOf r
  let d := x.dir ccw
  let bps := s.wrBps r
  let st := d.fwd / bps
  if !x.on || decide (d.fwd ≥ s.wrSteps r ccw * bps) then none
  else if st > 0 ∧ d.got < d.fwd - bps + 1 then none
  else if x.rot.toNat * s.wrSteps r ccw + st < d.credit then some (s.wrSlot r ccw st, d.fwd % bps)
  else none

/-- Forward every block that may go (R206). A block with data that cannot be read is not sent, and nothing behind it (DESIGN CHOICE,
log 91). -/
def State.ringPush (s : State) (r : Nat) (ccw : Bool) : Nat → State
  | 0 => s
  | n + 1 =>
    match s.ringForward r ccw, s.ringPin r with
    | some (k, b), some p =>
      match s.ringBlock r p.epoch k b with
      | (_, s1, false) => s1
      | (bs, s1, true) =>
        let x := s1.ringOf r
        let d := x.dir ccw
        let s2 := s1.sendMsg (if ccw then s1.wrPrev r else s1.wrNext r) (.ringBlock (BitVec.ofNat 2 r) ccw bs)
        State.ringPush (s2.setRing r (x.setDir ccw { d with fwd := d.fwd + 1 })) r ccw n
    | _, _ => s

def State.ringPushAll (s : State) (r : Nat) : State :=
  let n := s.wrBps r * s.wrSize r
  (s.ringPush r false n).ringPush r true n

/-! ## Rows of a rotation -/

/-- Every page of every slot is valid in an epoch (R205). -/
def State.ringPages (s : State) (r : Nat) (epoch : W32) : Bool :=
  (List.range ((1 + s.wrSlots r * (1 + s.wr r 7 1)) * s.wrPps r)).all (fun p => bit (s.pageEntry (s.wrCtx r) epoch p) 0)

/-- ROTATION_START (R205); `f` is what the code finds in the blocks it forwards at once (R222). -/
def execRotationStart (r : BitVec 2) (f : MemFind) (s : State) : Out :=
  let n := r.toNat
  let x := s.ringOf n
  let c := s.wrCtx n
  let e := (s.ctx c).epoch
  if x.st = 2 ∧ x.on = false ∧ x.badEpoch ≠ some e ∧
     s.objReached (s.wrObj n) (BitVec.ofNat 32 ((x.rot.toNat + 1) * s.wrNsig n)) = true then
    if s.ringPages n e then
      let s1 : State := { s with cx := { s.cx with pins := s.cx.pins ++ [{ ctx := c, epoch := e, holder := .ring n }] } }
      let s2 := s1.setRing n { x with on := true, badEpoch := none, err := if x.err = 3 then 0 else x.err, gsent := 0, gin := 0,
                                      cw := { x.cw with got := 0, fwd := 0 }, ccw := { x.ccw with got := 0, fwd := 0 } }
      let s3 := if s2.wrGrad n then s2.zeroRange (s2.wrSum n 0) (s2.wrRegion n) else s2
      .next (((s3.ringSignal n 4 (s3.wrBps n)).found f).ringPushAll n)
    else .next (s.setRing n { x with err := 3, badEpoch := some e })
  else .next s

/-- A block has a place: a rotation runs here and wants more in that direction. -/
def State.ringTakes (s : State) (r : Nat) (ccw : Bool) : Bool :=
  (s.ringOf r).on && decide (((s.ringOf r).dir ccw).got < s.wrSteps r ccw * s.wrBps r)

/-- A block of the neighbour is written into every copy of its pages (R206). -/
def State.ringLand (s : State) (r : Nat) (ccw : Bool) (data : List Byte) : State :=
  let x := s.ringOf r
  let d := x.dir ccw
  let bps := s.wrBps r
  match s.ringPin r with
  | none => s
  | some p =>
    if x.st ≠ 2 ∨ s.ringTakes r ccw = false then s
    else
      let c := s.wrCtx r
      let st := d.got / bps + 1
      let k := s.wrSlot r ccw st
      let b := d.got % bps
      let pb := s.wrPageBytes r
      let s0 := if s.wrGrad r && b == 0 then s.zeroRange (s.wrSum r k) (s.wrRegion r) else s
      let s1 := (List.range (s.wrBlkpg r)).foldl (fun s i =>
        let e := s.pageEntry c p.epoch (k * s.wrPps r + b * s.wrBlkpg r + i)
        (s.pageCopies c e).foldl (fun s l => (s.writeRef (.loc l) ((data.drop (pb * i)).take pb)).1) s) s0
      let s2 := s1.setRing r (x.setDir ccw { d with got := d.got + 1 })
      (s2.ringSignal r (4 + 4 * k) 1).ringPush r ccw (bps * s.wrSize r)

/-- RING_BLOCK_LANDED (R206); `f` is what the code finds in the blocks forwarded next (R222). -/
def execRingBlockLanded (r : BitVec 2) (ccw : Bool) (data : List Byte) (f : MemFind) (s : State) : Out :=
  .next (if (s.ringOf r.toNat).st = 2 ∧ s.ringTakes r.toNat ccw = true then (s.found f).ringLand r.toNat ccw data else s)

/-- What of ring r a neighbour has not yet acknowledged: messages, last parts counted. -/
def State.ringUnacked (s : State) (mine : Msg → Bool) : Nat :=
  (s.fab.sent.filter (fun p => match p.body with
    | .bulk m i => mine m && i + 1 == bulkParts (m.load.getD 0)
    | _ => false)).length
def isRingBlock (r : Nat) (ccw : Bool) : Msg → Bool
  | .ringBlock q c _ => q.toNat == r && c == ccw
  | _ => false
def isRingPartial (r : Nat) : Msg → Bool
  | .ringPartial q _ => q.toNat == r
  | _ => false

/-- The previous use of the slot of step st ≥ 1 of the present rotation is over: read by the tiles, and its keys, values and gradient
accepted by the next member (R207). One of an earlier rotation was over when that rotation ended (R208). -/
def State.slotOver (s : State) (r : Nat) (ccw : Bool) (st : Nat) : Bool :=
  let x := s.ringOf r
  let k := s.wrSlot r ccw st
  let u := s.wrUses r ccw x.rot.toNat st
  let j := st - s.wrSlots r
  (u == 0 || s.objReached (s.wrObj r + 5 + 4 * k) (BitVec.ofNat 32 (u * s.wrNsig r))) &&
  (decide (st ≤ s.wrSlots r) ||
   (decide ((x.dir ccw).fwd ≥ (j + 1) * s.wrBps r + s.ringUnacked (isRingBlock r ccw)) &&
    (!s.wrGrad r || decide (x.gsent ≥ j + 1 + s.ringUnacked (isRingPartial r)))))

/-- RING_CREDIT_GRANT (R207): the sender of a direction is granted the next use of the rotation that runs here, so that what the
credit brings lands through its pinned epoch and is not dropped (DEDUCED, log 23). -/
def execRingCreditGrant (r : BitVec 2) (ccw : Bool) (s : State) : Out :=
  let n := r.toNat
  let x := s.ringOf n
  let d := x.dir ccw
  let k := s.wrSteps n ccw
  if x.st = 2 ∧ x.on = true ∧ d.grant < (x.rot.toNat + 1) * k ∧ s.slotOver n ccw (d.grant - x.rot.toNat * k + 1) = true then
    let s1 := s.setRing n (x.setDir ccw { d with grant := d.grant + 1 })
    .next (s1.sendMsg (if ccw then s1.wrNext n else s1.wrPrev n) (.ringCredit r ccw))
  else .next s

/-- Credit for one more use arrives from the receiver of a direction, which may run before this member does. -/
def State.ringCredited (s : State) (r : Nat) (ccw : Bool) : State :=
  let x := s.ringOf r
  let d := x.dir ccw
  if x.st = 0 ∨ x.st = 3 then s
  else (s.setRing r (x.setDir ccw { d with credit := d.credit + 1 })).ringPush r ccw (s.wrBps r * s.wrSize r)

/-- The value that goes on, rnd(SUM + IN) element by element in BF16, and its flags (R212, R148, R149, R151). -/
def ringSum (sat : Bool) (a b : List Byte) : List Byte × Fl :=
  let rs := ((elems 2 a).zip (elems 2 b)).map (fun (x, y) =>
    let (v, g) := (Fmt.bf16.decode x).addX (Fmt.bf16.decode y)
    let (c, fl) := Fmt.bf16.store .rne sat v
    (c, Fl.joinAll [fl, Fl.ofRead (Fmt.bf16.decode x), Fl.ofRead (Fmt.bf16.decode y), { nanGen := g }]))
  (rs.flatMap (fun p => toBytesLE 2 p.1), Fl.joinAll (rs.map (fun p => p.2)))

/-- A fabric reduction unit's residue mismatched n times on one sum (R292): computed again, then by another unit, then given up; each
miss is logged under the unit that computed. -/
def State.fabricMiss (s : State) (u : BitVec 2) (n : Nat) : State :=
  (List.range n).foldl (fun s i =>
    s.log Cls.adder (if i < 2 then 1 else 0) Status.ok (Unit.iod (0x28 + (u.toNat + i / 2) % 4)) (s.host.ident.getD 0) 0)
    (if n = 0 then s else s.count Cnt.residue n)

/-- The gradient of the step is complete here and its partial has a place at the next member: GDONE of the step's slot has reached
its threshold, the predecessor's partial is in IN, and the next member has granted the use whose IN region the sum goes to (R207,
R212). -/
def State.gradReady (s : State) (r : Nat) : Bool :=
  let x := s.ringOf r
  let st := x.gsent
  let uses := if st = 0 then x.rot.toNat + 1 else s.wrUses r false x.rot.toNat st + 1
  s.wrGrad r && decide (st < s.wrSize r) && decide (st ≤ x.gin) &&
  (st + 1 == s.wrSize r || decide (x.rot.toNat * s.wrSteps r false + st < x.cw.credit)) &&
  s.objReached (s.wrObj r + 6 + 4 * s.wrSlot r false st) (BitVec.ofNat 32 (uses * s.wrNsig r))

/-- What the sum raises reaches the step accounting as what a collective of the step raises does, with no tensor named (R148, R151;
DEDUCED, log 87). -/
def State.ringFlags (s : State) (fl : Fl) : State := (s.stepFlags s.trnVer true fl).countSat 0 fl.sat

/-- The sum of one step: SUM and IN read under R225, added, sent to the next member. Where data cannot be read nothing is sent (DESIGN
CHOICE, log 91). -/
def State.gradSend (s : State) (r : Nat) : State :=
  let st := (s.ringOf r).gsent
  let k := s.wrSlot r false st
  let len := s.wrRegion r
  let (sum, s1, bad1) := s.readRef (.addr (s.wrSum r k)) len
  match bad1 with
  | some a => s1.unmaskedAt (.addr a)
  | none =>
    let (inn, s2, bad2) := if st = 0 then (List.replicate len 0, s1, none) else s1.readRef (.addr (s1.wrIn r k)) len
    match bad2 with
    | some a => s2.unmaskedAt (.addr a)
    | none =>
      let (out, fl) := ringSum s2.satPolicy sum inn
      let s3 := (s2.ringFlags fl).setRing r { s2.ringOf r with gsent := st + 1 }
      s3.sendMsg (s3.wrNext r) (.ringPartial (BitVec.ofNat 2 r) out)

/-- RING_GRADIENT_FORWARD (R212, R292): `f` is what the code finds in SUM and IN, `res` the residue mismatches of reduction unit u on
the sum. After a third the sum is given up and formed again later; no collective ends by it (DESIGN CHOICE, log 91). -/
def execRingGradientForward (r : BitVec 2) (f : MemFind) (u res : BitVec 2) (s : State) : Out :=
  let n := r.toNat
  if (s.ringOf n).st = 2 ∧ (s.ringOf n).on = true ∧ s.gradReady n = true then
    let s1 := (s.found f).fabricMiss u res.toNat
    .next (if res = 3 then s1 else s1.gradSend n)
  else .next s

/-- A partial has a place: a GRAD rotation runs here and wants more, and the partial before it in the same region has gone on. -/
def State.partialTakes (s : State) (r : Nat) : Bool :=
  let x := s.ringOf r
  x.on && s.wrGrad r && decide (x.gin < s.wrSize r) &&
  (x.gin + 1 == s.wrSize r || decide (x.gin + 1 ≤ s.wrSlots r) || decide (x.gin + 1 < x.gsent + s.wrSlots r))

/-- The predecessor's partial lands in IN of the slot of the same owner, the last one in IN[0] (R212). -/
def State.ringPartialLand (s : State) (r : Nat) (data : List Byte) : State :=
  let x := s.ringOf r
  if x.st ≠ 2 ∨ s.partialTakes r = false then s
  else
    let st := x.gin + 1
    let k := if st = s.wrSize r then 0 else s.wrSlot r false st
    let s1 := (s.writeRef (.addr (s.wrIn r k)) data).1
    s1.setRing r { x with gin := st }

/-- Something of ring r sent to its neighbours is not yet acknowledged. -/
def State.ringInFlight (s : State) (r : Nat) : Bool :=
  decide (s.ringUnacked (fun m => isRingBlock r false m || isRingBlock r true m || isRingPartial r m) > 0)

/-- A message of the ring that has no place yet stays in the receive buffer of its port and is taken later: the module never drops a
block (R207). -/
def State.ringHolds (s : State) (m : Msg) : Bool :=
  match m with
  | .ringBlock r ccw _ => (s.ringOf r.toNat).st == 2 && !s.ringTakes r.toNat ccw
  | .ringPartial r _ => (s.ringOf r.toNat).st == 2 && !s.partialTakes r.toNat
  | _ => false

/-- ROTATION_END (R208): every forward and every gradient send accepted, the returned total in IN[0]. The blocks still to land
go through the pinned epoch, so the pin is kept until they have (DEDUCED, log 23). -/
def execRotationEnd (r : BitVec 2) (s : State) : Out :=
  let n := r.toNat
  let x := s.ringOf n
  let full (ccw : Bool) : Bool :=
    let t := s.wrSteps n ccw * s.wrBps n
    decide ((x.dir ccw).got ≥ t) && decide ((x.dir ccw).fwd ≥ t)
  if x.st = 2 ∧ x.on = true ∧ full false = true ∧ full true = true ∧ s.ringInFlight n = false ∧
     (s.wrGrad n = false ∨ (x.gsent ≥ s.wrSize n ∧ x.gin ≥ s.wrSize n)) then
    let s1 := s.setRing n { x with on := false, rot := x.rot + 1 }
    let s2 := match s1.ringPin n with | some p => s1.unpin p | none => s1
    .next (s2.ringSignal n 1 1)
  else .next s

end Sys2Proof.Machine
end

