-- ==== Sys2Proof/Machine/Coll.lean ====
section
/-! DEFINITION. Collectives: groups, matching, the reference fold, pieces, timeouts and aborts (11 R271 to R297). -/
namespace Sys2Proof.Machine

/-! ## Groups (R271 to R274) -/

def Reg.grpCfg (g : Nat) : Nat := 0xB1000 + 16 * g
def Reg.grpList (g : Nat) : Nat := 0xB1008 + 16 * g
def State.grpOn (s : State) (g : Nat) : Bool := bit (s.reg (Reg.grpCfg g)) 0
def State.grpCredits (s : State) (g : Nat) : Nat := fld (s.reg (Reg.grpCfg g)) 13 4
def State.members (s : State) (g : Nat) : List (BitVec 12) := Tab.get [] s.coll.list g
def State.holders (s : State) (g : Nat) : List (BitVec 12) := Tab.get [] s.coll.holder g
/-- This module's group rank: the one it is listed with, else the one it has taken over; NMEM where it has none (R274). A module listed
in the group that takes another rank over acts for its own (DESIGN CHOICE, log 24). -/
def State.grpRank (s : State) (g : Nat) : Nat :=
  if (s.members g).contains s.ownIdent then (s.members g).findIdx (fun d => d == s.ownIdent)
  else (s.holders g).findIdx (fun d => d == s.ownIdent)
def State.hasRank (s : State) (g : Nat) : Bool := (s.holders g).contains s.ownIdent
/-- The holder of a rank. -/
def State.rankId (s : State) (g r : Nat) : BitVec 12 := (s.holders g).getD r 0
/-- The lowest live rank (10 R260, R291). -/
def State.leadRank (s : State) (g : Nat) : Nat := (s.holders g).findIdx (fun d => !s.isFailed d)

/-- Ranks by domain, in rank order (R272, R285). -/
def domainRuns (l : List (BitVec 12)) : List (List Nat) :=
  let doms := (l.map domainOf).foldl (fun (m : List Nat) d => if m.contains d then m else m ++ [d]) []
  doms.map (fun d => (List.range l.length).filter (fun r => domainOf (l.getD r 0) == d))

def nodupB : List (BitVec 12) → Bool
  | [] => true
  | x :: xs => !xs.contains x && nodupB xs

def ascending : List Nat → Bool
  | a :: b :: l => decide (a < b) && ascending (b :: l)
  | _ => true

/-- The domain structure of R272. -/
def domainsOk (l : List (BitVec 12)) : Bool :=
  let runs := domainRuns l
  runs.length ≤ 1 ||
  (runs.flatten == List.range l.length &&
   ascending (runs.map (fun r => domainOf (l.getD (r.headD 0) 0))) &&
   runs.all (fun r => r.length == (runs.headD []).length))

/-- The member list in memory: none where a reserved bit is set or a granule cannot be read (R272). -/
def State.readList (s : State) (a n : Nat) : State × Option (List (BitVec 12)) :=
  let (bs, s1, bad) := s.readRef (.addr a) (2 * n)
  let es := (List.range n).map (fun r => leAt bs (2 * r) 2)
  (s1, if bad.isSome || es.any (fun e => decide (e ≥ 4096)) then none else some (es.map (BitVec.ofNat 12)))

/-- A COLL that names the group is queued or running. -/
def State.collOf (s : State) (g : Nat) : Bool := s.liveCmds.any (fun c => Cmd.opcode c.2 == 0x04 && Cmd.opnd c.2 160 8 == g)

/-- A write to GRP_CFG[g] (R273). -/
def State.writeGrpCfg (s : State) (g : Nat) (v : W64) : Option State :=
  let w := at64 0 17 (fld v 0 17)
  let old := s.reg (Reg.grpCfg g)
  match bit old 0, bit w 0 with
  | false, true =>
    let n := fld w 1 12 + 1
    let a := fld (s.reg (Reg.grpList g)) 0 42
    if fld w 13 4 < 2 ∨ a % 32 ≠ 0 ∨ !inTier a ∨ !inOneTier a (2 * n) then none
    else
      match s.readList a n with
      | (_, none) => none
      | (s1, some l) =>
        if nodupB l && domainsOk l && (l.contains s.ownIdent || s.trn.st == 4) then
          let s2 := s1.setReg (Reg.grpCfg g) w
          some { s2 with coll := { s2.coll with
            list := Tab.put [] s2.coll.list g l, holder := Tab.put [] s2.coll.holder g l,
            ghash := Tab.put 0 s2.coll.ghash g (crc64 (l.flatMap (fun d => toBytesLE 2 d.toNat))) } }
        else none
  | true, true => if w = old then some s else none
  | true, false =>
    if s.collOf g ∨ (s.trnOn = true ∧ (fld (s.reg (Reg.trn 0)) 1 8 = g ∨ fld (s.reg (Reg.trn 0)) 9 8 = g)) then none
    else some (s.setReg (Reg.grpCfg g) w)
  | false, false => none

/-- A write to GRP_LIST[g] (R273). -/
def State.writeGrpList (s : State) (g : Nat) (v : W64) : Option State :=
  if s.grpOn g then none else some (s.setReg (Reg.grpList g) (at64 0 42 (fld v 0 42)))

def isGrpCfg (off : Nat) : Bool := decide (0xB1000 ≤ off) && decide (off < 0xB2000) && off % 16 == 0

/-- GRP_CFG_WRITE (R273). -/
def execGrpCfgWrite (k : Packet) (s : State) : Out :=
  .next (s.regWr k isGrpCfg (fun s off v => s.writeGrpCfg ((off - 0xB1000) / 16) v))

/-! ## Descriptors (R275 to R281) -/

/-- Element size of a DTYPE (Table 11.6). -/
def dtBytes : Nat → Nat
  | 0 => 2
  | 1 => 2
  | 4 => 4
  | 5 => 8
  | _ => 1

def dtFmt : Nat → Fmt
  | 0 => .bf16
  | 1 => .fp16
  | 2 => .e4m3
  | _ => .e5m2

/-- The operation reduces (Table 11.5). -/
def opReduces (op : Nat) : Bool := op == 0 || op == 1 || op == 4
def opRoot (op : Nat) : Bool := op == 3 || op == 4 || op == 7 || op == 8

/-- The algorithm of Table 11.11 for ALG = 0. -/
def chooseAlg (op count e p : Nat) : Nat :=
  match op with
  | 0 | 3 | 4 => if count * e ≤ 256 then 1 else if count * e ≤ 65536 then 3 else 2
  | 2 => if p * count * e ≤ 16384 then 1 else 2
  | 6 => 1
  | 7 | 8 => 0
  | _ => 2

/-- COLL operands (Tables 11.4 and 11.7). -/
def collGrp (c : Cmd) : Nat := Cmd.opnd c 160 8
def collOp (c : Cmd) : Nat := Cmd.opnd c 168 4
def collStep (c : Cmd) : Bool := Cmd.full c && Cmd.opnd c 212 1 == 1
def State.collSrc (s : State) (c : Cmd) : Ref := s.refOf (BitVec.ofNat 64 (Cmd.opnd c 0 64))
def State.collDst (s : State) (c : Cmd) : Ref := s.refOf (BitVec.ofNat 64 (Cmd.opnd c 64 64))
/-- Timeout in ms (R275, R278). -/
def State.collTo (s : State) (c : Cmd) : Nat :=
  let v := if Cmd.full c then Cmd.opnd c 196 16 else 0
  if v = 0 then fld (s.reg 0xB0000) 0 16 else v

/-- The descriptor a member shows in the handshake (R281): unused fields 0. -/
def State.collDesc (s : State) (c : Cmd) : CollDesc :=
  let g := collGrp c
  let op := collOp c
  let dt := Cmd.opnd c 172 3
  let p := (s.members g).length
  let count := Cmd.opnd c 128 32
  let red := if opReduces op then Cmd.opnd c 175 3 else 0
  let xf := if Cmd.full c then Cmd.opnd c 194 2 else 0
  let alg := if Cmd.full c then Cmd.opnd c 192 2 else 0
  let step := collStep c
  { ghash := Tab.get 0 s.coll.ghash g, op := if op = 8 then 7 else op, dtype := if op = 6 then 0 else dt,
    count := if op = 6 then 0 else count, root := if opRoot op then Cmd.opnd c 178 12 else 0, red := red,
    xfmt := if op ≥ 6 then 0 else if xf = 0 then (if opReduces op && red == 0 && decide (dt ≤ 1) then 2 else 1) else xf,
    alg := if alg = 0 then (if step then 2 else chooseAlg op count (dtBytes dt) p) else alg,
    step := step, recv := op == 8, shoff := if step then s.shoff else 0, shlen := if step then s.shlen else 0 }

/-- Bytes of source and destination at a rank (Table 11.5). -/
def collLens (d : CollDesc) (p me : Nat) : Nat × Nat :=
  let b := d.count * dtBytes d.dtype
  match d.op with
  | 0 => (b, b)
  | 1 => (p * b, b)
  | 2 => (b, p * b)
  | 3 => (if me = d.root then b else 0, b)
  | 4 => (b, if me = d.root then b else 0)
  | 5 => (p * b, p * b)
  | 7 => if d.recv then (0, b) else (b, 0)
  | _ => (0, 0)

/-- The bytes a COLL writes at this member; a STEP collective writes its shard. -/
def State.collDstRange (s : State) (c : Cmd) : Ref × Nat :=
  let d := s.collDesc c
  if d.step then ((s.collDst c).add d.shoff, d.shlen)
  else (s.collDst c, (collLens d (s.members (collGrp c)).length (s.grpRank (collGrp c))).2)

/-- DHASH (R281): the CRC-64 over the 20 bytes of the descriptor image. -/
def collHash (d : CollDesc) : W64 :=
  crc64 (toBytesLE 8 d.ghash.toNat ++ toBytesLE 1 d.op ++ toBytesLE 1 d.dtype ++ toBytesLE 1 d.red ++ toBytesLE 1 d.xfmt ++
    toBytesLE 1 d.alg ++ toBytesLE 1 (b2n d.step) ++ toBytesLE 2 d.root ++ toBytesLE 4 d.count)

/-- Lowest field code in which two descriptors differ (Table 11.9). -/
def mismatch (a b : CollDesc) (pair : Bool) : Option Nat :=
  if a.ghash ≠ b.ghash then some 1
  else if a.op ≠ b.op ∨ (a.op = 7 ∧ pair = true ∧ a.recv = b.recv) then some 2
  else if a.dtype ≠ b.dtype then some 3
  else if a.count ≠ b.count then some 4
  else if a.root ≠ b.root then some 5
  else if a.red ≠ b.red then some 6
  else if a.xfmt ≠ b.xfmt then some 7
  else if a.alg ≠ b.alg then some 8
  else if a.step ≠ b.step then some 9
  else none

/-- The first rank whose shard breaks the run from 0 to WLEN (R290). -/
def partBreak (wlen : Nat) : List (Nat × CollDesc) → Nat → Option Nat → Option Nat
  | [], pos, last => if pos = wlen then none else some (last.getD 0)
  | (r, d) :: l, pos, last =>
    if d.shlen = 0 then partBreak wlen l pos last
    else if d.shoff ≠ pos ∨ pos + d.shlen > wlen then some r
    else partBreak wlen l (pos + d.shlen) (some r)

/-! ## The reference result (R284, R285) -/

/-- MAX or MIN of two codes: exact; a NaN gives the canonical one. -/
def selCode (F : Fmt) (isMax : Bool) (a b : Nat) : Nat :=
  let x := F.decode a
  let y := F.decode b
  if x.isNan ∨ y.isNan then F.nanCode
  else if isMax then (if vMaxNum x y = x then a else b)
  else if vMaxNum x.neg y.neg = x.neg then a else b

/-- An integer reduction of two values (Table 11.6). -/
def intRed (bits red a b : Nat) : Nat :=
  match red with
  | 0 => (a + b) % 2 ^ bits
  | 1 => max a b
  | 2 => min a b
  | 3 => a ||| b
  | _ => a &&& b

/-- nar and dec of one block of XFMT 3 (R285). -/
def narBlock (vs : List Num) : List Num :=
  if vs.any (fun v => !v.isFin) then vs.map (fun _ => .nan)
  else
    match vs.foldl (fun (b : Num) v => if b.lt v.abs then v.abs else b) Num.zero with
    | .fin _ 0 _ => vs.map (fun v => .fin v.sign 0 0)
    | .fin _ m e =>
      let sc := Fmt.bf16.decode (scaleOver 57344 m e)
      vs.map (fun v => (Fmt.e5m2.decode (Fmt.e5m2.storeQuot .rne false (v.divX sc)).1).mul sc)
    | _ => vs

/-- dec(nar(·)) over the elements of a part that starts on a block. -/
def narDec (xfmt : Nat) (vs : List Num) : List Num :=
  match xfmt with
  | 2 => vs.map (fun v => Fmt.bf16.decode (Fmt.bf16.store .rne false v).1)
  | 3 => (chunks 256 vs).flatMap narBlock
  | _ => vs

/-- One term of a fold, element by element: rnd(a + v) for a SUM; the other reductions start from their first term (R284). A term
that is a domain's result passes through nar and dec (R285). -/
def foldTerm (d : CollDesc) (sat first dom : Bool) (a b : List Byte) : List Byte × Fl :=
  let e := dtBytes d.dtype
  let xs := elems e a
  let ys := elems e b
  if d.dtype ≥ 4 then
    ((xs.zip ys).flatMap (fun (x, y) => toBytesLE e (if first && d.red != 0 then y else intRed (8 * e) d.red x y)), {})
  else
    let F := dtFmt d.dtype
    if d.red = 0 then
      let vs := if dom then narDec d.xfmt (ys.map F.decode) else ys.map F.decode
      let rs := (xs.zip vs).map (fun (x, v) =>
        let (r, g) := (F.decode x).addX v
        let (c, f) := F.store .rne sat r
        (c, Fl.joinAll [f, Fl.ofRead v, { nanGen := g }]))
      (rs.flatMap (fun r => toBytesLE e r.1), Fl.joinAll (rs.map (fun r => r.2)))
    else
      ((xs.zip ys).flatMap (fun (x, y) => toBytesLE e (if first then y else selCode F (d.red == 1) x y)),
       Fl.joinAll (ys.map (fun y => Fl.ofRead (F.decode y))))

/-! ## Parts and pieces (R283, R289) -/

def pieceSize : Nat := 65536

/-- Offsets and lengths of the pieces of a range. -/
def pieces (off len : Nat) : List (Nat × Nat) :=
  (List.range (ceilDiv len pieceSize)).map (fun i => (off + i * pieceSize, min pieceSize (len - i * pieceSize)))

/-- The part of the reduced buffer a rank folds: for an owner of a RING, its block, its shard, or its share of the buffer in
units of 1,024 bytes (log 24); the whole buffer for SIGNAL and for the root of a TREE or a SIGNAL REDUCE. -/
def foldPart (d : CollDesc) (p r : Nat) (shard : Nat × Nat) : Nat × Nat :=
  let b := d.count * dtBytes d.dtype
  if !opReduces d.op then (0, 0)
  else if d.step then shard
  else if d.op = 1 then (r * b, b)
  else
    match d.alg with
    | 2 =>
      let share := ceilDiv b (1024 * p) * 1024
      (min b (r * share), min b ((r + 1) * share) - min b (r * share))
    | 3 => if r = d.root then (0, b) else (0, 0)
    | _ => if d.op = 4 ∧ r ≠ d.root then (0, 0) else (0, b)

/-- Tree positions (R289). -/
def treePos (p root r : Nat) : Nat := (r + p - root) % p
def treeRank (p root t : Nat) : Nat := (t + root) % p
def treeParent (p root r : Nat) : Nat := treeRank p root ((treePos p root r - 1) / 2)
def treeKids (p root r : Nat) : List Nat :=
  let t := treePos p root r
  ([2 * t + 1, 2 * t + 2].filter (fun k => decide (k < p))).map (treeRank p root)

/-- The child of r through which rank q's contribution comes, if q lies below r. -/
def treeVia (p root r : Nat) : Nat → Nat → Option Nat
  | 0, _ => none
  | fuel + 1, q =>
    if treePos p root q = 0 then none
    else if treeParent p root q = r then some q
    else treeVia p root r fuel (treeParent p root q)

/-- Where finished data of an origin goes on from rank r (R289): the next of the ring or chain, the children of the tree. -/
def onward (d : CollDesc) (p r origin : Nat) : List Nat :=
  match d.alg with
  | 2 => if d.op = 0 ∨ d.op = 2 ∨ d.op = 3 then (if (r + 1) % p = origin then [] else [(r + 1) % p]) else []
  | 3 => if d.op = 4 then [] else treeKids p d.root r
  | _ => []

/-- The flags of Table 11.13 in a piece, and back. -/
def Fl.toBits (fl : Fl) : BitVec 5 :=
  BitVec.ofNat 5 (b2n fl.ovf + 2 * b2n fl.nanIn + 4 * b2n fl.nanGen + 8 * b2n fl.infIn + 16 * b2n fl.unf)
def Fl.ofBits (b : BitVec 5) (sat : W32) : Fl :=
  { ovf := b.getLsbD 0, nanIn := b.getLsbD 1, nanGen := b.getLsbD 2, infIn := b.getLsbD 3, unf := b.getLsbD 4, sat := sat.toNat }

/-- A piece as a message. -/
def mkPiece (g : Nat) (seq : W32) (kind : PieceKind) (rank off : Nat) (fl : Fl) (data : List Byte) : Msg :=
  .collPiece (BitVec.ofNat 8 g) seq kind rank off fl.toBits (BitVec.ofNat 32 (min 0xFFFFFFFF fl.sat)) data

/-- Data that no fold formed, or a contribution, as messages. -/
def mkPieces (g : Nat) (seq : W32) (kind : PieceKind) (rank off : Nat) (data : List Byte) : List Msg :=
  (pieces off data.length).map (fun (o, n) => mkPiece g seq kind rank o {} ((data.drop (o - off)).take n))

/-! ## The current collective -/

def State.curColl (s : State) (g : Nat) : Option Coll := Tab.get none s.coll.cur g
def State.setColl (s : State) (g : Nat) (x : Option Coll) : State :=
  { s with coll := { s.coll with cur := Tab.put none s.coll.cur g x } }

/-- Send a message to every other member of a group. -/
def State.toGroup (s : State) (g : Nat) (m : Msg) : State := s.sendAll (s.holders g) m

/-- Write free values over a range whose contents the spec leaves undefined (log 3). -/
def State.scramble (s : State) (r : Ref) (n : Nat) : State :=
  let bs := (List.range n).map (fun i => (Config.freeValue (s.drawn + i)).setWidth 8)
  (({ s with drawn := s.drawn + n } : State).writeRef r bs).1

/-- The group's next collective may become current: numbers that completed before their turn are passed over. -/
def State.collTurn (s : State) (g : Nat) : Nat → State
  | 0 => s
  | n + 1 =>
    let t := Tab.get 0 s.coll.turn g
    if s.coll.passed.contains (g, t) then
      State.collTurn { s with coll := { s.coll with passed := s.coll.passed.erase (g, t), turn := Tab.put 0 s.coll.turn g (t + 1) } } g n
    else s

/-- The collective of a number is over at this member without having become current (R280, R293). -/
def State.collPass (s : State) (g : Nat) (seq : W32) : State :=
  let s1 : State := { s with coll := { s.coll with
    passed := s.coll.passed ++ [(g, seq)], early := s.coll.early.filter (fun e => !(e.g == g && e.seq == seq)) } }
  s1.collTurn g (s1.coll.passed.length)

/-- A COLL that completes without executing withdraws its number on every member (R295). -/
def State.withdraw (s : State) (g : Nat) (seq : W32) : State :=
  (s.toGroup g (.collAbort (BitVec.ofNat 8 g) seq 2 (s.grpRank g))).collPass g seq

/-- Result data (Table 11.13). -/
def collResult (seq : W32) (g rank field cause alg : Nat) (fl : Fl) : List Byte :=
  let w := seq.toNat + g * 2 ^ 32 + rank * 2 ^ 40 + field * 2 ^ 52 + cause * 2 ^ 56 + alg * 2 ^ 60 +
    (b2n fl.ovf + 2 * b2n fl.nanIn + 4 * b2n fl.nanGen + 8 * b2n fl.infIn + 16 * b2n fl.unf) * 2 ^ 64 +
    min 0xFFFFFFFF fl.sat * 2 ^ 96
  toBytesLE 32 w

/-- The current collective completes with a status (R281, R293 to R297). After a timeout or an abort in its data phase the
destination, and the source of an in-place one, hold undefined bytes. -/
def State.collEnd (s : State) (g : Nat) (x : Coll) (st : W16) (rank field cause : Nat) : State :=
  match s.findCmd x.q x.cmd with
  | none => s.setColl g none
  | some c =>
    let ran := x.phase != .hand
    let spoilt := ran && (st == Status.collTimeout || st == Status.collAbort)
    let (r, n) := if x.desc.step then (s.collDst c, s.wlen) else s.collDstRange c
    let s1 := if spoilt then s.scramble r n else s
    let s2 := s1.setColl g none
    let s3 : State := { s2 with coll := { s2.coll with
      turn := Tab.put 0 s2.coll.turn g (x.seq + 1),
      box := s2.coll.box.filter (fun b => match b.2 with
        | .collHand h q _ _ => !(h.toNat == g && q == x.seq)
        | .collPiece h q _ _ _ _ _ _ => !(h.toNat == g && q == x.seq)
        | .collHeld h q _ => !(h.toNat == g && q == x.seq)
        | .collCredit h q => !(h.toNat == g && q == x.seq)
        | .norm h q _ => !(h.toNat == g && q == x.seq)
        | _ => true) } }
    let s4 := s3.collTurn g (s3.coll.passed.length)
    s4.endCmd x.q x.cmd st (collResult x.seq g rank field cause (if ran then x.desc.alg else 0) x.fl)

/-- Every member completes the collective with COLL_ABORT and a cause; this one with its own status (R292). -/
def State.collFail (s : State) (g : Nat) (x : Coll) (st : W16) (cause : Nat) : State :=
  let me := s.grpRank g
  (s.toGroup g (.collAbort (BitVec.ofNat 8 g) x.seq cause me)).collEnd g x st
    (if st = Status.collAbort then me else 0) 0 (if st = Status.collAbort then cause else 0)

/-! ## Backups in the reduction of the step (10 R263, R291) -/

def State.bkOn (s : State) (i : Nat) : Bool := bit (s.reg (Reg.trn (0x100 + 8 * i))) 0
def State.bkPrimary (s : State) (i : Nat) : BitVec 12 := BitVec.ofNat 12 (fld (s.reg (Reg.trn (0x100 + 8 * i))) 1 12)
def State.bkBackup (s : State) (i : Nat) : BitVec 12 := BitVec.ofNat 12 (fld (s.reg (Reg.trn (0x100 + 8 * i))) 13 12)
def State.bkDeadline (s : State) (i : Nat) : Nat := fld (s.reg (Reg.trn (0x100 + 8 * i))) 25 32
def State.bkList (s : State) : List Nat := (List.range 16).filter s.bkOn
/-- Rank of a listed role in a group. -/
def State.roleRank (s : State) (g : Nat) (role : BitVec 12) : Nat := (s.members g).findIdx (fun d => d == role)

/-- A primary or backup announces that its contribution is ready (R291): before the entry's DEADLINE of the current step, or not
(R263). -/
def State.bkAnnounced (s : State) (i : BitVec 4) (backup : Bool) : State :=
  { s with trn := { s.trn with bkReady := s.trn.bkReady ++ [(i, backup, decide (s.phase.toNat < s.bkDeadline i.toNat))] } }

/-- Ranks that contribute a term (R284, R291), by domain. -/
def State.contribRuns (s : State) (g : Nat) (d : CollDesc) : List (List Nat) :=
  let drop := if d.step then s.bkList.map (fun i => s.roleRank g (s.bkBackup i)) else []
  (domainRuns (s.members g)).map (fun run => run.filter (fun r => !drop.contains r))

/-- Whether this member's own term waits for a selection: as primary or as backup of an entry (R291). -/
def State.bkMine (s : State) (d : CollDesc) : List (Nat × Bool) :=
  if !d.step then []
  else s.bkList.filterMap (fun i =>
    if s.bkPrimary i = s.myRole then some (i, false) else if s.bkBackup i = s.myRole then some (i, true) else none)

/-! ## The data phase -/

/-- The shard of a rank in a STEP collective, from its descriptor. -/
def Coll.shard (x : Coll) (r : Nat) : Nat × Nat :=
  match x.hands.find? (fun h => h.1 == r) with
  | some h => (h.2.2.shoff, h.2.2.shlen)
  | none => (0, 0)

def Coll.part (x : Coll) (p r : Nat) : Nat × Nat := foldPart x.desc p r (x.shard r)

/-- What the data phase of a collective at this member goes by: group, members, own rank, members of each domain, contributing ranks by
domain index. -/
structure CollEnv where
  g : Nat
  p : Nat
  me : Nat
  m : Nat
  runs : List (List Nat)

def State.collEnv (s : State) (g : Nat) (x : Coll) : CollEnv :=
  let p := (s.members g).length
  let runs := s.contribRuns g x.desc
  { g := g, p := p, me := s.grpRank g, m := p / max 1 runs.length, runs := runs }

/-- The domain index of a rank (R272). -/
def CollEnv.dom (v : CollEnv) (r : Nat) : Nat := r / max 1 v.m
/-- The member of domain index k that folds the domain's contributions to the part of owner r: the one in r's place (R285; DESIGN
CHOICE, log 24). -/
def CollEnv.agent (v : CollEnv) (k r : Nat) : Nat := k * v.m + r % max 1 v.m

/-- Owners whose part this member folds for its domain, each part once; the root of a TREE folds alone (R288, R289). -/
def Coll.agentParts (x : Coll) (v : CollEnv) : List (Nat × Nat) :=
  let rs := if x.desc.alg = 3 then [v.me] else (List.range v.p).filter (fun r => r % max 1 v.m == v.me % max 1 v.m)
  ((rs.map (x.part v.p)).filter (fun a => a.2 != 0)).eraseDups
/-- The domains whose contributions this member folds. -/
def Coll.foldDoms (x : Coll) (v : CollEnv) : List Nat := if x.desc.alg = 3 then List.range v.runs.length else [v.dom v.me]
/-- The owners that a domain's result for a part goes to. -/
def Coll.ownersOf (x : Coll) (v : CollEnv) (off : Nat) : List Nat :=
  ((List.range v.p).filter (fun r => x.desc.alg = 3 || r % max 1 v.m == v.me % max 1 v.m)).filter
    (fun r => let (o, n) := x.part v.p r; decide (o ≤ off) && decide (off < o + n))

/-- Where finished bytes at an offset of the reduced or gathered buffer go in this member's destination. -/
def finOff (x : Coll) (p me off : Nat) : Nat := if x.desc.op = 1 ∧ x.desc.step = false then off - (x.part p me).1 else off

/-- This member writes its part of a reduction to its own destination; the owner of a part of a RING REDUCE does so at the root only
(Table 11.5). -/
def Coll.writesPart (x : Coll) (me : Nat) : Bool := !(x.desc.op == 4 && me != x.desc.root)

/-- The fold of this member's own part runs at its vault adders: a floating-point SUM of a RING within one domain, whose destination
lies in the near tier (R284, R289). -/
def State.atVaults (s : State) (x : Coll) (v : CollEnv) (c : Cmd) : Bool :=
  let (o, n) := x.part v.p v.me
  x.desc.alg == 2 && opReduces x.desc.op && x.desc.red == 0 && decide (x.desc.dtype < 4) && v.runs.length == 1 && x.writesPart v.me &&
  !s.refAny ((s.collDst c).add (finOff x v.p v.me o)) n (fun l => !locNear l)

/-- The folds this member runs. -/
def Coll.startFolds (x : Coll) (v : CollEnv) (vault : Bool) : List Fold :=
  let mk (dom : Option Nat) (a : Nat × Nat) : List Fold :=
    (pieces a.1 a.2).map (fun (o, n) => { dom := dom, off := o, len := n, vault := vault, val := List.replicate n 0 })
  if !opReduces x.desc.op then []
  else
    let own := x.part v.p v.me
    (x.agentParts v).flatMap (fun a => (x.foldDoms v).flatMap (fun k => mk (some k) a)) ++
    (if v.runs.length > 1 then mk none own else [])

/-- What this member sends of rank `as`'s contribution `bytes` (the whole source): to the member that folds each part for the rank's
domain. An owner that has a piece already is spared it (R294). -/
def Coll.contribOut (x : Coll) (v : CollEnv) (as : Nat) (bytes : List Byte) : List (Nat × Msg) :=
  let dests := (((List.range v.p).map (fun r => (v.agent (v.dom as) r, x.part v.p r))).filter (fun a => a.2.2 != 0 && a.1 != v.me)).eraseDups
  dests.flatMap (fun (a, o, n) =>
    ((pieces o n).filter (fun q => !x.spared.contains (a, q.1))).map (fun (o, n) => (a, mkPiece v.g x.seq .contrib as o {} ((bytes.drop o).take n))))

/-- The pieces of that contribution which stay here: those of the parts this member folds, or in a TREE all, on their way to the
root. -/
def Coll.contribOwn (x : Coll) (v : CollEnv) (as : Nat) (bytes : List Byte) : List Piece :=
  let parts := if x.desc.alg = 3 then [(0, bytes.length)] else if v.dom as = v.dom v.me then x.agentParts v else []
  parts.flatMap (fun a => (pieces a.1 a.2).map (fun (o, n) =>
    { kind := .contrib, rank := as, off := o, data := (bytes.drop o).take n, fl := {}, slot := none }))

/-- What this member waits for (R283), lowest offset first and at each in ascending rank, so that the piece a fold needs next is
always among those granted first. -/
def Coll.wants (x : Coll) (v : CollEnv) (hold : Bool) : List Want :=
  let d := x.desc
  let p := v.p
  let me := v.me
  let b := d.count * dtBytes d.dtype
  let mk (sender : Nat) (kind : PieceKind) (rank off len : Nat) : List Want :=
    (pieces off len).map (fun (o, n) => { sender := sender, kind := kind, rank := rank, off := o, len := n })
  let prev := (me + p - 1) % p
  let contrib : List Want :=
    if !opReduces d.op then []
    else if d.alg = 3 then
      (pieces 0 b).flatMap (fun (o, n) => v.runs.flatten.filterMap (fun q =>
        (treeVia p d.root me p q).map (fun k => { sender := k, kind := .contrib, rank := q, off := o, len := n })))
    else
      (x.agentParts v).flatMap (fun a => (pieces a.1 a.2).flatMap (fun (o, n) =>
        ((v.runs.getD (v.dom me) []).filter (fun q => q != me || hold)).map (fun q =>
          { sender := q, kind := .contrib, rank := q, off := o, len := n })))
  let (po, pn) := x.part p me
  let doms : List Want :=
    if !opReduces d.op || d.alg == 3 then []
    else ((List.range v.runs.length).filter (fun k => k != v.dom me)).flatMap (fun k => mk (v.agent k me) .domain k po pn)
  let fin : List Want :=
    match d.op with
    | 0 =>
      if d.alg = 2 then ((List.range p).filter (fun q => q != me)).flatMap (fun q => let (o, n) := x.part p q; mk prev .fin q o n)
      else if d.alg = 3 ∧ me ≠ d.root then mk (treeParent p d.root me) .fin d.root 0 b
      else []
    | 2 => ((List.range p).filter (fun q => q != me)).flatMap (fun q => mk (if d.alg = 2 then prev else q) .fin q (q * b) b)
    | 3 =>
      if me = d.root then []
      else mk (if d.alg = 2 then prev else if d.alg = 3 then treeParent p d.root me else d.root) .fin d.root 0 b
    | 4 =>
      if me = d.root ∧ d.alg = 2 then
        ((List.range p).filter (fun q => q != me)).flatMap (fun q => let (o, n) := x.part p q; mk q .fin q o n)
      else []
    | 5 => ((List.range p).filter (fun q => q != me)).flatMap (fun q => mk q .fin q (q * b) b)
    | 7 => if d.recv then mk d.root .fin d.root 0 b else []
    | _ => []
  contrib ++ doms ++ fin

/-- Finished data this member has at the start: its own block, or the root's source; offset, bytes. -/
def ownFin (d : CollDesc) (me : Nat) (src : List Byte) : List (Nat × List Byte) :=
  let b := d.count * dtBytes d.dtype
  match d.op with
  | 2 => [(me * b, src)]
  | 3 => if me = d.root then [(0, src)] else []
  | 5 => [(me * b, (src.drop (me * b)).take b)]
  | _ => []

/-- The ranks finished data of this member goes to first. -/
def firstFin (d : CollDesc) (g : Nat) (seq : W32) (p me : Nat) (src : List Byte) : List (Nat × Msg) :=
  let b := d.count * dtBytes d.dtype
  let all := (List.range p).filter (fun r => r != me)
  match d.op with
  | 2 =>
    let ms := mkPieces g seq .fin me (me * b) src
    (if d.alg = 2 then onward d p me me else all).flatMap (fun r => ms.map (fun m => (r, m)))
  | 3 =>
    if me ≠ d.root then []
    else (if d.alg = 1 then all else onward d p me me).flatMap (fun r => (mkPieces g seq .fin me 0 src).map (fun m => (r, m)))
  | 5 => all.flatMap (fun r => (mkPieces g seq .fin me (me * b) ((src.drop (r * b)).take b)).map (fun m => (r, m)))
  | 7 => if d.recv then [] else all.flatMap (fun r => (mkPieces g seq .fin me 0 src).map (fun m => (r, m)))
  | _ => []

/-- A COLL whose destination overlaps the committed weights (10 R246). -/
def State.collBarred (s : State) (c : Cmd) : Bool :=
  !collStep c && s.refAny (s.collDstRange c).1 (s.collDstRange c).2 s.inCommitted

/-- Write finished bytes to the destination; the status with which the collective fails, if it may not or cannot: the committed weights
(10 R246), or a granule that refused. -/
def State.collWrite (s : State) (c : Cmd) (x : Coll) (p me off : Nat) (bs : List Byte) : State × Option W16 :=
  let r := (s.collDst c).add (finOff x p me off)
  if s.collBarred c then (s, some Status.errRange)
  else
    let (s1, bad) := s.writeRef r bs
    (s1.markOpt r bs.length, if bad.isSome then some Status.memUncorrectable else none)

/-- The collective fails here with a status of its own: the others see it withdrawn, or cause MEMORY (R292, R295). -/
def State.collBad (s : State) (g : Nat) (x : Coll) (st : W16) : State := s.collFail g x st (if st = Status.errRange then 2 else 4)

/-- The rank that sends a wanted piece: a selected backup in place of the primary, and nobody before the selection (R291); after a
takeover the origin of finished data that has said so (R294). -/
def State.wantFrom (s : State) (g : Nat) (x : Coll) (w : Want) : Option Nat :=
  match w.kind with
  | .fin => some (if x.origin.contains w.rank then w.rank else w.sender)
  | .domain => some w.sender
  | .contrib =>
    if x.desc.alg = 3 then some w.sender
    else
      match (if x.desc.step then s.bkList.find? (fun i => s.roleRank g (s.bkPrimary i) == w.rank) else none) with
      | none => some w.sender
      | some i =>
        (s.trn.bkSel.find? (fun b => b.1.toNat == i)).map (fun b => if b.2 then s.roleRank g (s.bkBackup i) else w.sender)

/-- Grant credits to senders while landing pieces are free, each sender one at a time (R283, log 24). -/
def State.collGrant (s : State) (g : Nat) : Nat → State
  | 0 => s
  | n + 1 =>
    match s.curColl g with
    | none => s
    | some x =>
      if x.granted.length ≥ s.grpCredits g then s
      else
        match (x.want.filterMap (s.wantFrom g x)).find? (fun r => !x.granted.contains r && r != s.grpRank g) with
        | none => s
        | some r =>
          State.collGrant ((s.setColl g (some { x with granted := x.granted ++ [r] })).sendMsg (s.rankId g r)
            (.collCredit (BitVec.ofNat 8 g) x.seq)) g n

/-- The landing piece of a contribution that a TREE passes on is free once it has been sent. -/
def Coll.freed (x : Coll) (v : CollEnv) (m : Msg) : List Nat :=
  match m with
  | .collPiece _ _ .contrib q _ _ _ _ =>
    if x.desc.alg = 3 then (match treeVia v.p x.desc.root v.me v.p q with | some k => x.granted.erase k | none => x.granted) else x.granted
  | _ => x.granted

/-- Send what credits allow. -/
def State.collPump (s : State) (g : Nat) : Nat → State
  | 0 => s
  | n + 1 =>
    match s.curColl g with
    | none => s
    | some x =>
      match x.out.find? (fun o => x.credit.contains o.1) with
      | none => s
      | some o =>
        State.collPump ((s.setColl g (some { x with
          out := x.out.erase o, sent := x.sent ++ [o], credit := x.credit.erase o.1, granted := x.freed (s.collEnv g x) o.2 })).sendMsg
          (s.rankId g o.1) o.2) g n

/-! ### Taking landed pieces (R284, R285) -/

/-- The fold a landed piece goes to. -/
def Coll.foldOf (x : Coll) (v : CollEnv) (pc : Piece) : Option Fold :=
  x.folds.find? (fun f => decide (f.off ≤ pc.off) && decide (pc.off < f.off + f.len) &&
    (match pc.kind, f.dom with
     | .contrib, some k => (v.runs.getD k []).contains pc.rank
     | .domain, none => true
     | _, _ => false))

/-- A TREE carries this piece up. -/
def Coll.climbs (x : Coll) (v : CollEnv) (pc : Piece) : Bool :=
  pc.kind == .contrib && x.desc.alg == 3 && treePos v.p x.desc.root v.me != 0

/-- The piece can be taken now: finished data at once, a contribution at the vault adders in any order, else in ascending rank; up a
tree in ascending offset and rank. -/
def Coll.takeable (x : Coll) (v : CollEnv) (pc : Piece) : Bool :=
  if pc.kind = .fin then true
  else if x.climbs v pc then
    let before (o r : Nat) : Bool := decide (o < pc.off) || (o == pc.off && decide (r < pc.rank))
    x.want.all (fun w => w.kind != .contrib || !before w.off w.rank) && x.land.all (fun l => l.kind != .contrib || !before l.off l.rank)
  else
    match x.foldOf v pc with
    | none => false
    | some f =>
      match f.dom with
      | some k => f.vault || (v.runs.getD k []).getD f.n v.p == pc.rank
      | none => f.n == pc.rank

/-- The landing piece is free again. -/
def Coll.free (x : Coll) (pc : Piece) : Coll :=
  { x with land := x.land.erase pc, granted := match pc.slot with | some r => x.granted.erase r | none => x.granted }

/-- A part, or a piece of it, is final: written here, sent on (R284, R289). -/
def State.partDone (s : State) (v : CollEnv) (x : Coll) (c : Cmd) (off : Nat) (bs : List Byte) (fl : Fl) (written : Bool) : State :=
  let dests := if x.desc.op = 4 ∧ x.desc.alg = 2 ∧ v.me ≠ x.desc.root then [x.desc.root] else onward x.desc v.p v.me v.me
  let own := x.writesPart v.me
  let y := { x with out := x.out ++ dests.map (fun r => (r, mkPiece v.g x.seq .fin v.me off fl bs)),
                    fl := if own then Fl.join x.fl fl else x.fl }
  if !own || written then s.setColl v.g (some y)
  else
    match s.collWrite c x v.p v.me off bs with
    | (s1, none) => s1.setColl v.g (some y)
    | (s1, some st) => s1.collBad v.g y st

/-- A domain's fold over a piece is complete: with one domain that is the result, else it goes to the owners, as one record (R285,
R288). -/
def State.domainDone (s : State) (v : CollEnv) (x : Coll) (c : Cmd) (f : Fold) (k : Nat) : State :=
  if v.runs.length = 1 then s.partDone v x c f.off f.val f.fl f.vault
  else
    let rs := x.ownersOf v f.off
    let mine : List Piece :=
      if rs.contains v.me then [{ kind := .domain, rank := k, off := f.off, data := f.val, fl := f.fl, slot := none }] else []
    s.setColl v.g (some { x with
      out := x.out ++ (if x.desc.alg = 3 then [] else (rs.filter (fun r => r != v.me)).map (fun r => (r, mkPiece v.g x.seq .domain k f.off f.fl f.val))),
      land := x.land ++ mine })

/-- A fold has taken one term more. -/
def State.foldTook (s : State) (v : CollEnv) (x : Coll) (c : Cmd) (old f : Fold) : State :=
  let rest := x.folds.erase old
  match f.dom with
  | some k =>
    if f.n < (v.runs.getD k []).length then s.setColl v.g (some { x with folds := rest ++ [f] })
    else s.domainDone v { x with folds := rest } c f k
  | none =>
    if f.n < v.runs.length then s.setColl v.g (some { x with folds := rest ++ [f] })
    else s.partDone v { x with folds := rest } c f.off f.val f.fl false

/-- The contribution of a granule to a vault's round: TOKEN its place in the fold, LAST on the last (R284). -/
def fabContrib (x : Coll) (ver : W64) (g k n : Nat) (bs : List Byte) : Contrib :=
  { src := .fabric, gran := g, ctl := at64 2 2 x.desc.dtype ||| at64 5 1 (b2n (k + 1 == n)) ||| at64 6 16 k, data := bs, ver := ver,
    step := x.desc.step }

/-- Granules of a contribution offered to their vaults in ascending address: those not yet accepted, and the flags, or none where a
granule cannot be used (R229, R230, R292). -/
def State.offerAll (s : State) (x : Coll) (ver : W64) (k n : Nat) : Nat → Ref → List Byte → Fl → State × Option (List Byte × Fl)
  | 0, _, bs, fl => (s, some (bs, fl))
  | fuel + 1, r, bs, fl =>
    match bs, s.refLoc r with
    | [], _ => (s, some ([], fl))
    | _, none => (s, some ([], fl))
    | bs, some loc =>
      match s.repairGranule (loc / 64) with
      | (s1, false) => (s1.unmasked loc, none)
      | (s1, true) =>
        match s1.offer (fabContrib x ver (loc / 64) k n (bs.take 64)) with
        | (_, .refused) => (s1, some (bs, fl))
        | (s2, .applied f) => State.offerAll s2 x ver k n fuel (r.add 64) (bs.drop 64) (Fl.join fl f)
        | (s2, _) => State.offerAll s2 x ver k n fuel (r.add 64) (bs.drop 64) fl

/-- Take a landed piece. What a vault refuses stays landed and is offered again later. -/
def State.takePiece (s : State) (v : CollEnv) (x : Coll) (c : Cmd) (pc : Piece) : State :=
  if pc.kind = .fin then
    let y := { x.free pc with
      out := x.out ++ (onward x.desc v.p v.me pc.rank).map (fun r => (r, mkPiece v.g x.seq .fin pc.rank pc.off pc.fl pc.data)),
      fl := Fl.join x.fl pc.fl }
    match s.collWrite c x v.p v.me pc.off pc.data with
    | (s1, none) => s1.setColl v.g (some y)
    | (s1, some st) => s1.collBad v.g y st
  else if x.climbs v pc then
    s.setColl v.g (some { x with
      land := x.land.erase pc, out := x.out ++ [(treeParent v.p x.desc.root v.me, mkPiece v.g x.seq .contrib pc.rank pc.off {} pc.data)] })
  else
    match x.foldOf v pc with
    | none => s
    | some f =>
      match f.vault, f.dom with
      | true, some k =>
        let run := v.runs.getD k []
        let r := (s.collDst c).add (finOff x v.p v.me pc.off)
        match s.offerAll x s.trnVer (run.findIdx (fun q => q == pc.rank)) run.length (pc.data.length + 1) r pc.data {} with
        | (s1, none) => s1.collBad v.g x Status.memUncorrectable
        | (s1, some ([], fl)) =>
          let n := f.n + 1
          let val := if n = run.length then (s1.readRef ((s1.collDst c).add (finOff x v.p v.me f.off)) f.len).1 else []
          s1.foldTook v (x.free pc) c f { f with n := n, val := val, fl := Fl.join f.fl fl }
        | (s1, some (left, fl)) =>
          s1.setColl v.g (some { x with
            land := x.land.erase pc ++ [{ pc with off := pc.off + (pc.data.length - left.length), data := left }],
            folds := x.folds.map (fun h => if h == f then { h with fl := Fl.join h.fl fl } else h) })
      | _, _ =>
        let (bs, fl) := foldTerm x.desc s.satPolicy (f.n == 0) (f.dom == none) f.val pc.data
        (s.countSat 0 fl.sat).foldTook v (x.free pc) c f
          { f with n := f.n + 1, val := bs, fl := Fl.join (Fl.join f.fl fl) (if f.dom = none then pc.fl else {}) }

/-- Take landed pieces while one can be taken. -/
def State.collTake (s : State) (g : Nat) (c : Cmd) : Nat → State
  | 0 => s
  | n + 1 =>
    match s.curColl g with
    | none => s
    | some x =>
      let v := s.collEnv g x
      match x.land.find? (x.takeable v) with
      | none => s
      | some pc => State.collTake (s.takePiece v x c pc) g c n

/-- A piece of this collective is on its way and not acknowledged. -/
def State.collUnacked (s : State) (g : Nat) (seq : W32) : Bool :=
  s.fab.sent.any (fun f => match f.body with
    | .bulk (.collPiece h q _ _ _ _ _ _) _ => h.toNat == g && q == seq
    | _ => false)

/-- Whatever the current collective of a group can do now: fold, grant, send, complete (R297). -/
def State.collRun (s : State) (g : Nat) : State :=
  match s.curColl g with
  | none => s
  | some x =>
    if x.phase ≠ .data ∨ x.susp then s
    else
      match s.findCmd x.q x.cmd with
      | none => s
      | some c =>
        let s1 := s.collTake g c (x.land.length + x.folds.length)
        let s2 := s1.collGrant g 16
        let s3 := s2.collPump g (match s2.curColl g with | some y => y.out.length | none => 0)
        match s3.curColl g with
        | none => s3
        | some y =>
          if y.want.isEmpty && y.out.isEmpty && y.land.isEmpty && y.folds.isEmpty &&
             !(y.desc.op == 7 && !y.desc.recv && s3.collUnacked g y.seq) then
            if y.desc.step then s3.setColl g (some { y with phase := .norm })
            else s3.collEnd g y Status.ok 0 0 0
          else s3

/-- Start sending this member's own source as the term of a rank: its pieces go out, its own part lands (R291). -/
def Coll.sendTerm (x : Coll) (v : CollEnv) (as : Nat) (src : List Byte) : Coll :=
  let own := x.contribOwn v as src
  { x with out := if x.desc.alg = 3 then x.out else x.out ++ x.contribOut v as src, land := x.land ++ own,
           want := x.want.filter (fun w => w.kind != .contrib || !(own.any (fun l => l.rank == w.rank && l.off == w.off))) }

/-- A selection of this module's term takes effect: the selected holder sends the primary's term, the other discards its own (R291). -/
def State.bkSettle (s : State) (g : Nat) : State :=
  match s.curColl g with
  | none => s
  | some x =>
    if !x.desc.step || x.phase != .data then s
    else
      (s.bkMine x.desc).foldl (fun s m =>
        match s.curColl g with
        | none => s
        | some x =>
          match s.trn.bkSel.find? (fun b => b.1.toNat == m.1) with
          | none => s
          | some b =>
            if x.settled.contains m.1 then s
            else
              let y := { x with settled := x.settled ++ [m.1] }
              if b.2 = m.2 then
                let (src, s1, _) := s.readRef s.gradRef s.wlen
                s1.setColl g (some (y.sendTerm (s.collEnv g x) (s.roleRank g (s.bkPrimary m.1)) src))
              else ({ s with trn := { s.trn with bkDrop := s.trn.bkDrop + 1 } } : State).setColl g (some y)) s

/-- A domain of which no rank contributes has the result +0, at the start (R285). -/
def State.emptyFolds (s : State) (g : Nat) (c : Cmd) : State :=
  match s.curColl g with
  | none => s
  | some x =>
    let v := s.collEnv g x
    (x.folds.filter (fun f => match f.dom with | some k => (v.runs.getD k []).isEmpty | none => false)).foldl
      (fun s f => match s.curColl g with | some y => s.foldTook v y c f f | none => s) s

/-- The data phase starts: every descriptor is equal (R282, R283). It waits while the destination is in use by the training job (10
R247). -/
def State.collData (s : State) (g : Nat) (x : Coll) : State :=
  match s.findCmd x.q x.cmd with
  | none => s
  | some c =>
    let dst := s.collDstRange c
    if s.collBarred c then s.collBad g x Status.errRange
    else if s.writeHeld dst.1 dst.2 then s
    else
      let v := s.collEnv g x
      let n := if x.desc.step then s.wlen else (collLens x.desc v.p v.me).1
      let (src, s1, bad) := s.readRef (s.collSrc c) n
      if bad.isSome then (s1.unmaskedAt ((s.collSrc c).add src.length)).collBad g { x with phase := .data } Status.memUncorrectable
      else
        let vault := s1.atVaults x v c
        let hold := !(s1.bkMine x.desc).isEmpty
        let part := x.part v.p v.me
        let y := { x with phase := .data, want := x.wants v hold, folds := x.startFolds v vault,
                          out := x.out ++ firstFin x.desc g x.seq v.p v.me src }
        let z := if hold || !opReduces x.desc.op || !v.runs.flatten.contains v.me then y else y.sendTerm v v.me src
        -- the round at the vaults is opened: every granule of the part at +0, ORDC 0 (R284)
        let (s2, b0) := if vault && part.2 != 0 then s1.collWrite c x v.p v.me part.1 (List.replicate part.2 0) else (s1, none)
        let (s3, b1) := (ownFin x.desc v.me src).foldl
          (fun (a : State × Option W16) o => let (t, b) := a.1.collWrite c x v.p v.me o.1 o.2; (t, a.2.or b)) (s2, b0)
        match b1 with
        | some st => s3.collBad g z st
        | none => (((s3.setColl g (some z)).emptyFolds g c).bkSettle g).collRun g

/-- Every descriptor is here: compare, then go on (R281, R282). -/
def State.collMatch (s : State) (g : Nat) : State :=
  match s.curColl g with
  | none => s
  | some x =>
    let p := (s.members g).length
    if x.phase ≠ .hand ∨ x.susp ∨ x.hands.length < p then s
    else
      match x.hands.find? (fun h => h.1 == 0) with
      | none => s
      | some (_, hash, ref) =>
        let bad := (List.range p).findSome? (fun r =>
          (x.hands.find? (fun h => h.1 == r)).bind (fun h =>
            match mismatch ref h.2.2 (decide (r ≠ 0)) with
            | some f => some (r, f)
            | none => if h.2.1 = hash then none else some (r, 0)))
        match bad with
        | some (r, f) => s.collEnd g x Status.collMismatch r f 0
        | none =>
          if x.desc.step then
            match partBreak s.wlen ((List.range p).filterMap (fun r =>
                (x.hands.find? (fun h => h.1 == r)).map (fun h => (h.1, h.2.2)))) 0 none with
            | some r => s.collEnd g x Status.collMismatch r 10 0
            | none => s.collData g x
          else s.collData g x

/-- What can go on in the current collectives does: what waited for storage in use, for a vault's hold store, or for an
acknowledgement. -/
def State.collPoke (s : State) : State :=
  (List.range 256).foldl (fun s g => if (s.curColl g).isSome then (s.collMatch g).collRun g else s) s

/-! ## Messages -/

/-- Keep a message that came before its collective was current. -/
def State.collBox (s : State) (g : Nat) (seq : W32) (src : BitVec 12) (m : Msg) : State :=
  if (seq - Tab.get 0 s.coll.turn g).toNat < 2 ^ 31 then { s with coll := { s.coll with box := s.coll.box ++ [(src, m)] } } else s

/-- Ranks a module holds in a group. -/
def State.ranksOf (s : State) (g : Nat) (id : BitVec 12) : List Nat :=
  (List.range (s.holders g).length).filter (fun r => s.rankId g r == id)

/-- A member's descriptor arrives (R281). -/
def State.collHandFrom (s : State) (g : Nat) (seq : W32) (src : BitVec 12) (h : W64) (d : CollDesc) : State :=
  match s.curColl g with
  | some x =>
    if x.seq = seq then
      let rs := (s.ranksOf g src).filter (fun r => x.hands.all (fun h => h.1 != r))
      (s.setColl g (some { x with hands := x.hands ++ rs.map (fun r => (r, h, d)) })).collMatch g
    else s.collBox g seq src (.collHand (BitVec.ofNat 8 g) seq h d)
  | none => s.collBox g seq src (.collHand (BitVec.ofNat 8 g) seq h d)

/-- COLL_HANDSHAKE_RECEIVE (R281). -/
def execCollHandshakeReceive (g : BitVec 8) (seq : W32) (src : BitVec 12) (h : W64) (d : CollDesc) (s : State) : Out :=
  .next (s.collHandFrom g.toNat seq src h d)

/-- A piece lands (R283): kept until it is folded, written or passed on. A piece that is not wanted, such as one sent again after a
takeover, is dropped and its landing piece free again (R294). -/
def State.collPieceFrom (s : State) (g : Nat) (seq : W32) (src : BitVec 12) (kind : PieceKind) (rank off : Nat) (fl : Fl) (data : List Byte) :
    State :=
  let box := s.collBox g seq src (mkPiece g seq kind rank off fl data)
  match s.curColl g with
  | none => box
  | some x =>
    if x.seq ≠ seq ∨ x.phase = .hand then box
    else
      let slot := (s.ranksOf g src).find? (fun r => x.granted.contains r)
      match x.want.find? (fun w => w.kind == kind && w.rank == rank && w.off == off && w.len == data.length) with
      | some w =>
        (s.setColl g (some { x with
          want := x.want.erase w, land := x.land ++ [{ kind := kind, rank := rank, off := off, data := data, fl := fl, slot := slot }] })).collRun g
      | none =>
        match slot with
        | some r => if x.land.any (fun l => l.slot == some r) then s else (s.setColl g (some { x with granted := x.granted.erase r })).collRun g
        | none => s

/-- An owner names the contributions of this module's rank that it has already (R294). -/
def State.collHeldFrom (s : State) (g : Nat) (seq : W32) (src : BitVec 12) (offs : List Nat) : State :=
  match s.curColl g with
  | some x =>
    if x.seq = seq then
      let rs := s.ranksOf g src
      let has := rs.flatMap (fun r => offs.map (fun o => (r, o)))
      let gone (o : Nat × Msg) : Bool := match o.2 with | .collPiece _ _ .contrib _ k _ _ _ => has.contains (o.1, k) | _ => false
      (s.setColl g (some { x with spared := x.spared ++ has, origin := x.origin ++ rs, out := x.out.filter (fun o => !gone o) })).collRun g
    else s.collBox g seq src (.collHeld (BitVec.ofNat 8 g) seq offs)
  | none => s.collBox g seq src (.collHeld (BitVec.ofNat 8 g) seq offs)

/-- COLL_PIECE_RECEIVE (R283, R292): `f` is what the code and the vault adders' residue check find as the piece is taken, `res` the
residue mismatches of reduction unit u on it. -/
def execCollPieceReceive (g : BitVec 8) (seq : W32) (src : BitVec 12) (kind : PieceKind) (rank off : Nat) (flags : BitVec 5) (sat : W32)
    (data : List Byte) (f : MemFind) (u res : BitVec 2) (s : State) : Out :=
  let s1 := (s.found f).fabricMiss u res.toNat
  if res = 3 then
    match s1.curColl g.toNat with
    | some x => if x.seq = seq then .next (s1.collFail g.toNat x Status.collAbort 3) else .next s1
    | none => .next s1
  else .next (s1.collPieceFrom g.toNat seq src kind rank off (Fl.ofBits flags sat) data)

/-- A credit arrives (R283). -/
def State.collCreditFrom (s : State) (g : Nat) (seq : W32) (src : BitVec 12) : State :=
  match s.curColl g with
  | some x =>
    if x.seq = seq then
      (s.setColl g (some { x with credit := x.credit ++ (s.ranksOf g src).take 1 })).collRun g
    else s.collBox g seq src (.collCredit (BitVec.ofNat 8 g) seq)
  | none => s.collBox g seq src (.collCredit (BitVec.ofNat 8 g) seq)

/-- A norm record arrives (R290). -/
def State.collNormFrom (s : State) (g : Nat) (seq : W32) (src : BitVec 12) (rec : W64) : State :=
  match s.curColl g with
  | some x =>
    if x.seq = seq then
      let rs := (s.ranksOf g src).filter (fun r => x.norms.all (fun h => h.1 != r))
      s.setColl g (some { x with norms := x.norms ++ rs.map (fun r => (r, rec)) })
    else s.collBox g seq src (.norm (BitVec.ofNat 8 g) seq rec)
  | none => s.collBox g seq src (.norm (BitVec.ofNat 8 g) seq rec)

/-- An outcome decided elsewhere: the current collective completes, one still to come is marked (R293, R295). -/
def State.collOutcome (s : State) (g : Nat) (seq : W32) (st : W16) (rank cause : Nat) : State :=
  match s.curColl g with
  | some x =>
    if x.seq = seq then s.collEnd g x st rank 0 cause
    else if (seq - x.seq).toNat < 2 ^ 31 then
      { s with coll := { s.coll with early := s.coll.early ++ [{ g := g, seq := seq, st := st, rank := rank, cause := cause }] } }
    else s
  | none =>
    if (seq - Tab.get 0 s.coll.turn g).toNat < 2 ^ 31 then
      { s with coll := { s.coll with early := s.coll.early ++ [{ g := g, seq := seq, st := st, rank := rank, cause := cause }] } }
    else s

/-- COLL_TIMEOUT_MESSAGE (R293). -/
def execCollTimeoutMessage (g : BitVec 8) (seq : W32) (rank : BitVec 12) (s : State) : Out :=
  .next (s.collOutcome g.toNat seq Status.collTimeout rank.toNat 0)

/-- COLL_ABORT_MESSAGE (R295): ABORT or WITHDRAW. -/
def execCollAbortMessage (g : BitVec 8) (seq : W32) (cause : BitVec 4) (rank : BitVec 12) (s : State) : Out :=
  .next (s.collOutcome g.toNat seq Status.collAbort rank.toNat cause.toNat)

/-! ## Rows of a collective -/

/-- A COLL ends without executing, or with ERR_RANGE at execution: its number is withdrawn, its result names it (R295, R297). -/
def State.collGone (s : State) (q : Nat) (c : Cmd) (st : W16) : State :=
  let n : W32 := BitVec.ofNat 32 c.pos
  (s.withdraw (collGrp c) n).endCmd q c.seq st (collResult n (collGrp c) 0 0 0 0 {})

/-- COLL (R279, R280): a dispatched COLL waits for its turn; one whose destination overlaps the committed weights withdraws. -/
def execColl (q : BitVec 6) (seq : W32) (s : State) : Out :=
  match s.findCmd q.toNat seq with
  | none => .next s
  | some c =>
    let g := collGrp c
    let n : W32 := BitVec.ofNat 32 c.pos
    if c.phase ≠ .running ∨ Cmd.opcode c ≠ 0x04 ∨ s.coll.ready.any (fun r => r.2.2 == (q.toNat, seq)) ∨
       (match s.curColl g with | some x => decide (x.q = q.toNat ∧ x.cmd = seq) | none => false) = true then .next s
    else
      if s.collBarred c then .next (s.collGone q.toNat c Status.errRange)
      else .next { s with coll := { s.coll with ready := s.coll.ready ++ [(g, n, q.toNat, seq)] } }

/-- Hand the messages kept for a collective to it. -/
def State.collUnbox (s : State) (g : Nat) (seq : W32) : State :=
  let mine (m : Msg) : Bool := match m with
    | .collHand h q _ _ => h.toNat == g && q == seq
    | .collPiece h q _ _ _ _ _ _ => h.toNat == g && q == seq
    | .collHeld h q _ => h.toNat == g && q == seq
    | .collCredit h q => h.toNat == g && q == seq
    | .norm h q _ => h.toNat == g && q == seq
    | _ => false
  let l := s.coll.box.filter (fun b => mine b.2)
  let s1 : State := { s with coll := { s.coll with box := s.coll.box.filter (fun b => !mine b.2) } }
  let hands := l.filter (fun b => match b.2 with | .collHand _ _ _ _ => true | _ => false)
  let rest := l.filter (fun b => match b.2 with | .collHand _ _ _ _ => false | _ => true)
  (hands ++ rest).foldl (fun s b => match b.2 with
    | .collHand _ q h d => s.collHandFrom g q b.1 h d
    | .collPiece _ q k r o fs n bs => s.collPieceFrom g q b.1 k r o (Fl.ofBits fs n) bs
    | .collHeld _ q os => s.collHeldFrom g q b.1 os
    | .collCredit _ q => s.collCreditFrom g q b.1
    | .norm _ q w => s.collNormFrom g q b.1 w
    | _ => s) s1

/-- A primary or backup of a STEP collective announces that its contribution is ready, which is now (R291). -/
def State.bkAnnounce (s : State) (g : Nat) (d : CollDesc) : State :=
  (s.bkMine d).foldl (fun s m =>
    if s.leadRank g = s.grpRank g then s.bkAnnounced (BitVec.ofNat 4 m.1) m.2
    else s.sendMsg (s.rankId g (s.leadRank g)) (.backupReady (BitVec.ofNat 4 m.1) m.2)) s

/-- COLL_BECOMES_CURRENT (R280, R281): the dispatched collective whose turn it is starts its handshake and its timer. One whose
destination has become the committed buffer since withdraws (10 R246). -/
def execCollBecomesCurrent (g : BitVec 8) (s : State) : Out :=
  let n := g.toNat
  let t := Tab.get 0 s.coll.turn n
  match s.curColl n, s.coll.ready.find? (fun r => r.1 == n && r.2.1 == t) with
  | none, some r =>
    match s.findCmd r.2.2.1 r.2.2.2 with
    | none => .next s
    | some c =>
      let d := s.collDesc c
      let x : Coll := { q := r.2.2.1, cmd := r.2.2.2, seq := t, desc := d, since := s.now, hands := [(s.grpRank n, (collHash d), d)] }
      let s1 : State := { s with coll := { s.coll with ready := s.coll.ready.erase r } }
      match s1.coll.early.find? (fun e => e.g == n && e.seq == t) with
      | some e =>
        let s2 : State := { s1 with coll := { s1.coll with early := s1.coll.early.filter (fun y => !(y.g == n && y.seq == t)) } }
        .next (s2.collEnd n x e.st e.rank 0 e.cause)
      | none =>
        if s1.collBarred c then .next (s1.collGone r.2.2.1 c Status.errRange)
        else .next (((((s1.setColl n (some x)).bkAnnounce n d).toGroup n (.collHand g t (collHash d) d)).collMatch n).collUnbox n t)
  | _, _ => .next s

/-- The lowest rank from which the member still lacks data or a descriptor (R293). -/
def State.collLack (s : State) (g : Nat) (x : Coll) : Nat :=
  let p := (s.members g).length
  let lacks : List Nat := match x.phase with
    | .hand => (List.range p).filter (fun r => x.hands.all (fun h => h.1 != r))
    | .data => x.want.map (fun w => if w.kind = .domain then w.sender else w.rank)
    | .norm => (List.range p).filter (fun r => x.norms.all (fun h => h.1 != r))
  lacks.foldl min (if lacks.isEmpty then 0 else p)

/-- COLL_TIMEOUT_EXPIRY (R293). A STEP collective uses no TO (R290). -/
def execCollTimeoutExpiry (g : BitVec 8) (s : State) : Out :=
  let n := g.toNat
  match s.curColl n with
  | none => .next s
  | some x =>
    match s.findCmd x.q x.cmd with
    | none => .next s
    | some c =>
      if x.desc.step ∨ s.now - x.since < s.collTo c * msec then .next s
      else
        let r := s.collLack n x
        .next ((s.toGroup n (.collTimeout g x.seq r)).collEnd n x Status.collTimeout r 0 0)

/-- A write to COLL_ABORT (R295). -/
def State.writeCollAbort (s : State) (v : W64) : Option State :=
  if fld v 9 55 ≠ 0 then none
  else if bit v 8 = false then some s
  else
    match s.curColl (fld v 0 8) with
    | some x => some (s.collFail (fld v 0 8) x Status.collAbort 1)
    | none => some s

/-- COLL_ABORT (R295). -/
def execCollAbort (k : Packet) (s : State) : Out := .next (s.regWr k (fun o => o == 0xB0008) (fun s _ v => s.writeCollAbort v))

/-- The collective still waits on a rank (R294): for its descriptor, its data, its norm record, or its landing pieces. -/
def State.waitsOn (s : State) (g : Nat) (x : Coll) (r : Nat) : Bool :=
  match x.phase with
  | .hand => x.hands.all (fun h => h.1 != r)
  | .data => x.want.any (fun w => s.wantFrom g x w == some r || (w.kind == .contrib && w.rank == r)) || x.out.any (fun o => o.1 == r)
  | .norm => x.norms.all (fun h => h.1 != r)

/-- A declaration suspends the collectives that wait on the failed member's ranks; their timers go on (R294). -/
def State.collSuspend (s : State) (f : BitVec 12) : State :=
  (List.range 256).foldl (fun s g =>
    match s.curColl g with
    | some x => if (s.ranksOf g f).any (s.waitsOn g x) then s.setColl g (some { x with susp := true }) else s
    | none => s) s

/-- Collectives suspended on a member nobody replaces end with COLL_TIMEOUT (11 R294). -/
def State.collLost (s : State) (f : BitVec 12) : State :=
  (List.range 256).foldl
    (fun s g =>
      match s.curColl g, (s.ranksOf g f).head? with
      | some x, some r => if x.susp then s.collEnd g x Status.collTimeout r 0 0 else s
      | _, _ => s) s

/-- The byte offsets at which this member has the contribution of a rank, applied, held or landed. -/
def Coll.hasFrom (x : Coll) (v : CollEnv) (r : Nat) : List Nat :=
  if !opReduces x.desc.op || x.desc.alg == 3 || !(v.runs.getD (v.dom v.me) []).contains r then []
  else
    ((x.agentParts v).flatMap (fun a => (pieces a.1 a.2).map (fun q => q.1))).filter
      (fun o => x.want.all (fun w => !(w.kind == .contrib && w.rank == r && w.off == o)))

/-- A piece this member sent, or is to send, that the spare of rank r gets: contributions and domain results the rank folds, and
finished data of which this member is the origin. -/
def Coll.forSpare (x : Coll) (v : CollEnv) (r : Nat) (o : Nat × Msg) : Bool :=
  match o.2 with
  | .collPiece _ _ .fin q _ _ _ _ => q == v.me && (o.1 == r || x.desc.op == 0 || x.desc.op == 2 || x.desc.op == 3)
  | _ => o.1 == r

/-- COLL_RESUME (R294): after a takeover of rank r the collective goes on with the spare: it is told what this member has of the failed
member's contributions, and gets from this member everything the failed one had got for its own part, and the finished data of
which this member is the origin. The KTO timer of the reduction of a step starts again (10 R264). -/
def execCollResume (g : BitVec 8) (r : BitVec 12) (s : State) : Out :=
  let n := g.toNat
  let k := r.toNat
  match s.curColl n with
  | none => .next s
  | some x =>
    let id := s.rankId n k
    if k ≥ (s.members n).length ∨ s.isFailed id ∨ id = (s.members n).getD k 0 ∨ id = s.ownIdent then .next s
    else
      let v := s.collEnv n x
      let again := (((x.sent ++ x.out).filter (x.forSpare v k)).map (fun o => (k, o.2))).eraseDups
      let y := { x with
        susp := false,
        out := x.out.filter (fun o => o.1 != k) ++ again,
        sent := x.sent.filter (fun o => o.1 != k),
        since := if x.desc.step then s.now else x.since,
        granted := x.granted.filter (fun q => q != k || x.land.any (fun l => l.slot == some k)),
        credit := x.credit.filter (fun q => q != k) }
      let s1 := (s.setColl n (some y)).sendMsg id (.collHand g x.seq (collHash x.desc) x.desc)
      let s2 := if x.phase = .hand then s1 else s1.sendMsg id (.collHeld g x.seq (x.hasFrom v k))
      let s3 := match y.norms.find? (fun h => h.1 == s.grpRank n) with
        | some h => s2.sendMsg id (.norm g x.seq h.2)
        | none => s2
      .next ((s3.collMatch n).collRun n)

end Sys2Proof.Machine
end

