-- ==== Sys2Proof/Machine/Training.lean ====
section
/-! DEFINITION. The training step: registers, norm and decision, mirrors, the commit barrier, backups, takeover, digests,
checkpoints (10 R244 to R269). -/
namespace Sys2Proof.Machine

/-! ## Registers (Tables 10.1 to 10.5) -/

def State.trnCfg (s : State) (lo n : Nat) : Nat := fld (s.reg (Reg.trn 0)) lo n
def State.cgrp (s : State) : Nat := s.trnCfg 1 8
def State.rgrp (s : State) : Nat := s.trnCfg 9 8
def State.kto (s : State) : Nat := s.trnCfg 41 16
/-- LS_LOG2. -/
def State.lsLog2 (s : State) : Int := sfld (s.reg (Reg.trn 8)) 0 8
def State.setLs (s : State) (v : Int) : State :=
  s.setReg (Reg.trn 8) (setFld (s.reg (Reg.trn 8)) 0 8 ((v + 256) % 256).toNat)

/-- TRN_STAT and TRN_NORM (Table 10.4). -/
def State.trnStat (s : State) : W64 :=
  let t := s.trn
  at64 0 3 t.st ||| at64 3 1 (b2n t.skip) ||| at64 4 1 (b2n t.optTouched) ||| at64 5 1 (b2n t.mirrorBusy) |||
  at64 6 1 (b2n t.restoreBusy) ||| at64 8 12 t.role.toNat ||| at64 20 16 t.good ||| at64 36 16 t.last.toNat ||| at64 52 2 t.resume
def State.trnNorm (s : State) : W64 :=
  let t := s.trn
  at64 0 36 t.sq.toNat ||| at64 36 16 t.kf ||| at64 52 1 (b2n t.ovf) ||| at64 53 1 (b2n t.nan) ||| at64 54 1 (b2n t.abandon)

/-- What a training register of 0xA_0000 to 0xA_00FF shows, for the image of a mirror header. -/
def State.trnImage (s : State) (o : Nat) : W64 :=
  if o = 0x18 then s.trnStat else if o = 0x20 then s.trnNorm else s.reg (Reg.trn o)

/-! ## Enabling (R245) -/

/-- Two ranges given by reference have a byte in common. -/
def refOverlap (a : Ref) (n : Nat) (b : Ref) (m : Nat) : Bool :=
  match a, b with
  | .addr x, .addr y => decide (x < y + m) && decide (y < x + n)
  | .hnd g x, .hnd h y => g == h && decide (x < y + m) && decide (y < x + n)
  | .loc x, .loc y => decide (x < y + m) && decide (y < x + n)
  | _, _ => false

/-- n bytes of the near tier from a reference on a boundary. -/
def State.nearRange (s : State) (r : Ref) (n align : Nat) : Bool :=
  decide (r.num % align = 0) && s.handleOk none r && s.refFits r n &&
  (match r with | .hnd h _ => (match s.dpmBuf h with | some b => b.near | none => false) | .addr a => inNear a | .loc _ => true)

/-- The areas of R245: weight buffers, gradient buffer, optimiser state, step record. -/
def State.trnAreas (s : State) : List (Ref × Nat × Nat) :=
  [(s.wbuf 0, s.wlen, 4096), (s.wbuf 1, s.wlen, 4096), (s.gradRef, s.wlen, 4096), (s.optRef, s.olen, 4096), (s.recRef, 32, 32)]

def apart : List (Ref × Nat × Nat) → Bool
  | [] => true
  | a :: l => l.all (fun b => !refOverlap a.1 a.2.1 b.1 b.2.1) && apart l

/-- A BF16 code that is positive and finite. -/
def bf16Pos (c : Nat) : Bool := match Fmt.bf16.decode c with | .fin false m _ => decide (m ≠ 0) | _ => false

/-- TRN_MBASE lies in the outer tier. -/
def State.outerRef (s : State) (r : Ref) : Bool :=
  match r with
  | .addr a => inOuter a
  | .hnd h _ => (match s.dpmBuf h with | some b => b.live && !b.near | none => false)
  | .loc _ => false

def State.maxNorm (s : State) : Nat := fld (s.reg (Reg.trn 8)) 25 16

/-- The conditions of R245 for setting ENABLE. -/
def State.enableOk (s : State) : Bool :=
  s.grpOn s.cgrp && s.trnAreas.all (fun a => s.nearRange a.1 a.2.1 a.2.2) && apart s.trnAreas &&
  decide (1 ≤ s.wlen) && decide (s.shoff + s.shlen ≤ s.wlen) && s.outerRef (s.refOf (s.reg (Reg.trn 0x88))) &&
  decide (-14 ≤ s.lsLog2) && decide (s.lsLog2 ≤ 24) && (s.maxNorm == 0 || bf16Pos s.maxNorm)

/-! ## Step record (Table 10.7) -/

def State.writeRecord (s : State) (ls : Int) : State :=
  let t := s.trn
  let w := (s.trnVer + 1).toNat + t.kf * 2 ^ 64 + ((ls + 256) % 256).toNat * 2 ^ 80 + b2n t.skip * 2 ^ 88 +
    (b2n t.ovf + 2 * b2n t.nan + 4 * b2n t.abandon) * 2 ^ 89 + t.sq.toNat * 2 ^ 128
  let (s1, bad) := s.writeRef s.recRef (toBytesLE 32 w)
  if bad.isSome then s1.unmaskedAt s1.recRef else s1

/-- Zero the gradient buffer (R250). -/
def State.zeroGrad (s : State) : State := s.zeroWhere (s.refHas s.gradRef s.wlen)

/-! ## Mirrors (R255, R256) -/

/-- SL. -/
def State.mirrorLen (s : State) : Nat := 4096 + 2 * s.shlen + s.olen
/-- An address or handle operand moved on by k bytes. -/
def State.operandAdd (s : State) (v : W64) (k : Nat) : W64 := if s.dpm then v + BitVec.ofNat 64 (k * 2 ^ 32) else v + BitVec.ofNat 64 k
/-- Where slot k of the mirror lies at the buddy. -/
def State.mirrorSlot (s : State) (k : Nat) : W64 := s.operandAdd (s.reg (Reg.trn 0x88)) (k * s.mirrorLen)
/-- The module that holds the buddy's role. -/
def State.buddy (s : State) : BitVec 12 := s.holderOf ((s.reg (Reg.trn 0x80)).setWidth 12)

/-- Write bytes at an address of another module in packets of at most 8,192 bytes, or of this one (13 R326). -/
def State.putRemote (s : State) (dst : BitVec 12) (a : W64) (bs : List Byte) : State :=
  if dst = s.ownIdent then (s.writeRef (s.refOf a) bs).1
  else
    (chunks 8192 bs).zipIdx.foldl (fun s (c, i) => (s.fabSend dst (.data (s.operandAdd a (8192 * i)) c)).1) s

/-- The header of a mirror slot (log 25). -/
def State.mirrorHeader (s : State) : List Byte :=
  let h := toBytesLE 8 s.trnVer.toNat ++ toBytesLE 8 s.trn.role.toNat ++
    (List.range 32).flatMap (fun i => toBytesLE 8 (s.trnImage (8 * i)).toNat)
  h ++ List.replicate (4096 - h.length) 0

/-- Read part of the training job's storage for the mirror; what cannot be read goes to the step protocol (09 R225). -/
def State.mirrorRead (s : State) (r : Ref) (n : Nat) : List Byte × State × Bool :=
  match s.readRef r n with
  | (bs, s1, none) => (bs, s1, true)
  | (bs, s1, some _) => (bs, s1.unmaskedAt (r.add bs.length), false)

/-- Start the mirror of the committed state into slot v mod 2 (R255). -/
def State.startMirror (s : State) : State :=
  let v := s.trnVer
  let (w, s1, ok1) := s.mirrorRead ((s.wbuf v).add s.shoff) s.shlen
  let (o, s2, ok2) := s1.mirrorRead s1.optRef s1.olen
  let s3 := if ok1 && ok2 then s2.putRemote s2.buddy (s2.mirrorSlot (v.toNat % 2)) (s2.mirrorHeader ++ w ++ o) else s2
  { s3 with trn := { s3.trn with mirrorBusy := true, mirrorLost := !(ok1 && ok2) } }

/-- Write the reduced gradient shard into the G region of slot TRN_VER mod 2 (R255). -/
def State.mirrorGrad (s : State) : State :=
  let (g, s1, ok) := s.mirrorRead (s.gradRef.add s.shoff) s.shlen
  let s2 := if ok then s1.putRemote s1.buddy (s1.operandAdd (s1.mirrorSlot (s1.trnVer.toNat % 2)) (4096 + s1.shlen + s1.olen)) g else s1
  { s2 with trn := { s2.trn with gradOut := true, gradIn := false, mirrorLost := s2.trn.mirrorLost || !ok } }

/-- A mirror packet to a module waits for its acknowledgement. -/
def State.bulkOut (s : State) (dst : BitVec 12) : Bool :=
  s.fab.sent.any (fun p => p.dst == dst && (match p.body with | .data _ _ => true | _ => false))

/-- Packets to a module are given up; mirror packets among them leave the mirror unaccepted (R255, R256; 13 R326). -/
def State.giveUp (s : State) (dst : BitVec 12) : State :=
  { s with
    fab := { s.fab with sent := s.fab.sent.filter (fun p => p.dst != dst) }
    trn := { s.trn with mirrorLost := s.trn.mirrorLost || s.bulkOut dst } }

/-- MIRROR_ACCEPTED (R255): the buddy has accepted the last byte. -/
def execMirrorAccepted (s : State) : Out :=
  if (s.trn.mirrorBusy ∨ (s.trn.gradOut = true ∧ s.trn.gradIn = false)) ∧ s.trn.mirrorLost = false ∧ s.bulkOut s.buddy = false then
    .next { s with trn := { s.trn with mirrorBusy := false, gradIn := s.trn.gradOut } }
  else .next s

/-- OPTIMISER_RESTORE_COMPLETE (R262): `bytes` is the O region read from another module; a self mirror is read here. -/
def execOptimiserRestoreComplete (bytes : List Byte) (s : State) : Out :=
  if s.trn.restoreBusy = false then .next s
  else
    let (bs, s1) :=
      if s.buddy = s.ownIdent then
        let (b, t, _) := s.readRef (s.refOf (s.operandAdd (s.mirrorSlot (s.trnVer.toNat % 2)) (4096 + s.shlen))) s.olen
        (b, t)
      else (bytes.take s.olen, s)
    let s2 := (s1.writeRef s1.optRef bs).1
    .next { s2 with trn := { s2.trn with restoreBusy := false, optTouched := false } }

/-! ## Writes to TRN_CFG (R245) -/

def State.isSpareEntry (s : State) (id : BitVec 12) : Bool :=
  (List.range 8).any (fun j => let r := s.reg (Reg.trn (0x200 + 8 * j)); bit r 0 && fld r 1 12 == id.toNat)

/-- What a window leaves behind is cleared. -/
def TrnSt.fresh (t : TrnSt) : TrnSt :=
  { t with winOvf := false, winNan := false, winCheck := false, late := false, formed := false, normed := false, decidedAt := none,
           gradOut := false, gradIn := false, sent := false, decision := none, readies := [], bkReady := [], bkSel := [],
           cmt := none, noCommit := false, resume := 0 }

/-- A write to TRN_CFG. CTO and KTO are at least 1 (Table 10.2). -/
def State.writeTrnCfg (s : State) (v : W64) : Option State :=
  let old := s.reg (Reg.trn 0)
  if fld v 25 16 = 0 ∨ fld v 41 16 = 0 then none
  else
  match bit old 0, bit v 0 with
  | false, true =>
    let s1 := s.setReg (Reg.trn 0) v
    if s1.enableOk then
      let spare := s1.isSpareEntry s1.ownIdent
      let s2 : State := { s1 with trn := { s1.trn.fresh with st := if spare then 4 else 1, role := s1.ownIdent } }
      some (((s2.zeroGrad).startMirror).writeRecord s2.lsLog2)
    else none
  | true, true => if v = old then some s else none
  | true, false =>
    if v ≠ old - 1 ∨ s.liveCmds.any (fun c => [0x01, 0x04, 0x0A, 0x09, 0x0B].contains (Cmd.opcode c.2)) = true then none
    else
      let s1 := s.setReg (Reg.trn 0) v
      some { s1 with trn := { s1.trn with st := 0, cmt := none, decision := none, recorded := none, told := none, cmps := [] } }
  | false, false => some (s.setReg (Reg.trn 0) v)

/-- TRN_ENABLE_SET (R245). -/
def execTrnEnableSet (k : Packet) (s : State) : Out :=
  if bit (Packet.qw k) 0 then .next (s.regWr k (fun o => o == Reg.trn 0) (fun s _ v => s.writeTrnCfg v)) else .next s

/-- TRN_ENABLE_CLEAR (R245). -/
def execTrnEnableClear (k : Packet) (s : State) : Out :=
  if bit (Packet.qw k) 0 then .next s else .next (s.regWr k (fun o => o == Reg.trn 0) (fun s _ v => s.writeTrnCfg v))

/-- Bits of the other training registers that exist (Tables 10.2 to 10.5). -/
def trnMask (o : Nat) : W64 :=
  if o = 8 then 0x000001FFFFFFFFFF#64
  else if o = 0x80 then 0xFFF#64
  else if 0x100 ≤ o ∧ o < 0x180 then 0x01FFFFFFFFFFFFFF#64
  else if 0x200 ≤ o ∧ o < 0x240 then 0x1FFF#64
  else 0xFFFFFFFFFFFFFFFF#64

/-- The offset names a writable training register but TRN_CFG. -/
def isTrnRw (o : Nat) : Bool :=
  [8, 0x10, 0x40, 0x48, 0x50, 0x58, 0x60, 0x68, 0x70, 0x80, 0x88].contains o ||
  (decide (0x100 ≤ o) && decide (o < 0x180) && o % 8 == 0) || (decide (0x200 ≤ o) && decide (o < 0x240) && o % 8 == 0)

/-- A write to another training register: while ENABLE is 1, one that changes a field is rejected (R245). -/
def State.writeTrn (s : State) (o : Nat) (v : W64) : Option State :=
  let w := v &&& trnMask o
  if s.trnOn then (if w = s.reg (Reg.trn o) then some s else none) else some (s.setReg (Reg.trn o) w)

/-! ## Norm and decision (R251 to R254) -/

/-- Granules of a range, each with its location. -/
def State.granLocs (s : State) (r : Ref) (n : Nat) : List Nat :=
  (List.range (n / 64)).filterMap (fun i => s.refLoc (r.add (64 * i)))

/-- The scan SQACC of one vault over granules of it in ascending address: each granule sum is added to SQ, which starts at +0 where its
last sum is DONE, then DONE is set (09 R233; DEDUCED, log 52). -/
def State.scanSq (s : State) (v : Nat) (ls : List Nat) : State :=
  let r := s.sqReg v
  let sq := ls.foldl (fun (t : A36) l => (a36Add t (sqGranule .bf16 (s.locBytes l 64)).1).1) (if r.fin then a36Zero else r.sq)
  s.setSq v { r with sq := sq, fin := true }

/-- The scans of R251 over the shard, and the fold of the SQ registers in ascending vault from +0 (R290). -/
def State.shardSq (s : State) : State × A36 :=
  let ls := s.granLocs (s.gradRef.add s.shoff) s.shlen
  let vs := (List.range 256).filter (fun v => ls.any (fun l => locVault l == v))
  let s1 := vs.foldl (fun s v => s.scanSq v (ls.filter (fun l => locVault l == v))) s
  (s1, vs.foldl (fun t v => (a36Add t (s1.sqReg v).sq).1) a36Zero)

/-- The current STEP collective in its norm phase. -/
def State.normColl (s : State) : Option Coll :=
  match s.curColl s.cgrp with
  | some x => if x.desc.step && x.phase == .norm then some x else none
  | none => none

/-- NORM_CONTRIBUTION (R251, R290): the reduced shard is complete; scans, then the record of Table 10.6 goes to every member. `f` is
what the code and the adders' residue check find; a granule that cannot be used ends the collective (11 R292). -/
def execNormContribution (f : MemFind) (s : State) : Out :=
  match s.normColl with
  | none => .next s
  | some x =>
    let g := s.cgrp
    let me := s.grpRank g
    if x.susp ∨ x.norms.any (fun h => h.1 == me) = true then .next s
    else
      match (s.found f).readGranules (s.granLocs (s.gradRef.add s.shoff) s.shlen) with
      | (s0, false) => .next (s0.collBad g x Status.memUncorrectable)
      | (s0, true) =>
        let (s1, sq) := s0.shardSq
        let t := s1.trn
        let rec64 : W64 := at64 0 36 sq.toNat ||| at64 36 1 (b2n (t.winOvf || x.fl.ovf)) |||
          at64 37 1 (b2n (t.winNan || x.fl.nanIn || x.fl.nanGen)) ||| at64 38 1 (b2n t.winCheck)
        let s2 : State := { s1 with trn := { t with formed := true } }
        .next ((s2.setColl g (some { x with norms := x.norms ++ [(me, rec64)] })).toGroup g (.norm (BitVec.ofNat 8 g) x.seq rec64))

/-- m × 2^e rounded to a square root's BF16 code: the root of a ratio n ÷ d × 2^e. -/
def bf16Sqrt (n d : Nat) (e : Int) : Nat :=
  let (n, e) := if e % 2 = 0 then (n, e) else (2 * n, e - 1)
  let k := n * 2 ^ 128 / d
  let r := isqrt k
  let sticky := if r * r = k ∧ n * 2 ^ 128 % d = 0 then 0 else 1
  (Fmt.bf16.storeFin .rne false false (2 * r + sticky) 1 (e / 2 - 65)).1

/-- The gradient factor k (R252). -/
def gradFactor (ls : Int) (maxNorm : Nat) (sq : A36) : Nat :=
  let base := (Fmt.bf16.store .rne false (Num.pow2 (-ls))).1
  match Fmt.bf16.decode maxNorm, A36.val sq with
  | .fin _ m e, .fin _ n f =>
    if m = 0 ∨ n = 0 then base
    else
      let x := bf16Sqrt (m * m) n (2 * e - f)
      if (Fmt.bf16.decode x).lt (Fmt.bf16.decode base) then x else base
  | _, _ => base

/-- The norm exchange of this window skipped its step for OVF or NAN under SKIP_STEP, and AUTO is 1 (R253). -/
def State.lsFalls (s : State) : Bool :=
  bit (s.reg (Reg.trn 8)) 8 && s.trn.normed && s.trn.skip && (s.trn.ovf || s.trn.nan) && !s.satPolicy
/-- LS_LOG2 after such a skip. -/
def State.lsAfterSkip (s : State) : Int := if s.lsFalls && decide (-14 < s.lsLog2) then s.lsLog2 - 1 else s.lsLog2

/-- NORM_FOLD_COMPLETE (R252): every record is here; the member decides and the COLL completes. -/
def execNormFoldComplete (s : State) : Out :=
  match s.normColl with
  | none => .next s
  | some x =>
    let g := s.cgrp
    let p := (s.members g).length
    let recs := (List.range p).filterMap (fun r => x.norms.find? (fun h => h.1 == r))
    if recs.length < p then .next s
    else if x.susp then .next s
    else
      let sq := recs.foldl (fun (t : A36) h => (a36Add t (h.2.setWidth 36)).1) a36Zero
      let ovf := recs.any (fun h => bit h.2 36)
      let nan := recs.any (fun h => bit h.2 37)
      let ab := recs.any (fun h => bit h.2 38)
      let skip := nan || ab || !(A36.val sq).isFin || (ovf && !s.satPolicy)
      let t := s.trn
      let kf := if skip then t.kf else gradFactor s.lsLog2 s.maxNorm sq
      let s1 : State := { s with trn := { t with
        sq := sq, ovf := ovf, nan := nan, abandon := ab, skip := skip, kf := kf, optTouched := false, normed := true,
        decidedAt := if skip then none else some s.now, st := if skip then t.st else 2,
        last := if skip then Status.notCommitted else Status.ok } }
      let s2 := s1.writeRecord s1.lsAfterSkip
      let s3 := if skip then s2 else s2.mirrorGrad
      .next (s3.collEnd g x (if skip then Status.notCommitted else Status.ok) 0 0 0)

/-! ## The commit barrier (R257 to R262) -/

/-- Operands of a COMMIT (R257, Table 10.9). -/
def cmtVer (c : Cmd) : W64 := BitVec.ofNat 64 (Cmd.opnd c 0 64)
def State.cmtTo (s : State) (c : Cmd) : Nat :=
  let v := if Cmd.full c then Cmd.opnd c 64 16 else 0
  if v = 0 then s.trnCfg 25 16 else v

/-- The leader of CGRP. -/
def State.leader (s : State) : BitVec 12 := s.rankId s.cgrp (s.leadRank s.cgrp)
def State.isLeader (s : State) : Bool := s.leader == s.ownIdent

/-- Result data of a COMMIT. -/
def State.cmtData (s : State) (cause : Nat) (id : BitVec 12) : List Byte :=
  toBytesLE 32 (s.trnVer.toNat + cause * 2 ^ 64 + id.toNat * 2 ^ 72 + ((s.lsLog2 + 256) % 256).toNat * 2 ^ 84)

/-- EVENT of class STEP. -/
def State.stepEvent (s : State) (st : W16) : State :=
  s.event 0x05 st (s.stb.step.setWidth 32) ((s.stb.step >>> 32).setWidth 32)

def abandonStatus (cause : Nat) : W16 := if cause = 4 then Status.stepRollback else Status.notCommitted

/-- The abandonment of R262: the other weight buffer then holds free values (log 3). -/
def State.abandonStep (s : State) (cause : Nat) (id : BitVec 12) : State :=
  let st := abandonStatus cause
  let ls := s.lsAfterSkip
  let s1 := (if ls ≠ s.lsLog2 then (s.setLs ls).zeroGrad else s.zeroGrad).scramble (s.wbuf (s.trnVer + 1)) s.wlen
  let t := s1.trn
  let cmd := t.cmt
  let s2 : State := { s1 with trn := { t.fresh with
    restoreBusy := t.restoreBusy || t.optTouched, st := 1, last := st, good := if s.lsFalls then 0 else t.good,
    recorded := if cmd.isNone && !t.noCommit then some (s.trnVer + 1, .abandon cause id) else none } }
  let s3 := s2.writeRecord s2.lsLog2
  let s4 := match cmd with
    | some (q, seq, _) => s3.endCmd q seq st (s3.cmtData cause id)
    | none => s3
  s4.stepEvent st

/-- A decision this member has not received before: decisions follow one another by target (DEDUCED, log 56). -/
def State.isNews (s : State) (target : W64) : Bool := match s.trn.told with | some (_, _, t) => decide (t.toNat < target.toNat) | none => true

/-- The decision of the leader reaches this member (R260): an abandonment is carried out, a FLIP waits for its target. An expelled
module takes part no more (R267). -/
def State.takeDecision (s : State) (ver : W64) (d : Decision) (target : W64) : State :=
  if ver ≠ s.trnVer + 1 ∨ s.trn.st = 0 ∨ s.trn.st = 5 ∨ s.trn.decision.isSome ∨ s.isNews target = false then s
  else
    let s1 : State := { s with trn := { s.trn with told := some (ver, d, target) } }
    match d with
    | .abandon cause id => s1.abandonStep cause id
    | .flip => { s1 with trn := { s1.trn with decision := some (ver, .flip, target) } }

/-- The leader decides and tells every member; the target lies at least 2,000 ticks ahead (R260, log 56). -/
def State.decideStep (s : State) (d : Decision) : State :=
  let ver := s.trnVer + 1
  let target := s.stb.tick + 2000 + Config.flipLead.setWidth 64
  (s.toGroup s.cgrp (.decision ver d target)).takeDecision ver d target

/-- READY(VER) held by the leader from every live member (R260). -/
def State.leaderReady (s : State) (ver : W64) (src : BitVec 12) : State :=
  if ver ≠ s.trnVer + 1 ∨ s.trn.decision.isSome then s
  else
    let l := if s.trn.readies.contains src then s.trn.readies else s.trn.readies ++ [src]
    let s1 : State := { s with trn := { s.trn with readies := l } }
    if (s1.holders s1.cgrp).all (fun d => l.contains d) then s1.decideStep .flip else s1

/-- A READY, ABANDON or decision reaches this module (R260). A decision reported to a new leader is sent again. -/
def State.barrierMsg (s : State) (src : BitVec 12) (m : Msg) : State :=
  if !s.trnOn then s
  else
    match m with
    | .ready ver => if s.isLeader then s.leaderReady ver src else s
    | .abandon ver cause =>
      if s.isLeader && ver == s.trnVer + 1 && s.trn.decision.isNone then s.decideStep (.abandon cause src) else s
    | .decision ver d target =>
      let s1 := if s.isLeader && s.isNews target then s.toGroup s.cgrp (.decision ver d target) else s
      s1.takeDecision ver d target
    | _ => s

/-- BARRIER_MESSAGE_RECEIVE (R260). -/
def execBarrierMessageReceive (src : BitVec 12) (m : Msg) (s : State) : Out := .next (s.barrierMsg src m)

/-- Send ABANDON to the leader, once (R259). -/
def State.sendAbandon (s : State) (cause : Nat) : State :=
  if s.trn.sent then s
  else
    let s1 : State := { s with trn := { s.trn with sent := true } }
    if s1.isLeader then (if s1.trn.decision.isNone then s1.decideStep (.abandon cause s1.ownIdent) else s1)
    else s1.sendMsg s1.leader (.abandon (s1.trnVer + 1) cause)

/-- A COMMIT of version ver that ends with DEP_FAILED or DEP_TIMEOUT sends ABANDON with cause MEMBER (R259); one whose barrier has been
decided already does not (DEDUCED, log 56). -/
def State.commitGone (s : State) (ver : W64) : State :=
  if s.trnOn = false then s
  else if s.trn.recorded.map (fun r => r.1) = some ver then { s with trn := { s.trn with recorded := none } }
  else ({ s with trn := { s.trn with noCommit := s.trn.noCommit || s.trn.cmt.isNone } } : State).sendAbandon 5

/-- The cause and the member of Table 10's COMMIT result. -/
def Decision.outcome : Decision → Nat × BitVec 12
  | .flip => (0, 0)
  | .abandon cause id => (cause, id)
def Decision.status : Decision → W16
  | .flip => Status.ok
  | .abandon cause _ => abandonStatus cause

/-- COMMIT (R258): completes with the decision recorded for its version, fails, or enters the barrier. -/
def execCommit (q : BitVec 6) (seq : W32) (s : State) : Out :=
  match s.findCmd q.toNat seq with
  | none => .next s
  | some c =>
    if c.phase ≠ .running ∨ Cmd.opcode c ≠ 0x0A ∨ (s.trn.cmt.map (fun x => (x.1, x.2.1))) = some (q.toNat, seq) then .next s
    else
      match s.trn.recorded with
      | some (v, d) =>
        if v = cmtVer c then
          let s1 : State := { s with trn := { s.trn with recorded := none } }
          .next (s1.endCmd q.toNat seq (Decision.status d) (s1.cmtData (Decision.outcome d).1 (Decision.outcome d).2))
        else .next ((s.sendAbandon 5).endCmd q.toNat seq Status.errRange [])
      | none =>
        if cmtVer c ≠ s.trnVer + 1 ∨ s.trn.cmt.isSome then .next ((s.sendAbandon 5).endCmd q.toNat seq Status.errRange [])
        else .next { s with trn := { s.trn with cmt := some (q.toNat, seq, cmtVer c) } }

/-- STEP-class work since the decision has cleared (14 R355): no check or arbitration of one of its units is open, and each position it used has
been quiet for the detection bound of its cluster's mode. -/
def State.stepCleared (s : State) : Bool :=
  s.flt.arbs.all (fun a => s.qClass a.q != 1) && s.flt.cluster.all (fun e => e.2.checks.all (fun k => s.qClass k.q != 1)) &&
  s.flt.uses.all (fun u =>
    u.cls != 1 || (match s.trn.decidedAt with | some d => decide (u.runAt < d) | none => false) ||
    (match u.upTo with | some e => decide (s.now - e ≥ (if s.plaus u.cluster then 200 else 2) * msec) | none => false))

/-- The RSYNC condition of a Full COMMIT (Table 10.9). -/
def State.rsyncMet (s : State) (c : Cmd) : Bool :=
  !(Cmd.full c && Cmd.opnd c 80 1 == 1) || s.objReached (Cmd.opnd c 81 14) (BitVec.ofNat 32 (Cmd.opnd c 96 32))

/-- Why a member abandons (R259): CHECK and OVERFLOW at once, UPDATE at its COMMIT (R254). -/
def State.abandonCause (s : State) : Option Nat :=
  if s.trn.winCheck then some 2
  else if s.trn.late && s.trn.cmt.isSome then some 3
  else if s.trn.normed && s.trn.skip then some 1
  else none

/-- COMMIT_READY_SEND (R259): READY, or ABANDON with its cause. -/
def execCommitReadySend (s : State) : Out :=
  if s.trnOn = false ∨ s.trn.st = 5 ∨ s.trn.sent = true then .next s
  else
    match s.abandonCause, s.trn.cmt with
    | some cause, _ => .next (s.sendAbandon cause)
    | none, none => .next s
    | none, some (q, seq, ver) =>
      match s.findCmd q seq with
      | none => .next s
      | some c =>
          if s.trn.st = 2 ∧ s.stepCleared = true ∧ s.trn.mirrorBusy = false ∧ s.trn.gradIn = true ∧ s.rsyncMet c = true then
            let s1 : State := { s with trn := { s.trn with sent := true, st := 3 } }
            if s1.isLeader then .next (s1.leaderReady ver s1.ownIdent) else .next (s1.sendMsg s1.leader (.ready ver))
          else .next s

/-- COMMIT_TIMEOUT (R260): the leader's timeout runs from the dispatch of its own COMMIT. -/
def execCommitTimeout (s : State) : Out :=
  match s.trn.cmt with
  | none => .next s
  | some (q, seq, _) =>
    match s.findCmd q seq with
    | none => .next s
    | some c =>
      if s.isLeader = true ∧ s.trn.decision.isNone = true ∧ s.now - c.runAt ≥ s.cmtTo c * msec then
        .next (s.decideStep (.abandon 4 s.ownIdent))
      else .next s

/-! ## Digests (R266 to R268) -/

/-- The digest of a range: DGST scans per vault from a fresh register, then the CRC of each lane over the vaults (R266). -/
def State.digestRange (s : State) (r : Ref) (n : Nat) : State × BitVec 256 :=
  let ls := s.granLocs r n
  let vs := (List.range 256).filter (fun v => ls.any (fun l => locVault l == v))
  let ds := vs.map (fun v => (v, dgstLanes ((ls.filter (fun l => locVault l == v)).map (fun l => s.locBytes l 64))))
  let s1 := ds.foldl (fun s d => s.setVault d.1 { s.vaultSt d.1 with digest := d.2 }) s
  let lane (j : Nat) : W64 := crc64 (ds.flatMap (fun d => toBytesLE 8 (fld d.2 (64 * j) 64)))
  (s1, lane 3 ++ lane 2 ++ lane 1 ++ lane 0)

/-- Result data of a DIGEST. -/
def digestData (d : BitVec 256) (ver : W64) (n m : Nat) (id : BitVec 12) : List Byte :=
  toBytesLE 64 (d.toNat + ver.toNat * 2 ^ 256 + n * 2 ^ 320 + m * 2 ^ 336 + id.toNat * 2 ^ 352)

/-- A digest of a range is formed, published under a version and waits for the replicas (R267, R268). -/
def State.compareRange (s : State) (cmd : Option (Nat × W32)) (ver : W64) (r : Ref) (n : Nat) : State :=
  let (s1, d) := s.digestRange r n
  let s2 : State := { s1 with trn := { s1.trn with dig := d, cmps := s1.trn.cmps ++ [(ver, cmd, s1.now, d)],
                                                   pubs := s1.trn.pubs ++ [(ver, s1.ownIdent, d)] } }
  s2.toGroup s2.rgrp (.digest ver d)

/-- The digest of the committed buffer over WLEN is compared (R267). -/
def State.startCompare (s : State) (cmd : Option (Nat × W32)) : State := s.compareRange cmd s.trnVer (s.wbuf s.trnVer) s.wlen

/-- The spare that takes a role over: the first valid entry of TRN_SPARE that is live and in SPARE (R265). Another module named there is
in SPARE until it holds a role (DEDUCED, log 57). -/
def State.findSpare (s : State) : Option (BitVec 12) :=
  (List.range 8).findSome? (fun j =>
    let r := s.reg (Reg.trn (0x200 + 8 * j))
    let id : BitVec 12 := BitVec.ofNat 12 (fld r 1 12)
    if bit r 0 && !s.isFailed id && s.flt.holders.all (fun h => h.2 != id) && (id != s.ownIdent || s.trn.st == 4) then some id else none)

/-- The spare becomes the holder of the module's ranks, ring position and buddy relations (R265, R274, R256); it notes whether the
role's last holder was expelled (R267). -/
def State.takeover (s : State) (f sp : BitVec 12) (expelled : Bool) : State :=
  let role := match s.flt.holders.find? (fun h => h.2 == f) with | some h => h.1 | none => f
  let hs := s.flt.holders.filter (fun h => h.1 != role) ++ [(role, sp)]
  let s1 : State := { s with
    flt := { s.flt with holders := hs },
    coll := { s.coll with holder := s.coll.holder.map (fun e => (e.1, e.2.map (fun d => if d == f then sp else d))) } }
  if sp = s.ownIdent then { s1 with trn := { s1.trn with role := role, fromExpelled := expelled } }
  else if s.trnOn && decide (s.reg (Reg.trn 0x80) = role.setWidth 64) then
    let s2 := s1.startMirror
    if s1.trn.gradOut then s2.mirrorGrad else s2
  else s1

/-- A member of CGRP is lost, declared failed or expelled: collectives that wait on it are suspended, and a spare takes its role;
with none they end with COLL_TIMEOUT (R265, R267; 11 R294). -/
def State.roleLost (s : State) (f : BitVec 12) (expelled : Bool) : State :=
  let s1 := s.collSuspend f
  match (if s.trnOn && (s.holders s.cgrp).contains f then s.findSpare else none) with
  | some sp => s1.takeover f sp expelled
  | none => s1.collLost f

/-- The module is expelled (R267): every LAUNCH, COLL, COMMIT, DIGEST and CHECKPOINT that runs ends with EXPELLED, a COLL withdrawing
its number (11 R295). -/
def State.expel (s : State) : State :=
  let s1 : State := { s with trn := { s.trn with st := 5, cmt := none, decision := none, cmps := [] } }
  let running := s1.liveCmds.filter (fun c => c.2.phase == .running)
  let s2 := running.foldl (fun s c =>
    match Cmd.opcode c.2 with
    | 0x01 => s.cutLaunch c.1 c.2.seq Status.expelled
    | 0x0A | 0x09 | 0x0B => s.endCmd c.1 c.2.seq Status.expelled []
    | 0x04 =>
      (match s.curColl (collGrp c.2) with
       | some x => if x.q = c.1 ∧ x.cmd = c.2.seq then s.collBad (collGrp c.2) x Status.expelled else s.collGone c.1 c.2 Status.expelled
       | none => s.collGone c.1 c.2 Status.expelled)
    | _ => s) s1
  { s2 with coll := { s2.coll with ready := [] } }

/-- The outcome of a comparison with what has been published (R267). The log records it (R268): an agreement as a NOTICE, a split as
REPLICA with action 0, an expulsion as REPLICA with action 7 (DESIGN CHOICE, log 57). The first member of the majority tells the
timing set of an expulsion. -/
def State.digestOutcome (s : State) (ver : W64) (cmd : Option (Nat × W32)) (mine : BitVec 256) : State :=
  let ms := s.holders s.rgrp
  let ps : List (W64 × BitVec 12 × BitVec 256) := (s.trn.pubs.filter (fun p => p.1 == ver)).filter (fun p => ms.contains p.2.1)
  let n := ps.length
  let major := ps.find? (fun p => decide (2 * (ps.filter (fun q => q.2.2 == p.2.2)).length > n))
  let out : List (W64 × BitVec 12 × BitVec 256) := match major with | some m => ps.filter (fun p => p.2.2 != m.2.2) | none => []
  let first := ((ms.filter (fun d => out.any (fun p => p.2.1 == d))).headD 0)
  let m := match major with | some m => (ps.filter (fun q => q.2.2 == m.2.2)).length | none => 0
  let me := out.any (fun p => p.2.1 == s.ownIdent)
  let st := match major with | none => Status.digestSplit | some _ => if me then Status.expelled else Status.ok
  let s1 : State := { s with trn := { s.trn with
    cmps := s.trn.cmps.filter (fun c => !(c.1 == ver && c.2.1 == cmd)),
    pubs := if (s.trn.cmps.filter (fun c => c.1 == ver)).length ≤ 1 then s.trn.pubs.filter (fun p => p.1 != ver) else s.trn.pubs } }
  let s2 := match cmd with
    | some (q, seq) => s1.endCmd q seq st (digestData mine ver n m first)
    | none => s1
  let s3 := if cmd.isNone ∨ st ≠ Status.ok ∨ out.isEmpty = false then
      s2.log (if st = Status.ok ∧ out.isEmpty = true then Cls.notice else Cls.replica) (if out.isEmpty then 0 else 7) Status.ok (Unit.iod 0x4B)
        first (ver <<< 1)
    else s2
  let lead : BitVec 12 := match major with
    | some m => (ms.filter (fun d => ps.any (fun q => q.2.1 == d && q.2.2 == m.2.2))).headD 0
    | none => 0
  out.foldl (fun s p => (if lead = s.ownIdent then s.sendAll s.stb.known (.expelled p.2.1) else s).roleLost p.2.1 true)
    (if me then s3.expel else s3)

/-- Decide every comparison of a version for which all members have published. -/
def State.digestTry (s : State) (ver : W64) : State :=
  let ms := (s.holders s.rgrp).filter (fun d => !s.isFailed d)
  if ms.all (fun d => s.trn.pubs.any (fun p => p.1 == ver && p.2.1 == d)) then
    (s.trn.cmps.filter (fun c => c.1 == ver)).foldl (fun s c => s.digestOutcome ver c.2.1 c.2.2.2) s
  else s

/-- A replica's digest arrives (R267). -/
def State.digestFrom (s : State) (src : BitVec 12) (ver : W64) (d : BitVec 256) : State :=
  if s.trn.pubs.any (fun p => p.1 == ver && p.2.1 == src) then s
  else ({ s with trn := { s.trn with pubs := s.trn.pubs ++ [(ver, src, d)] } } : State).digestTry ver

/-- DIGEST_PUBLISH_RECEIVE (R267). -/
def execDigestPublishReceive (src : BitVec 12) (ver : W64) (lanes : BitVec 256) (s : State) : Out := .next (s.digestFrom src ver lanes)

/-- DIGEST_PUBLISH_TIMEOUT (R267): KTO has passed; those who published decide. -/
def execDigestPublishTimeout (s : State) : Out :=
  match s.trn.cmps.find? (fun c => decide (s.now - c.2.2.1 ≥ s.kto * msec)) with
  | some c => .next (s.digestOutcome c.1 c.2.1 c.2.2.2)
  | none => .next s

/-- DIGEST (R266, R267) of the version bound at its dispatch (02 R24); `f` is what the code finds (09 R222). -/
def execDigest (q : BitVec 6) (seq : W32) (f : MemFind) (s : State) : Out :=
  match s.findCmd q.toNat seq with
  | none => .next s
  | some c =>
    if c.phase ≠ .running ∨ Cmd.opcode c ≠ 0x09 ∨ s.memStopped ∨ s.trn.cmps.any (fun x => x.2.1 == some (q.toNat, seq)) = true then .next s
    else
      let range := Cmd.full c && Cmd.opnd c 1 1 == 1
      let r := if range then s.refOf (BitVec.ofNat 64 (Cmd.opnd c 64 64)) else s.wbuf c.ver
      let n := if range then Cmd.opnd c 128 32 * 4096 else s.wlen
      match (s.found f).readGranules (s.granLocs r n) with
      | (s0, false) => .next (s0.endCmd q.toNat seq Status.memUncorrectable [])
      | (s0, true) =>
        if Cmd.full c && Cmd.opnd c 0 1 == 1 then
          let (s1, d) := s0.digestRange r n
          let s2 : State := { s1 with trn := { s1.trn with dig := d } }
          .next (s2.endCmd q.toNat seq Status.ok (digestData d c.ver 0 0 0))
        else .next ((s0.compareRange (some (q.toNat, seq)) c.ver r n).digestTry c.ver)

/-! ## The flip (R261) -/

/-- STEP advances by 1 at the flip where the step base counts training steps (R261, 13 R337). -/
def State.stepAtFlip (s : State) (target : W64) : State :=
  if fld (s.reg 0x20000) 0 2 = 2 then
    { s with stb := { s.stb with step := s.stb.step + 1, phase0 := 0, phaseAt := target } }
  else s

/-- GOOD and LS_LOG2 at a flip (R253). -/
def State.growAtFlip (s : State) : State :=
  if bit (s.reg (Reg.trn 8)) 8 then
    let good := (s.trn.good + 1) % 2 ^ 16
    let grow := fld (s.reg (Reg.trn 8)) 9 16
    if grow ≠ 0 ∧ good = grow then
      let s1 := if s.lsLog2 < 24 then s.setLs (s.lsLog2 + 1) else s
      { s1 with trn := { s1.trn with good := 0 } }
    else { s with trn := { s.trn with good := good } }
  else s

/-- FLIP (R261): at the target every member sets TRN_VER and starts the next window. -/
def execFlip (s : State) : Out :=
  match s.trn.decision with
  | some (ver, .flip, target) =>
    if s.stb.tick.toNat < target.toNat ∨ ver ≠ s.trnVer + 1 then .next s
    else
      let cmd := s.trn.cmt
      let s1 := (((s.setReg (Reg.trn 0x10) ver).zeroGrad).growAtFlip)
      let t1 : TrnSt := s1.trn.fresh
      let t2 : TrnSt := { t1 with skip := false, optTouched := false, st := 1, last := Status.ok, flipAt := s1.now,
                                  recorded := if cmd.isNone && !s1.trn.noCommit then some (ver, .flip) else none }
      let s2 : State := { s1 with trn := t2 }
      let s3 := (s2.writeRecord s2.lsLog2).startMirror
      let s4 := match cmd with
        | some (q, seq, _) => s3.endCmd q seq Status.ok (s3.cmtData 0 0)
        | none => s3
      let s5 := (s4.stepEvent Status.ok).stepAtFlip target
      let dint := s5.trnCfg 17 8
      if dint ≠ 0 ∧ ver.toNat % dint = 0 then .next ((s5.startCompare none).digestTry ver) else .next s5
  | _ => .next s

/-! ## Backups and missing members (R263, R264, R291) -/

/-- The leader announces the holder of a primary's term. -/
def State.bkSelect (s : State) (i : BitVec 4) (backup : Bool) : State :=
  let s1 := s.toGroup s.cgrp (.backupSelect i backup)
  { s1 with trn := { s1.trn with bkSel := s1.trn.bkSel ++ [(i, backup)] } }

/-- A selection reaches this module: the selected holder sends the primary's term, the other discards its own (R291). -/
def State.bkSelected (s : State) (i : BitVec 4) (backup : Bool) : State :=
  let g := s.cgrp
  let s1 : State := if s.trn.bkSel.contains (i, backup) then s else { s with trn := { s.trn with bkSel := s.trn.bkSel ++ [(i, backup)] } }
  (s1.bkSettle g).collRun g

/-- Whether the leader may choose, and whom (R263): the primary where it was ready before DEADLINE, else, from DEADLINE on, the first
that is ready. -/
def State.bkChoice (s : State) (i : BitVec 4) : Option Bool :=
  let l := s.trn.bkReady.filter (fun r => r.1 == i)
  if s.trn.bkSel.any (fun r => r.1 == i) then none
  else if l.contains (i, false, true) then some false
  else if decide (s.phase.toNat ≥ s.bkDeadline i.toNat) then (l.head?).map (fun r => r.2.1)
  else none

/-- BACKUP_DEADLINE (R263): after the deadline the first complete contribution is taken. -/
def execBackupDeadline (i : BitVec 4) (s : State) : Out :=
  if s.isLeader = true ∧ s.bkOn i.toNat = true ∧ s.phase.toNat ≥ s.bkDeadline i.toNat then
    match s.bkChoice i with
    | some b => .next ((s.bkSelect i b).bkSelected i b)
    | none => .next s
  else .next s

/-- BACKUP_SELECTION (R291). -/
def execBackupSelection (i : BitVec 4) (s : State) : Out :=
  if s.isLeader = true ∧ s.bkOn i.toNat = true then
    match s.bkChoice i with
    | some b => .next ((s.bkSelect i b).bkSelected i b)
    | none => .next s
  else .next s

/-- TAKEOVER_RESTORE_COMPLETE (R265; 14 Table 14.10: DETAIL bit 0 for a role restored from an expelled module's mirror): the slot's header, W, O and, when `hasG`, G regions, and the committed weights, have been
read; the registers of the header are adopted. -/
def execTakeoverRestoreComplete (hdr w o : List Byte) (hasG : Bool) (gr weights : List Byte) (s : State) : Out :=
  if s.trn.st ≠ 4 ∨ s.trn.role = s.ownIdent then .next s
  else
    let role := s.trn.role
    let img (k : Nat) : W64 := BitVec.ofNat 64 (leAt hdr (16 + k) 8)
    let s1 := ([0, 8, 0x10, 0x40, 0x48, 0x50, 0x58, 0x60, 0x68, 0x70, 0x80, 0x88] : List Nat).foldl
      (fun s k => s.setReg (Reg.trn k) (img k)) s
    let s2 := s1.zeroGrad
    let s3 := (s2.writeRef (s2.wbuf s2.trnVer) weights).1
    let s4 := (s3.writeRef ((s3.wbuf s3.trnVer).add s3.shoff) w).1
    let s5 := (s4.writeRef s4.optRef o).1
    let s6 := if hasG then (s5.writeRef (s5.gradRef.add s5.shoff) gr).1 else s5
    let stat := img 0x18
    let norm := img 0x20
    let s7 : State := { s6 with trn := { s6.trn.fresh with
      role := role, skip := bit stat 3, sq := norm.setWidth 36, kf := fld norm 36 16, ovf := bit norm 52, nan := bit norm 53,
      abandon := bit norm 54, good := fld stat 20 16, last := BitVec.ofNat 16 (fld stat 36 16), resume := if hasG then 2 else 1,
      st := if hasG then 2 else 1, decidedAt := if hasG then some s.now else none, formed := hasG, gradOut := hasG, gradIn := hasG } }
    .next (if s.trn.fromExpelled then s7.log Cls.replica 7 Status.ok (Unit.iod 0x4B) role 1
      else s7.log Cls.module 7 Status.ok (Unit.iod 0xFF) role 0)

/-! ## Checkpoints (R269) -/

def State.ckptDst (s : State) (c : Cmd) : Ref := s.refOf (BitVec.ofNat 64 (Cmd.opnd c 0 64))
/-- Bytes of weights and of optimiser state a CHECKPOINT writes. -/
def State.ckptLens (s : State) (c : Cmd) : Nat × Nat :=
  let (w, o, sh) := ckptParts c
  (if w then (if sh then s.shlen else s.wlen) else 0, if o then s.olen else 0)

/-- CHECKPOINT (R269) of the version bound at its dispatch (02 R24); `f` is what the code finds (09 R222). -/
def execCheckpoint (q : BitVec 6) (seq : W32) (f : MemFind) (s : State) : Out :=
  match s.findCmd q.toNat seq with
  | none => .next s
  | some c =>
    if c.phase ≠ .running ∨ Cmd.opcode c ≠ 0x0B ∨ s.memStopped then .next s
    else
      let (pw, po, psh) := ckptParts c
      let (wn, on) := s.ckptLens c
      let (w, s1, b1) := (s.found f).readRef ((s.wbuf c.ver).add (if psh then s.shoff else 0)) wn
      let (o, s2, b2) := s1.readRef s1.optRef on
      let lost : Option Nat := if b1.isSome then s2.refLoc ((s2.wbuf c.ver).add ((if psh then s2.shoff else 0) + w.length))
                               else if b2.isSome then s2.refLoc (s2.optRef.add o.length) else none
      match lost with
      | some l => .next ((s2.unmasked l).endCmd q.toNat seq Status.memUncorrectable [])
      | none =>
        let v := c.ver.toNat + ((s2.lsLog2 + 256) % 256).toNat * 2 ^ 64 + (b2n pw + 2 * b2n po + 4 * b2n psh) * 2 ^ 72 +
          wn / 4096 * 2 ^ 128 + on / 4096 * 2 ^ 160 + (crc32c w).toNat * 2 ^ 192 + (crc32c o).toNat * 2 ^ 224 +
          s2.shoff / 4096 * 2 ^ 256
        let h := toBytesLE 4096 v
        let s3 := (s2.writeRef (s2.ckptDst c) (h ++ w ++ o)).1
        .next (s3.endCmd q.toNat seq Status.ok (h.take 64))

end Sys2Proof.Machine
end

