-- ==== Sys2Proof/Machine/Ochre.lean ====
section
/-! DEFINITION. The Ochre field coder: stream registers, CODE, the two engines (12 R298 to R300, R306, R311 to R317). -/
namespace Sys2Proof.Machine

/-! ## Stream registers (R298, R299) -/

/-- What a configuration and shape say of the frames. -/
def ochDescOf (cfg dim : W64) : OchDesc :=
  { d3 := bit cfg 3, act := bit cfg 4, sty := fld cfg 5 3, emode := fld cfg 8 2, x := fld dim 0 14 + 1, y := fld dim 14 14 + 1,
    z := fld dim 28 11 + 1, t := fld cfg 26 16, period := fld cfg 18 8 + 1, nbuf := fld cfg 10 4 + 1, nshort := fld cfg 14 4 + 1 }

def State.ochDesc (s : State) (i : Nat) : OchDesc := ochDescOf (s.ochCfg i) (s.reg (Reg.och i 8))
def State.ochOn (s : State) (i : Nat) : Bool := decide (i < 48) && bit (s.ochCfg i) 0
def State.ochDecode (s : State) (i : Nat) : Bool := bit (s.ochCfg i) 1
def State.setStream (s : State) (i : Nat) (x : OchStream) : State :=
  { s with och := { s.och with stream := Tab.put {} s.och.stream i x } }

/-- OCH_STAT. -/
def State.ochStat (s : State) (i : Nat) : W64 :=
  let x := s.ochStream i
  at64 0 32 x.fnum.toNat ||| at64 32 16 x.late ||| at64 48 16 x.raw

/-- T in the range of R302. -/
def ochTOk (d : OchDesc) : Bool :=
  match d.emode with
  | 0 => d.t == 0
  | 1 => if d.isFloat then bf16Pos d.t else decide (1 ≤ d.t) && decide (d.t ≤ 32767)
  | 2 => decide (1 ≤ d.t) && decide (d.t ≤ 4095)
  | _ => false

/-- The conditions of R299 on a stream's own registers. -/
def ochOk (cfg dim dl : W64) (base : Nat) : Bool :=
  let d := ochDescOf cfg dim
  (if d.d3 then decide (d.x ≤ 2048) && decide (d.y ≤ 2048) && decide (d.z ≤ 2048)
   else decide (d.x ≤ 16384) && decide (d.y ≤ 16384) && d.z == 1) &&
  decide (d.sty ≤ 5) && decide (d.emode ≤ 2) && (d.emode != 2 || d.isFloat) && ochTOk d && decide (d.nshort ≤ d.nbuf) &&
  (!bit dl 32 || !bit cfg 2) &&
  (if d.act then !d.d3 && d.isFloat && d.emode != 1 && d.nbuf == 1 && d.nshort == 1 && d.period == 1 && base == 0
   else decide (16 ≤ d.period))

/-- The native pool of R299: inside one tier, apart from the pools of other streams, the tables of contexts and the park
stores. -/
def State.poolOk (s : State) (i base n : Nat) : Bool :=
  inOneTier base n &&
  (List.range 48).all (fun j =>
    j == i || !s.ochOn j || bit (s.ochCfg j) 4 || !refOverlap (.addr base) n (s.ochPool j) (s.ochNbuf j * s.ochFb j)) &&
  (List.range 48).all (fun c => !s.ctxEnabled c || !refOverlap (.addr base) n (.addr (s.ctxTable c)) 524288) &&
  (List.range (n / 4096)).all (fun k => match s.addrLoc (base + 4096 * k) with | some l => !s.inPark l | none => true)

/-- A CODE command that names stream i. -/
def codeStream (c : Cmd) : Nat := Cmd.opnd c 128 6
def State.codeBusy (s : State) (i : Nat) : Bool := s.liveCmds.any (fun x => Cmd.opcode x.2 == 8 && codeStream x.2 == i)

/-- Free the pool that DPM gave the stream (log 31). -/
def State.dropPool (s : State) (i : Nat) : State :=
  let h := (s.ochStream i).pool
  match s.dpmBuf h with
  | none => s
  | some b => { s with mem := { s.mem with dpm := Tab.put none s.mem.dpm (handleIdx h) (some { b with live := false, waits := [] }) } }

/-- A write to OCH_CFG[i] (R299). -/
def State.writeOchCfg (s : State) (i : Nat) (w : W64) : State × W16 :=
  let v := w &&& 0x3FFFFFFFFFF#64
  let old := s.ochCfg i
  match bit old 0, bit v 0 with
  | false, true =>
    let base := fld (s.reg (Reg.och i 16)) 0 42
    let s1 := s.setReg (Reg.och i 0) v
    let n := s1.ochNbuf i * s1.ochFb i
    let x : OchStream := { late := (s.ochStream i).late, raw := (s.ochStream i).raw, bufs := List.replicate (s1.ochNbuf i) (0, 0) }
    if !ochOk v (s.reg (Reg.och i 8)) (s.reg (Reg.och i 24)) base then (s, Status.errRange)
    else if bit v 4 then (s1.setStream i x, Status.ok)
    else if s.dpm then
      if base ≠ 0 then (s, Status.errRange)
      else
        match s.placeOuter 5 n with
        | none => (s, Status.bufOver)
        | some b =>
          match s1.addBuf b with
          | (_, 0) => (s, Status.bufOver)
          | (s2, h) => (s2.setStream i { x with pool := h }, Status.ok)
    else if s.poolOk i base n then (s1.setStream i x, Status.ok)
    else (s, Status.errRange)
  | true, true => if v = old then (s, Status.ok) else (s, Status.errRange)
  | true, false =>
    if s.codeBusy i then (s, Status.errRange)
    else
      let s1 := (s.dropPool i).setReg (Reg.och i 0) v
      (s1.setStream i { s1.ochStream i with pool := 0 }, Status.ok)
  | false, false => (s, Status.errRange)

/-- A write to OCH_DIM, OCH_POOL or OCH_DL: free while the stream is disabled, and without change while it is enabled
(R299; DEDUCED, log 31). -/
def State.writeOchOther (s : State) (i o : Nat) (w : W64) : State × W16 :=
  let v := w &&& (if o = 8 then 0x7FFFFFFFFF#64 else if o = 16 then 0x3FFFFFFFFFF#64 else 0x1FFFFFFFF#64)
  if s.ochOn i then (if v = s.reg (Reg.och i o) then (s, Status.ok) else (s, Status.errRange))
  else if o = 16 ∧ v.toNat % 4096 ≠ 0 then (s, Status.errRange)
  else (s.setReg (Reg.och i o) v, Status.ok)

def isOchCfg (off : Nat) : Bool := decide (0xC0000 ≤ off) && decide (off < 0xC0C00) && off % 64 == 0
def isOchOther (off : Nat) : Bool := decide (0xC0000 ≤ off) && decide (off < 0xC0C00) && (off % 64 == 8 || off % 64 == 16 || off % 64 == 24)

/-- OCH_CFG_WRITE (R299). -/
def execOchCfgWrite (k : Packet) (s : State) : Out :=
  .next (s.regWrS k isOchCfg (fun s off v => s.writeOchCfg ((off - 0xC0000) / 64) v))

/-! ## CODE operands (R311 to R313) -/

def State.codeSrc (s : State) (c : Cmd) : Ref := s.refOf (BitVec.ofNat 64 (Cmd.opnd c 0 64))
def State.codeDst (s : State) (c : Cmd) : Ref := s.refOf (BitVec.ofNat 64 (Cmd.opnd c 64 64))
def State.codeHint (s : State) (c : Cmd) : Ref := s.refOf (BitVec.ofNat 64 (Cmd.opnd c 192 64))
def codeHintEn (c : Cmd) : Bool := Cmd.full c && Cmd.opnd c 134 1 == 1
def codeLong (c : Cmd) : Bool := Cmd.full c && Cmd.opnd c 135 1 == 1
def codeEntry (c : Cmd) : Bool := Cmd.full c && Cmd.opnd c 136 1 == 1
def codeSigEn (c : Cmd) : Bool := Cmd.full c && Cmd.opnd c 137 1 == 1
def codeSig (c : Cmd) : Nat := Cmd.opnd c 138 14
def codeDstLen (c : Cmd) : Nat := if Cmd.full c then Cmd.opnd c 160 32 else 0
def codeRelease (c : Cmd) : Nat := if Cmd.full c then Cmd.opnd c 304 16 else 0
def codeRowPitch (d : OchDesc) (c : Cmd) : Nat :=
  let p := if Cmd.full c then Cmd.opnd c 256 16 else 0
  if p = 0 then d.x * d.bps else 32 * p
def codePlanePitch (d : OchDesc) (c : Cmd) : Nat :=
  let p := if Cmd.full c then Cmd.opnd c 272 32 else 0
  if p = 0 then d.y * codeRowPitch d c else 32 * p
/-- Bytes from the first sample to the end of the last. -/
def codeSpan (d : OchDesc) (c : Cmd) : Nat := (d.z - 1) * codePlanePitch d c + (d.y - 1) * codeRowPitch d c + d.x * d.bps
/-- The worst-case record of R315. -/
def codeWorst (d : OchDesc) : Nat := 128 + ceilDiv (rawLen d) 32 * 32
def codeCap (d : OchDesc) (c : Cmd) : Nat := if codeDstLen c = 0 then codeWorst d else 32 * codeDstLen c
/-- Bytes of the hint plane (R307). -/
def hintLen (d : OchDesc) : Nat := d.blocks * (if d.d3 then 6 else 4)

/-- The checks of R313 at submission. -/
def State.codeCheck (s : State) (c : Cmd) : Option W16 :=
  let i := codeStream c
  let d := s.ochDesc i
  let dec := s.ochDecode i
  let f (lo n : Nat) : Bool := Cmd.full c && Cmd.opnd c lo n != 0
  if !s.ochOn i then some Status.errRange
  else if dec && (f 134 1 || f 135 1 || f 160 32 || f 304 16) then some Status.errRange
  else if !dec && f 136 1 then some Status.errRange
  else if (!codeHintEn c && f 192 64) || (!codeSigEn c && f 138 14) || (!d.d3 && f 272 32) then some Status.errRange
  else if (s.codeSrc c).num % 32 ≠ 0 ∨ (s.codeDst c).num % 32 ≠ 0 ∨ (codeHintEn c ∧ (s.codeHint c).num % 32 ≠ 0) then some Status.errRange
  else if (f 256 16 && decide (codeRowPitch d c < d.x * d.bps)) || (f 272 32 && decide (codePlanePitch d c < d.x * d.y * d.bps)) then
    some Status.errRange
  else if d.act && (codeHintEn c || codeLong c || codeRelease c != 0) then some Status.errRange
  else if codeDstLen c = 0xFFFFFFFF then some Status.errRange
  else if dec then (if s.refFits (s.codeDst c) (codeSpan d c) then none else some Status.bufOver)
  else if s.refFits (s.codeSrc c) (codeSpan d c) && s.refFits (s.codeDst c) (codeCap d c) &&
          (!codeHintEn c || s.refFits (s.codeHint c) (hintLen d)) then none
  else some Status.bufOver

/-! ## The pool (R306) -/

def OchStream.marks (x : OchStream) : List Nat := x.bufs.map (fun b => b.1)
def OchStream.nums (x : OchStream) : List W32 := x.bufs.map (fun b => b.2)

/-- The SHORT buffer that holds the oldest frame, seen from frame n. -/
def oldestShort (bufs : List (Nat × W32)) (n : W32) : Option Nat :=
  (bufs.zipIdx.filter (fun e => e.1.1 == 1)).foldl
    (fun (m : Option (Nat × Nat)) e =>
      let age := (n - e.1.2).toNat
      match m with | some (a, b) => if age > a then some (age, e.2) else some (a, b) | none => some (age, e.2)) none
  |>.map (fun p => p.2)

/-- The store buffer an encode chooses; none where every buffer is LONG. -/
def chooseStore (bufs : List (Nat × W32)) (n : W32) : Option Nat :=
  match (bufs.zipIdx.find? (fun e => e.1.1 == 0)) with
  | some e => some e.2
  | none => oldestShort bufs n

/-- While more than the kept number of buffers are SHORT, the oldest becomes UNUSED. -/
def slide (keep : Nat) (n : W32) : Nat → List (Nat × W32) → List (Nat × W32)
  | 0, l => l
  | fuel + 1, l =>
    if (l.filter (fun b => b.1 == 1)).length ≤ keep then l
    else
      match oldestShort l n with
      | some b => slide keep n fuel (l.set b (0, (l.getD b (0, 0)).2))
      | none => l

/-- The sliding window of a decoder that does not know the age of the buffers in `ad`, which are older than every other: one of them
is the oldest; of several none is taken, and the next frame's REFMARKS say which (R306, R309; DEDUCED, log 31). -/
def slideFrom (keep : Nat) (n : W32) (ad : List Nat) (l : List (Nat × W32)) : List (Nat × W32) :=
  match ad.filter (fun b => (l.getD b (0, 0)).1 == 1) with
  | [] => slide keep n 17 l
  | [b] => if (l.filter (fun b => b.1 == 1)).length ≤ keep then l else slide keep n 17 (l.set b (0, (l.getD b (0, 0)).2))
  | _ => l

/-- The marks once frame n is stored in a buffer. -/
def storeMark (d : OchDesc) (bufs : List (Nat × W32)) (n : W32) (store : Nat) (long : Bool) : List (Nat × W32) :=
  slide d.nshort n 17 (bufs.set store (if long then 2 else 1, n))

/-- The reconstruction in each marked buffer; none where a granule stays uncorrectable. -/
def State.readPool (s : State) (i : Nat) (marks : List Nat) : State × List (Array Int) × Option Nat :=
  let n := (s.ochDesc i).n
  marks.zipIdx.foldl
    (fun (s, l, bad) (m, b) =>
      if m = 0 ∨ bad.isSome then (s, l ++ [#[]], bad)
      else
        let r := (s.ochPool i).add (b * s.ochFb i)
        let (bs, s1, e) := s.readRef r (2 * n)
        (s1, l ++ [((chunks 2 bs).map (fun c => ((ofBytesLE c : Nat) : Int))).toArray], e.bind (fun _ => s1.refLoc (r.add bs.length))))
    (s, [], none)

/-- Write a reconstruction into a buffer. -/
def State.writePool (s : State) (i b : Nat) (rec : Array Int) : State :=
  (s.writeRef ((s.ochPool i).add (b * s.ochFb i)) (rec.toList.flatMap (fun u => toBytesLE 2 u.toNat))).1

/-! ## Samples in memory (R311) -/

/-- The samples of a frame as codes, in raster order. -/
def State.readFrame (s : State) (d : OchDesc) (c : Cmd) : State × List Nat × Option Nat :=
  let rows := (List.range d.z).flatMap (fun z => (List.range d.y).map (fun y => z * codePlanePitch d c + y * codeRowPitch d c))
  rows.foldl
    (fun (s, l, bad) off =>
      if bad.isSome then (s, l, bad)
      else
        let r := (s.codeSrc c).add off
        let (bs, s1, e) := s.readRef r (d.x * d.bps)
        (s1, l ++ elems d.bps bs, e.bind (fun _ => s1.refLoc (r.add bs.length))))
    (s, [], none)

def State.writeFrame (s : State) (d : OchDesc) (c : Cmd) (codes : List Nat) : State :=
  let rows := chunks d.x codes
  rows.zipIdx.foldl
    (fun s (row, j) =>
      let off := j / d.y * codePlanePitch d c + j % d.y * codeRowPitch d c
      (s.writeRef ((s.codeDst c).add off) (row.flatMap (toBytesLE d.bps))).1)
    s

/-- Values the frame's coding leaves open, and the state past them. -/
def State.ochFree (s : State) (n : Nat) : (Nat → Nat) × State :=
  let b := s.drawn
  (fun i => (Config.freeValue (b + i)).toNat, { s with drawn := s.drawn + n })

/-! ## Ends of a CODE (R314, R317) -/

/-- The 32 bytes of result data. -/
def codeData (fnum : W32) (plen : Nat) (raw : Bool) (rows : Nat) : List Byte :=
  toBytesLE 32 (fnum.toNat + plen * 2 ^ 32 + b2n raw * 2 ^ 72 + rows * 2 ^ 96)

/-- The deadline of a job (R317). -/
def State.codeDeadline (s : State) (c : Cmd) : Option (W64 × W32) :=
  let dl := s.reg (Reg.och (codeStream c) 24)
  if bit dl 32 then
    let ph : W32 := BitVec.ofNat 32 (fld dl 0 32)
    some (if c.phaseAt.toNat < ph.toNat then (c.stepAt, ph) else (c.stepAt + 1, ph))
  else none

/-- The step base has passed a deadline. -/
def State.late (s : State) (dl : W64 × W32) : Bool :=
  decide (s.stb.step.toNat > dl.1.toNat) || (s.stb.step == dl.1 && decide (s.phase.toNat > dl.2.toNat))

/-- End a CODE: late work counts in LATE, and completes with the warning where it is good. -/
def State.codeEnd (s : State) (c : Cmd) (q : Nat) (st : W16) (data : List Byte) : State :=
  let i := codeStream c
  let late := match s.codeDeadline c with | some dl => s.late dl | none => false
  let s1 := if late then s.setStream i { s.ochStream i with late := min 0xFFFF ((s.ochStream i).late + 1) } else s
  s1.endCmd q c.seq (if late ∧ st = Status.ok then Status.codeLate else st) data

/-- End a CODE with an error: PLEN, FRAW and, of a decode, the rows of its result are free values (log 3). The store buffer becomes UNUSED; a
range of the destination is left undefined. -/
def State.codeFail (s : State) (c : Cmd) (q : Nat) (st : W16) (store : Option Nat) (undef : List (Ref × Nat)) : State :=
  let i := codeStream c
  let x := s.ochStream i
  let s1 := match store with
    | some b => s.setStream i { x with bufs := x.bufs.set b (0, (x.bufs.getD b (0, 0)).2) }
    | none => s
  let s2 := undef.foldl (fun s (r, n) => s.scramble r n) s1
  let (v, s3) := s2.draw
  s3.codeEnd c q st (codeData x.fnum (fld v 0 40) (bit v 40) (if s.ochDecode i then fld v 41 16 else 0))

/-- End a CODE that met an uncorrectable granule. -/
def State.codeUe (s : State) (c : Cmd) (q : Nat) (loc : Nat) (store : Option Nat) (undef : List (Ref × Nat)) : State :=
  (s.unmasked loc).codeFail c q Status.memUncorrectable store undef

/-! ## Encoding (R306, R314, R315) -/

/-- Marks after RELEASE. -/
def releaseMarks (bufs : List (Nat × W32)) (mask : Nat) : List (Nat × W32) :=
  bufs.zipIdx.map (fun (b, i) => if mask.testBit i then (0, b.2) else b)

def State.encode (s : State) (c : Cmd) (q : Nat) : State :=
  let i := codeStream c
  let d := s.ochDesc i
  let x := s.ochStream i
  let bufs := releaseMarks x.bufs (codeRelease c)
  let store := if d.act then none else chooseStore bufs x.fnum
  let dst := s.codeDst c
  let bad : List (Ref × Nat) := [(dst, codeCap d c)]
  if !d.act && store.isNone then s.codeFail c q Status.errRange none []
  else if s.refAny dst (codeCap d c) s.inCommitted then s.codeFail c q Status.errRange store []
  else
    let (s1, codes, e1) := s.readFrame d c
    match e1 with
    | some loc => s1.codeUe c q loc store bad
    | none =>
      if codes.any (fun v => decide (v ≥ 2 ^ d.bits)) then s1.codeFail c q Status.errRange store bad
      else
        let (s2, pool, e2) := s1.readPool i (bufs.map (fun b => b.1))
        match e2 with
        | some loc => s2.codeUe c q loc store bad
        | none =>
          let (hb, s3, e3) := if codeHintEn c then s2.readRef (s2.codeHint c) (hintLen d) else ([], s2, none)
          match e3 with
          | some _ => s3.codeUe c q ((s3.refLoc ((s3.codeHint c).add hb.length)).getD 0) store bad
          | none =>
            let f : OchFrame := { fnum := x.fnum, marks := bufs.map (fun b => b.1), store := store, nums := bufs.map (fun b => b.2),
                                  pool := pool, free := fun _ => 0 }
            let orig : Array Int := (codes.map (fun v => ((mapSample d v : Nat) : Int))).toArray
            let run := encFrame d f orig (if codeHintEn c then some (elems 2 hb) else none) x.vecs
            let pay := run.enc.bytes
            let raw := decide (pay.length > rawLen d)
            let body := if raw then rawPayload d orig else pay
            let rec_ := if raw then orig else run.out
            let out := padTo 32 (streamHeader d ++ frameHeader f body.length raw (codeLong c) (crc32c body) c.stepAt ++ body)
            if out.length > codeCap d c then s3.codeFail c q Status.bufOver store bad
            else
              let s5 := match store with | some b => s3.writePool i b rec_ | none => s3
              let s6 := ((s5.writeRef dst out).1).markOpt dst out.length
              let y : OchStream := { x with
                fnum := x.fnum + 1, raw := if raw then min 0xFFFF (x.raw + 1) else x.raw,
                bufs := match store with | some b => storeMark d bufs x.fnum b (codeLong c) | none => bufs,
                vecs := if raw then [] else run.vecs }
              (s6.setStream i y).codeEnd c q Status.ok (codeData x.fnum body.length raw 0)

/-! ## Decoding (R306, R309, R314) -/

/-- Where a record breaks R306 or R318, from its frame header h (64 bytes) and the payload's length. -/
def recordBad (d : OchDesc) (x : OchStream) (entry : Bool) (h : List Byte) (marks : List Nat) : Bool :=
  let storeEn := bitsAt h 73 1 == 1
  let st := bitsAt h 74 4
  bitsAt h 79 1 != 0 || bitsAt h 208 304 != 0 || marks.any (fun m => m == 3) ||
  (d.act && (storeEn || marks.any (fun m => m != 0))) || (storeEn && decide (st ≥ d.nbuf)) ||
  (bitsAt h 72 1 == 1 && bitsAt h 32 40 != rawLen d) ||
  marks.zipIdx.any (fun (m, b) => m != 0 && (decide (b ≥ d.nbuf) || (!entry && x.marks.getD b 0 == 0)))

/-- Rows exact under R309 for the kth frame since an entry; every row where there was none. -/
def exactRows (d : OchDesc) (entry : Option Nat) (n : W32) : Nat :=
  match entry with
  | none => d.rows
  | some k => if k < d.period then d.refreshEnd (d.phase n) else d.rows

def State.decode (s : State) (c : Cmd) (q : Nat) : State :=
  let i := codeStream c
  let d := s.ochDesc i
  let x := s.ochStream i
  let src := s.codeSrc c
  let dst := s.codeDst c
  let ent := codeEntry c
  if !s.refFits src 128 then s.codeFail c q Status.bufOver none []
  else
    let (hd, s1, e1) := s.readRef src 128
    match e1 with
    | some _ => s1.codeUe c q ((s1.refLoc (src.add hd.length)).getD 0) none []
    | none =>
      let h := hd.drop 64
      let n : W32 := BitVec.ofNat 32 (bitsAt h 0 32)
      let plen := bitsAt h 32 40
      let raw := bitsAt h 72 1 == 1
      let storeEn := bitsAt h 73 1 == 1
      let store := if storeEn ∧ bitsAt h 74 4 < d.nbuf then some (bitsAt h 74 4) else none
      let marks := (List.range 16).map (fun b => bitsAt h (80 + 2 * b) 2)
      let len := ceilDiv plen 32 * 32
      if hd.take 64 ≠ streamHeader d then s1.codeFail c q Status.codeCorrupt store []
      else if s1.refAny dst (codeSpan d c) s1.inCommitted then s1.codeFail c q Status.errRange store []
      else if recordBad d x ent h marks then s1.codeFail c q Status.codeCorrupt store []
      else if !s1.refFits src (128 + len) then s1.codeFail c q Status.bufOver store []
      else if (ent = false ∧ n ≠ x.fnum) ∨ (ent = true ∧ d.phase n ≠ 0) then s1.codeFail c q Status.errRange store []
      else
        let (pl, s2, e2) := s1.readRef (src.add 128) len
        match e2 with
        | some _ => s2.codeUe c q ((s2.refLoc (src.add (128 + pl.length))).getD 0) store []
        | none =>
          let pay := pl.take plen
          let undef : List (Ref × Nat) :=
            (List.range (d.y * d.z)).map (fun j => (dst.add (j / d.y * codePlanePitch d c + j % d.y * codeRowPitch d c), d.x * d.bps))
          if (crc32c pay).toNat ≠ bitsAt h 112 32 ∨ (pl.drop plen).any (fun b => b != 0) = true then
            s2.codeFail c q Status.codeCorrupt store undef
          else
            let (free, s3) := s2.ochFree d.n
            let bufs := (List.range d.nbuf).map (fun b => (marks.getD b 0, (x.bufs.getD b (0, 0)).2))
            let ad := ((if ent then List.range d.nbuf else x.adopted).filter (fun b => marks.getD b 0 != 0)).filter (fun b => store != some b)
            let (s4, pool, e4) := s3.readPool i (bufs.map (fun b => b.1))
            match e4 with
            | some loc => s4.codeUe c q loc store undef
            | none =>
              let f : OchFrame := { fnum := n, marks := bufs.map (fun b => b.1), store := store, nums := bufs.map (fun b => b.2),
                                    pool := pool, free := free }
              let res := if raw then some (rawDecode d pay, []) else decFrame d f pay
              match res with
              | none => s4.codeFail c q Status.codeCorrupt store undef
              | some (rec0, vecs) =>
                -- a decode that enters at frame 0 is exact everywhere (R309)
                let entry := if ent then (if n = 0 then none else some 0) else x.entry.map (· + 1)
                let good := exactRows d entry n
                let rowOf (j : Nat) : Nat := if d.d3 then j / (d.x * d.y) / 8 else j / d.x % d.y / 8
                -- rows outside the exact region are undefined (R309)
                let rec1 : Array Int := (rec0.toList.zipIdx.map (fun (u, j) =>
                  if rowOf j < good then u else ((free j % 2 ^ d.bits : Nat) : Int))).toArray
                let s5 := match store with | some b => s4.writePool i b rec1 | none => s4
                let s6 := (s5.writeFrame d c (rec1.toList.map (fun u => unmapSample d u.toNat))).markOpt dst (codeSpan d c)
                let y : OchStream := { x with
                  fnum := n + 1, vecs := vecs, entry := entry, adopted := ad,
                  bufs := match store with
                    | some b => slideFrom d.nshort n ad (bufs.set b (if bitsAt h 78 1 == 1 then 2 else 1, n))
                    | none => bufs }
                (s6.setStream i y).codeEnd c q Status.ok (codeData n plen raw good)

/-! ## Engines (R316) -/

/-- The command of a job. -/
def State.jobCmd (s : State) (j : OchJob) : Option Cmd := s.findCmd j.q j.seq

/-- No CODE of the same stream accepted before still has its effect to come (R314). -/
def State.codeTurn (s : State) (c : Cmd) : Bool :=
  s.liveCmds.all (fun x =>
    !(Cmd.opcode x.2 == 8 && codeStream x.2 == codeStream c && decide (x.2.acc < c.acc) &&
      (match x.2.phase with | .ended _ => false | _ => true)))

/-- The order in which an engine serves a job: LIVE with a deadline, LIVE, BULK; then deadline, dispatch, or stream. -/
def State.jobKey (s : State) (c : Cmd) : Nat × Nat :=
  if bit (s.ochCfg (codeStream c)) 2 then (2, (codeStream c + 47 - s.och.lastBulk) % 48)
  else
    match s.codeDeadline c with
    | some (st, ph) => (0, st.toNat * 2 ^ 32 + ph.toNat)
    | none => (1, c.disp)

def State.engine (s : State) (e : BitVec 1) : Option (Nat × W32) := if e = 0 then s.och.eng0 else s.och.eng1
def State.setEngine (s : State) (e : BitVec 1) (v : Option (Nat × W32)) : State :=
  { s with och := if e = 0 then { s.och with eng0 := v } else { s.och with eng1 := v } }

/-- A CODE command begins to use an engine, cluster 16 of the record of uses (14 R353, R372). -/
def State.useEngine (s : State) (e : BitVec 1) (q : Nat) (c : Cmd) : State :=
  if s.flt.uses.any (fun u => u.q == q && u.seq == c.seq && u.upTo.isNone) then s
  else
    let u : Use := { q := q, seq := c.seq, cls := s.qClass q, cluster := 16, pos := 0x30 + e.toNat, since := s.now, upTo := none,
                     runAt := c.runAt, slot := (Cmd.slot? c).map (fun i => (i, (s.slot i).gen)) }
    { s with flt := { s.flt with uses := s.flt.uses ++ [u] } }

/-- An idle engine takes the next unit (R316). -/
def State.ochPick (s : State) (e : BitVec 1) : State :=
  if (s.engine e).isSome then s
  else
    let other := s.engine (1 - e)
    let cands := s.och.jobs.filterMap (fun j =>
      match s.jobCmd j with
      | some c =>
        if s.codeTurn c && other != some (j.q, j.seq) && (j.eng.isNone || j.eng == some e.toNat) then some (j, c) else none
      | none => none)
    let best := cands.foldl
      (fun (m : Option (OchJob × Cmd)) x =>
        match m with
        | none => some x
        | some y =>
          let a := s.jobKey x.2
          let b := s.jobKey y.2
          if a.1 < b.1 ∨ (a.1 = b.1 ∧ a.2 < b.2) then some x else some y) none
    match best with
    | none => s
    | some (j, c) =>
      let s1 := (s.useEngine e j.q c).setEngine e (some (j.q, j.seq))
      { s1 with och := { s1.och with
        jobs := s1.och.jobs.map (fun k => if k.q == j.q && k.seq == j.seq then { k with eng := some e.toNat } else k),
        lastBulk := if bit (s.ochCfg (codeStream c)) 2 then codeStream c else s1.och.lastBulk } }

/-- CODE (R311, R316): the command becomes a job of the engines. -/
def execCode (q : BitVec 6) (seq : W32) (s : State) : Out :=
  match s.findCmd q.toNat seq with
  | none => .next s
  | some c =>
    if c.phase ≠ .running ∨ Cmd.opcode c ≠ 0x08 ∨ s.och.jobs.any (fun j => j.q == q.toNat && j.seq == seq) = true then .next s
    else
      let j : OchJob := { q := q.toNat, seq := seq, eng := none, left := ceilDiv (s.ochDesc (codeStream c)).blocks 256 }
      let s1 : State := { s with och := { s.och with jobs := s.och.jobs ++ [j] } }
      .next ((s1.ochPick 0).ochPick 1)

/-- The bytes a CODE writes are in use by the training job (10 R247). -/
def State.codeHeld (s : State) (c : Cmd) : Bool :=
  let d := s.ochDesc (codeStream c)
  s.writeHeld (s.codeDst c) (if s.ochDecode (codeStream c) then codeSpan d c else codeCap d c)

/-- OCHRE_UNIT_COMPLETE (R316): engine e ends a unit of 256 blocks; the last unit ends the job. A job whose writes are held
stays at its last unit; `f` is what the memory it reads shows (09 R222). -/
def execOchreUnitComplete (e : BitVec 1) (f : MemFind) (s : State) : Out :=
  match s.engine e with
  | none => .next (s.ochPick e)
  | some (q, seq) =>
    let upd (s : State) (f : OchJob → List OchJob) : State :=
      { s with och := { s.och with jobs := s.och.jobs.flatMap (fun k => if k.q == q && k.seq == seq then f k else [k]) } }
    match s.och.jobs.find? (fun k => k.q == q && k.seq == seq), s.findCmd q seq with
    | some j, some c =>
      if s.domBad 60 || s.memStopped then .next s
      else if c.phase ≠ .running then .next ((((upd s (fun _ => [])).setEngine e none).closeUse q seq (fun _ => true)).ochPick e)
      else if j.left > 1 then .next (((upd s (fun k => [{ k with left := k.left - 1 }])).setEngine e none).ochPick e)
      else if s.codeHeld c then .next s
      else
        let s1 := ((upd s (fun _ => [])).setEngine e none).closeUse q seq (fun _ => true)
        let s2 := if s1.ochDecode (codeStream c) then (s1.found f).decode c q else (s1.found f).encode c q
        .next ((s2.ochPick e).ochPick (1 - e))
    | _, _ => .next (((upd s (fun _ => [])).setEngine e none).ochPick e)

end Sys2Proof.Machine
end

