-- ==== Sys2Proof/Machine/Fabric.lean ====
section
/-! DEFINITION. The fabric: registers, routes, packets between modules and their acknowledgement, floods (13 R322 to R329,
R346). -/
namespace Sys2Proof.Machine

/-! ## Registers (R329, Tables 13.5 and 13.6) -/

/-- A write to FAB_CFG. -/
def State.writeFabCfg (s : State) (w : W64) : Option State :=
  let sh := fld w 0 2
  if s.busy ∨ (sh ≠ 0 ∧ s.modNumber ≥ 16 * torusZ sh) then none else some (s.setReg Reg.fabCfg (at64 0 2 sh))

/-- FAB_CFG_WRITE. Shape 0 names no module and so leaves none out. -/
def execFabCfgWrite (k : Packet) (s : State) : Out := .next (s.regWr k (fun o => o == Reg.fabCfg) (fun s _ v => s.writeFabCfg v))

def isXroute (off : Nat) : Bool := decide (0x31000 ≤ off) && decide (off < 0x31200) && off % 8 == 0

/-- A write to FAB_XROUTE[d]. -/
def State.writeXroute (s : State) (d : Nat) (w : W64) : Option State :=
  if d = domainOf s.ownIdent then none else some (s.setReg (0x31000 + 8 * d) (w &&& 0x1FF#64))

/-- FAB_XROUTE_WRITE. -/
def execFabXrouteWrite (k : Packet) (s : State) : Out :=
  .next (s.regWr k isXroute (fun s o v => s.writeXroute ((o - 0x31000) / 8) v))

/-- A port that carries traffic. -/
def State.fabUp (s : State) (p : Nat) : Bool :=
  let x := s.port (.fab (BitVec.ofNat 4 p))
  decide (x.st = .active) && !x.miswired

/-- FAB_PSTAT[p]. -/
def State.fabPstat (s : State) (p : Nat) : W64 :=
  let x := s.port (.fab (BitVec.ofNat 4 p))
  let w := match laneCount x.lanes with | 4 => 0 | 2 => 1 | 1 => 2 | _ => 3
  at64 0 3 x.st.code ||| at64 3 2 w ||| at64 5 1 (b2n x.rev) ||| at64 6 1 (b2n x.miswired) ||| at64 8 12 x.peer.toNat |||
  at64 20 4 x.peerPort.toNat

/-- FAB_ERRCNT[p]. -/
def State.fabErrcnt (s : State) (p : Nat) : W64 :=
  (List.range 4).foldl (fun w i => w ||| at64 (16 * i) 16 (Tab.get 0 s.fab.err (4 * p + i))) 0

/-! ## Routes (R327, R328) -/

/-- The ports of this module that are up. -/
def State.ownLinks (s : State) : BitVec 16 :=
  (List.range 16).foldl (fun w p => if s.fabUp p then w ||| BitVec.ofNat 16 (2 ^ p) else w) 0

/-- Port p of module a of the domain is up, as far as this module knows. -/
def State.linkUp (s : State) (a p : Nat) : Bool := if a = s.modNumber then s.fabUp p else bit (Tab.get 0 s.fab.links a) p

/-- Modules one link away from a. -/
def State.adjacent (s : State) (a : Nat) : List Nat :=
  (List.range 12).filterMap (fun p =>
    match torusFar s.shape a p with
    | some (b, q) => if s.linkUp a p && s.linkUp b q then some b else none
    | none => none)

/-- Distances to module dst: those known, those reached last. -/
def State.spread (s : State) : Nat → Nat → List Nat → List (Nat × Nat) → List (Nat × Nat)
  | 0, _, _, acc => acc
  | fuel + 1, d, front, acc =>
    let next := ((front.flatMap s.adjacent).eraseDups).filter (fun b => acc.all (fun e => e.1 != b))
    if next.isEmpty then acc else State.spread s fuel (d + 1) next (acc ++ next.map (fun b => (b, d + 1)))

def State.distances (s : State) (dst : Nat) : List (Nat × Nat) := s.spread 64 0 [dst] [(dst, 0)]

/-- The first port, in the order of R327, of a shortest path to module dst of the domain. -/
def State.towards (s : State) (dst : Nat) : Option Nat :=
  let ds := s.distances dst
  match ds.find? (fun e => e.1 == s.modNumber) with
  | some (_, d) =>
    (List.range 12).find? (fun p =>
      s.fabUp p &&
      (match torusFar s.shape s.modNumber p with
       | some (b, q) => s.linkUp b q && ds.contains (b, d - 1)
       | none => false))
  | none => none

/-- The port a packet for a destination leaves by, and the state with its pair's turn taken. -/
def State.route (s : State) (dst : BitVec 12) : Option Nat × State :=
  let pick (m : Nat) : Option Nat × State :=
    match s.towards m with
    | none => (none, s)
    | some p =>
      let k := p / 2
      let other := 2 * k + (1 - p % 2)
      if s.fabUp other then
        let t := Tab.get 0 s.fab.pair k
        (some (2 * k + t % 2), { s with fab := { s.fab with pair := Tab.put 0 s.fab.pair k ((t + 1) % 2) } })
      else (some p, s)
  if domainOf dst = domainOf s.ownIdent then pick (dst.toNat % 64)
  else
    let r := s.reg (0x31000 + 8 * domainOf dst)
    if !bit r 0 then (none, s)
    else if fld r 1 6 = s.modNumber then
      let p := 12 + fld r 7 2
      if s.fabUp p then (some p, s) else (none, s)
    else pick (fld r 1 6)

/-! ## Packets (R326, Table 13.4) -/

/-- A packet as sent: header, payload, CRC. -/
def mkFab (dst src : BitVec 12) (ty hops : Nat) (eseq : W32) (arg : W64) (pl : List Byte) : List Byte :=
  let h := toBytesLE 20 (dst.toNat + src.toNat * 2 ^ 12 + ty * 2 ^ 24 + hops * 2 ^ 28 + pl.length * 2 ^ 32 + eseq.toNat * 2 ^ 64 +
    arg.toNat * 2 ^ 96)
  h ++ pl ++ toBytesLE 4 (crc32c (h ++ pl)).toNat

/-- ARG of a SIG packet: object in [13:0], value in [63:32] (DESIGN CHOICE, log 26). -/
def sigArg (obj : BitVec 14) (add : W32) : W64 := at64 0 14 obj.toNat ||| at64 32 32 add.toNat

/-- The bytes of a message that carries data: 64 beside the data (DESIGN CHOICE, log 21). -/
def ctlLong (m : Msg) : List Byte :=
  let n := (m.load.getD 0) + 64
  let bs := (Config.ctlBytes m).take n
  bs ++ List.replicate (n - bs.length) 0

/-- The bytes of a body sent by this module. -/
def State.fabBytes (s : State) (dst : BitVec 12) (hops : Nat) (eseq : W32) (b : FabBody) : List Byte :=
  match b with
  | .data a bs => mkFab dst s.ownIdent 0 hops eseq a (padTo 4 bs)
  | .sig o v => mkFab dst s.ownIdent 1 hops eseq (sigArg o v) []
  | .ctl m => mkFab dst s.ownIdent 4 hops eseq 0 (padTo 4 ((Config.ctlBytes m).take 256))
  | .bulk m i => mkFab dst s.ownIdent 4 hops eseq 0 (padTo 4 ((ctlLong m).drop (8192 * i) |>.take 8192))

def Fab.dst (b : List Byte) : BitVec 12 := BitVec.ofNat 12 (bitsAt b 0 12)
def Fab.src (b : List Byte) : BitVec 12 := BitVec.ofNat 12 (bitsAt b 12 12)
def Fab.ty (b : List Byte) : Nat := bitsAt b 24 4
def Fab.hops (b : List Byte) : Nat := bitsAt b 28 4
def Fab.len (b : List Byte) : Nat := bitsAt b 32 14
def Fab.eseq (b : List Byte) : W32 := BitVec.ofNat 32 (bitsAt b 64 32)
def Fab.arg (b : List Byte) : W64 := BitVec.ofNat 64 (bitsAt b 96 64)
def Fab.payload (b : List Byte) : List Byte := (b.drop 20).take (Fab.len b)

/-- The checks of R326 at the destination. Header bits [63:46] other than 0 are ignored (DESIGN CHOICE, log 84). -/
def Fab.good (sl : Bool) (b : List Byte) : Bool :=
  let n := Fab.len b
  decide (n ≤ if sl then 256 else 8192) && n % 4 == 0 && b.length == n + 24 && decide (Fab.ty b ≤ 4) &&
  leAt b (20 + n) 4 == (crc32c (b.take (20 + n))).toNat

/-- Hand bytes of a packet to the port of its route, on the hop class of its HOPS. -/
def State.emit (s : State) (lane : Nat) (dst : BitVec 12) (hops : Nat) (b : List Byte) : State × Bool :=
  match s.route dst with
  | (none, s1) => (s1, false)
  | (some p, s1) =>
    let id : PortId := .fab (BitVec.ofNat 4 p)
    (s1.updPort id (fun x => { x with txq := x.txq ++ cutPacket id (16 * lane + hops) b }), true)

/-- A packet for another module goes on: HOPS one more, its CRC following (R327; DEDUCED, log 26). One that has crossed 15 links
goes no further (R328). -/
def State.relay (s : State) (p : PortId) (sl : Bool) (b : List Byte) : State :=
  let h := Fab.hops b
  if h + 1 ≥ 15 then s.linkCount p 3 1
  else
    let n := b.length - 4
    let old := b.take n
    let hd := toBytesLE 4 (leAt b 0 4 + 2 ^ 28)
    let new := hd ++ old.drop 4
    let crc := BitVec.ofNat 32 (leAt b n 4) ^^^ crc32c old ^^^ crc32c new
    let (s1, ok) := s.emit (b2n sl) (Fab.dst b) (h + 1) (new ++ toBytesLE 4 crc.toNat)
    if ok then s1 else s1.linkCount p 3 1

/-- Answer a packet. -/
def State.answer (s : State) (dst : BitVec 12) (sl nak : Bool) (e : W32) : State :=
  { s with fab := { s.fab with acks := s.fab.acks ++ [(dst, b2n sl, nak, e)] } }

/-- A numbered packet of src in a lane: delivered in order, acknowledged; a duplicate is acknowledged again; one that is early is
left to be resent (R326; DESIGN CHOICE, log 26). -/
def State.inOrder (s : State) (src : BitVec 12) (sl : Bool) (e : W32) (body : State → State) : State :=
  let k := 2 * src.toNat + b2n sl
  let x := Tab.get 0 s.fab.expect k
  if e = x then ({ body s with fab := { (body s).fab with expect := Tab.put 0 (body s).fab.expect k (x + 1) } } : State).answer src sl false e
  else if (e - x).msb then s.answer src sl false e
  else s

/-- The packet is at the front of what the port's flits of its lane and class brought (log 18): take it from there. -/
def State.takeFab (s : State) (p : PortId) (sl : Bool) (b : List Byte) : State :=
  s.updPort p (Port.takePacket p (16 * b2n sl + Fab.hops b) b)

/-- The CRC of a packet holds. -/
def Fab.crcOk (b : List Byte) : Bool := leAt b (20 + Fab.len b) 4 == (crc32c (b.take (20 + Fab.len b))).toNat

/-- Anything from the master shows that it is reached (R339; 14 R374). -/
def State.heardFrom (s : State) (src : BitVec 12) : State :=
  { s with flt := { s.flt with
      masterAt := if src = s.master then s.now else s.flt.masterAt,
      silent := match s.flt.silent with | some (d, t) => if d = src then none else some (d, t) | none => none } }

/-- A packet of this module that fails the checks of R326: discarded, counted, answered NAK; a failing CRC is a detection too
(14 R351). -/
def State.fabBad (s : State) (p : BitVec 4) (sl : Bool) (b : List Byte) : State :=
  let s1 := (s.linkCount (.fab p) 3 1).answer (Fab.src b) sl true (Fab.eseq b)
  if Fab.crcOk b then s1 else s1.logOpen Cls.link 1 Status.ok (portUnit (.fab p))

/-- A packet of the types of a row arrives at a port: relayed, refused, or handled (R326 to R328). -/
def State.fabIn (s : State) (p : BitVec 4) (sl : Bool) (b : List Byte) (mine : Nat → Bool) (body : State → State) : State :=
  if !s.fabUp p.toNat || s.portStopped (.fab p) || !mine (Fab.ty b) then s
  else if s.flt.fenced then s.takeFab (.fab p) sl b
  else
    let s := s.takeFab (.fab p) sl b
    if s.host.ident ≠ some (Fab.dst b) then s.relay (.fab p) sl b
    else if !Fab.good sl b then s.fabBad p sl b
    else body (s.heardFrom (Fab.src b))

/-- The payload of a DATA packet lands where ARG names a range of one tier, or of one live handle; another is acknowledged and
nothing is written (09 R215; DESIGN CHOICE, log 92). -/
def State.fabFits (s : State) (b : List Byte) : Bool :=
  s.handleOk none (s.refOf (Fab.arg b)) && s.refFits (s.refOf (Fab.arg b)) (Fab.len b)

/-- FAB_DATA (R326): the payload lands at the module address of ARG. A packet of a reserved type is refused here too. Storage in
use by the training job holds the packet (10 R247). -/
def execFabData (p : BitVec 4) (sl : Bool) (bytes : List Byte) (s : State) : Out :=
  let r := s.refOf (Fab.arg bytes)
  if Fab.ty bytes = 0 ∧ s.host.ident = some (Fab.dst bytes) ∧ Fab.good sl bytes ∧ s.fabFits bytes ∧ s.writeHeld r (Fab.len bytes) then .next s
  else
    .next (s.fabIn p sl bytes (fun t => t == 0 || decide (t ≥ 5)) (fun s =>
      s.inOrder (Fab.src bytes) sl (Fab.eseq bytes) (fun s =>
        if s.fabFits bytes then ((s.writeRef r (Fab.payload bytes)).1).markOpt r (Fab.len bytes) else s)))

/-- FAB_SIG (R346; 01 R16): the directory forwards the signal to the object's home, where it is added once, in order, and
acknowledges. -/
def execFabSig (p : BitVec 4) (sl : Bool) (bytes : List Byte) (s : State) : Out :=
  .next (s.fabIn p sl bytes (fun t => t == 1) (fun s =>
    s.inOrder (Fab.src bytes) sl (Fab.eseq bytes) (fun s =>
      s.homeAdd (fld (Fab.arg bytes) 0 14) (BitVec.ofNat 32 (fld (Fab.arg bytes) 32 32)))))

/-- Release a packet that its destination has accepted: a signal's owner and collectives go on (R326, R346, R348; 11 R285). -/
def State.released (s : State) (dst : BitVec 12) (lane : Nat) (e : W32) : State :=
  let s1 : State := { s with fab := { s.fab with
    sent := s.fab.sent.filter (fun f => !(f.dst == dst && FabBody.lane f.body == lane && f.eseq == e)) } }
  let own := s1.sync.remote.find? (fun g => lane == 1 && g.peer == dst && g.eseq == e)
  let s2 : State := { s1 with sync := { s1.sync with remote := s1.sync.remote.filter (fun g => !(lane == 1 && g.peer == dst && g.eseq == e)) } }
  let s3 := match own with
    | some g =>
      match g.owner with
      | .cmd q seq => if s2.isRunning q seq then s2.endCmd q seq Status.ok [] else s2
      | .tile _ => s2
    | none => s2
  s3.collPoke

/-- FAB_ACK (R326). -/
def execFabAck (p : BitVec 4) (sl : Bool) (bytes : List Byte) (s : State) : Out :=
  .next (s.fabIn p sl bytes (fun t => t == 2) (fun s => s.released (Fab.src bytes) (b2n sl) (Fab.eseq bytes)))

/-- Mark kept packets to be sent again. -/
def State.again (s : State) (p : FabSent → Bool) : State :=
  { s with fab := { s.fab with sent := s.fab.sent.map (fun f => if p f then { f with due := true } else f) } }

/-- FAB_NAK (R326): the source resends the packet. -/
def execFabNak (p : BitVec 4) (sl : Bool) (bytes : List Byte) (s : State) : Out :=
  .next (s.fabIn p sl bytes (fun t => t == 3) (fun s =>
    s.again (fun f => f.dst == Fab.src bytes && FabBody.lane f.body == b2n sl && f.eseq == Fab.eseq bytes)))

/-- FAB_RESEND_TIMER (R326): packets 20 µs without an acknowledgement are sent again. -/
def execFabResendTimer (s : State) : Out := .next (s.again (fun f => decide (s.now - f.last ≥ 20 * usec)))

/-- A packet of this module's own for a domain without a VALID FAB_XROUTE entry is discarded and counted (R328), in FAB_ERRCNT[0]
(DESIGN CHOICE, log 93). -/
def State.noXroute (s : State) (dst : BitVec 12) : State :=
  if domainOf dst = domainOf s.ownIdent ∨ bit (s.reg (0x31000 + 8 * domainOf dst)) 0 then s else s.linkCount (.fab 0) 3 1

/-- Hand a packet of this module's own to its route. -/
def State.emitOwn (s : State) (lane : Nat) (dst : BitVec 12) (b : List Byte) : State := ((s.noXroute dst).emit lane dst 0 b).1

/-- Packets due, and answers, go to the ports of their routes; a fenced module sends nothing but its declaration (14 R374). -/
def State.fabFlush (s : State) : State :=
  let may (f : FabSent) : Bool := f.due &&
    (!s.flt.fenced || (match f.body with | .ctl (.declare _) => true | .ctl (.declared _) => true | _ => false))
  let s1 := s.fab.sent.foldl
    (fun s f => if may f then s.emitOwn (FabBody.lane f.body) f.dst (s.fabBytes f.dst 0 f.eseq f.body) else s) s
  let s2 : State := { s1 with fab := { s1.fab with
    sent := s1.fab.sent.map (fun f => if may f then { f with due := false, last := s.now } else f), acks := [] } }
  if s.flt.fenced then s2
  else s.fab.acks.foldl (fun s (d, l, nak, e) => s.emitOwn l d (mkFab d s.ownIdent (if nak then 3 else 2) 0 e 0 [])) s2

/-! ## Floods (R327, R338) -/

/-- The modules at the far ends of the ports that are up. -/
def State.peers (s : State) : List (BitVec 12) :=
  (((List.range 16).filter s.fabUp).map (fun p => (s.port (.fab (BitVec.ofNat 4 p))).peer)).eraseDups

/-- Tell every neighbour but one. -/
def State.flood (s : State) (m : Msg) (but : Option (BitVec 12)) : State :=
  (s.peers.filter (fun d => some d != but)).foldl (fun s d => s.sendMsg d m) s

/-- Flood this module's link state when it has changed. -/
def State.floodLinks (s : State) : State :=
  let w := s.ownLinks
  let me := s.modNumber
  if s.host.ident.isNone ∨ Tab.get 0 s.fab.links me = w then s
  else ({ s with fab := { s.fab with links := Tab.put 0 s.fab.links me w } } : State).flood (.linkState s.ownIdent w) none

/-- A flooded link state of a module of the domain: kept and passed on when it is news. -/
def State.takeLinks (s : State) (src id : BitVec 12) (up : BitVec 16) : State :=
  let m := id.toNat % 64
  if domainOf id ≠ domainOf s.ownIdent ∨ id = s.ownIdent ∨ Tab.get 0 s.fab.links m = up then s
  else ({ s with fab := { s.fab with links := Tab.put 0 s.fab.links m up } } : State).flood (.linkState id up) (some src)

/-- The link states this module has been told, and its own. -/
def State.knownLinks (s : State) : List Msg :=
  let base := 64 * domainOf s.ownIdent
  (s.fab.links.filter (fun e => e.2 != 0)).map (fun e => .linkState (BitVec.ofNat 12 (base + e.1)) e.2)

/-- TRAINING_STATE_DONE (02 R26, R27; 13 R323, R327, R338): a fabric port that becomes ACTIVE floods link states and
identities; the neighbour behind it is told every link state and identity this module knows. -/
def execTrainingStateDone (p : PortId) (r : TrainReport) (s : State) : Out :=
  let s1 := s.trainDone p r
  match p with
  | .fab n =>
    if s1.fabUp n.toNat && !s.fabUp n.toNat then
      let s2 := s1.floodLinks
      let ids := s2.ownIdent :: s2.stb.known
      .next ((s2.knownLinks ++ ids.map Msg.identity).foldl (fun s m => s.sendMsg (s2.port p).peer m) s2)
    else .next s1
  | _ => .next s1

end Sys2Proof.Machine
end

