-- ==== Sys2Proof/Machine/StepBase.lean ====
section
/-! DEFINITION. The step base: sources, cadence, TIME, master and alignment, step-event entries, queue holds, lock groups, and
the commands SYNC_SIGNAL, SYNC_WAIT and STEP_EVENT_SET (13 R330 to R349). -/
namespace Sys2Proof.Machine

/-! ## Registers (R332, Tables 13.7 and 13.8) -/

def State.stbSrc (s : State) : Nat := fld (s.reg 0x20000) 0 2
def State.stbHold (s : State) : Nat := fld (s.reg 0x20000) 6 16
/-- MIN and MAX in reference ticks. -/
def State.winMin (s : State) : Nat := fld (s.reg 0x20008) 0 32 * usec
def State.winMax (s : State) : Nat := fld (s.reg 0x20008) 32 32 * usec

/-- a ÷ b rounded to the nearest, ties to even. -/
def divEven (a b : Nat) : Nat :=
  let q := a / b
  let r := a % b
  if 2 * r > b ∨ (2 * r = b ∧ q % 2 = 1) then q + 1 else q

/-- E in ticks (R334). -/
def State.expect (s : State) : Nat :=
  if s.stb.ivals.isEmpty then (s.winMin + s.winMax) / 2
  else divEven (s.stb.ivals.foldl (· + ·) 0) s.stb.ivals.length

/-- This module works on the step base of an aligned set: it is its master, or aligned to it (R338). -/
def State.onBase (s : State) : Bool := s.isMaster || s.stb.aligned

/-- STB_STAT: a module without an identity has had no election and expects nothing (Table 13.8: every field but CAD resets to 0). -/
def State.stbStat (s : State) : W64 :=
  let en := s.host.ident.isSome
  at64 0 12 (if en then s.master.toNat else 0) ||| at64 12 1 (b2n (en && s.isMaster)) ||| at64 13 1 (b2n (en && s.onBase)) |||
  at64 14 2 s.stb.cad ||| at64 32 32 (if en then divEven s.expect 100 else 0)

/-- STB_CNT. -/
def State.stbCnt (s : State) : W64 := (List.range 4).foldl (fun w i => w ||| at64 (16 * i) 16 (Tab.get 0 s.stb.cnt i)) 0
/-- Add to a count: 0 GLITCH, 1 EARLY, 2 MISS, 3 TIME_IGN. -/
def State.stbCount (s : State) (i : Nat) : State :=
  { s with stb := { s.stb with cnt := Tab.upd 0 s.stb.cnt i (fun n => min 0xFFFF (n + 1)) } }

/-- Cadence state started over (R332). -/
def StbSt.restart (b : StbSt) : StbSt := { b with cad := 1, r := none, ivals := [], run := 0, miss := 0, fly := 0, lost := false }

def State.evt (s : State) (i : Nat) : StepEvt := Tab.get {} s.stb.evt i
def State.setEvt (s : State) (i : Nat) (e : StepEvt) : State := { s with stb := { s.stb with evt := Tab.put {} s.stb.evt i e } }
def StepEvt.armed (e : StepEvt) : Bool := bit e.w1 35
def StepEvt.action (e : StepEvt) : Nat := fld e.w1 32 3
def StepEvt.arg (e : StepEvt) : Nat := fld e.w1 48 16
def StepEvt.rpt (e : StepEvt) : Nat := fld e.w1 36 12
def StepEvt.phase (e : StepEvt) : Nat := fld e.w1 0 32

/-- A write to STB_CFG (R331, R332). A new phase unit counts on from the PHASE shown (R330; DEDUCED, log 27). -/
def State.writeStbCfg (s : State) (w : W64) : Option State :=
  let v := w &&& 0x3FFFFF#64
  let old := s.reg 0x20000
  let src := fld v 0 2 ≠ fld old 0 2
  let div := fld v 2 4 ≠ fld old 2 4
  if fld v 0 2 = 3 then none
  else if (src ∨ div) ∧ (s.busy = true ∨ s.stb.evt.any (fun e => e.2.armed) = true) then none
  else
    let s1 : State := if div then { s with stb := { s.stb with phase0 := s.phase, phaseAt := s.stb.tick } } else s
    let s2 : State := if src then { s1 with stb := s1.stb.restart } else s1
    some (s2.setReg 0x20000 v)

/-- A write to STB_WIN. -/
def State.writeStbWin (s : State) (w : W64) : Option State :=
  if fld w 0 32 = 0 ∨ fld w 0 32 > fld w 32 32 then none else some (s.setReg 0x20008 w)

/-- STB_CFG_WRITE (R332). -/
def execStbCfgWrite (k : Packet) (s : State) : Out :=
  .next (s.regWr k (fun o => o == 0x20000 || o == 0x20008) (fun s o v => if o = 0x20000 then s.writeStbCfg v else s.writeStbWin v))

/-- STB_QHOLD_WRITE (R342). -/
def execStbQholdWrite (k : Packet) (s : State) : Out :=
  .next (s.regWr k (fun o => o == 0x20030) (fun s _ v => some (s.setReg 0x20030 v)))
def State.qHeld (s : State) (q : Nat) : Bool := bit (s.reg 0x20030) q

/-- What a read of STB_STEP does. -/
def State.stepReadNow (s : State) (k : Packet) : State :=
  if regServed s 0x20010 then ({ s with stb := { s.stb with latch := s.phase } } : State).respond k Status.ok s.stb.step []
  else s.respond k Status.errRange 0 []

/-- STB_STEP_READ (R332): a read of STB_STEP latches the PHASE of the same instant. -/
def execStbStepRead (k : Packet) (s : State) : Out :=
  if Packet.off k ≠ 0x20010 then .next s else .next (s.pxu k 0x2 (fun s => s.inTurn (.stbStepRead k) false (s.stepReadNow k)))

/-! ## Lock groups (R344, R345) -/

def Reg.lgCfg (g : Nat) : Nat := 0x20100 + 8 * g
def State.lgOn (s : State) (g : Nat) : Bool := bit (s.reg (Reg.lgCfg g)) 0
def State.lgPeriod (s : State) (g : Nat) : Nat := fld (s.reg (Reg.lgCfg g)) 1 24

/-- The lock group of a LAUNCH command (03 Table 3.8). -/
def launchLock (c : Cmd) : Option Nat :=
  if Cmd.opcode c = 0x01 ∧ Cmd.full c ∧ Cmd.opnd c 437 1 = 1 then some (Cmd.opnd c 438 4) else none

/-- A blkend that has drained completes at a tick of its group. -/
def State.lockPass (s : State) (g : Nat) : State :=
  (List.range 256).foldl
    (fun s t =>
      match s.launchOf t with
      | some l =>
        if l.lock = some g ∧ (s.tile t).core = .lockWait ∧ !s.tileHeld t then
          s.updTile t (fun x => { x with core := .run, active := 0, block := x.block + 1, sig := 0, blkAt := s.now, atBlk := true })
        else s
      | none => s) s

/-- Group g ticks now. -/
def State.lockTick (s : State) (g : Nat) : State :=
  let s1 : State := { s with stb := { s.stb with lgAt := Tab.put (0, 0) s.stb.lgAt g (s.stb.step, s.phase) } }
  s1.lockPass g

/-- A module that comes back to the base of its set ticks its groups from the next multiple of PERIOD on (R338, R344). -/
def State.lockSkip (s : State) : State :=
  { s with stb := { s.stb with lgAt := (List.range 16).foldl (fun t g => Tab.put (0, 0) t g (s.stb.step, s.phase)) s.stb.lgAt } }

/-- At a jump of the step base every group ticks once. -/
def State.lockJump (s : State) : State :=
  if s.onBase then (List.range 16).foldl (fun s g => if s.lgOn g then s.lockTick g else s) s else s

/-- LOCK_GROUP_TICK (R344): PHASE has reached a multiple of PERIOD since the group's last tick. -/
def execLockGroupTick (g : BitVec 4) (s : State) : Out :=
  let n := g.toNat
  let (st, ph) := Tab.get (0, 0) s.stb.lgAt n
  let p := s.lgPeriod n
  if s.lgOn n && s.onBase && (s.stb.step != st || decide (s.phase.toNat / p > ph.toNat / p)) then .next (s.lockTick n) else .next s

/-- A write to LG_CFG[g] (R344). -/
def State.writeLgCfg (s : State) (g : Nat) (w : W64) : Option State :=
  let v := w &&& 0x1FFFFFF#64
  if fld v 1 24 = 0 ∨ (v ≠ s.reg (Reg.lgCfg g) ∧ s.liveCmds.any (fun c => launchLock c.2 == some g) = true) then none
  else
    let s1 := s.setReg (Reg.lgCfg g) v
    some { s1 with stb := { s1.stb with lgAt := Tab.put (0, 0) s1.stb.lgAt g (s.stb.step, s.phase) } }

/-- LG_CFG_WRITE. -/
def execLgCfgWrite (k : Packet) (s : State) : Out :=
  .next (s.regWr k (fun o => decide (0x20100 ≤ o) && decide (o < 0x20180) && o % 8 == 0)
    (fun s o v => s.writeLgCfg ((o - 0x20100) / 8) v))

/-! ## Step changes (R330, R331) -/

/-- PHASE that a value set at a tick shows now. -/
def State.phaseFrom (s : State) (phase : W32) (at_ : W64) : Nat :=
  min 0xFFFFFFFF (phase.toNat + (s.stb.tick - at_).toNat / 2 ^ fld (s.reg 0x20000) 2 4)

/-- The step base set: STEP, PHASE at a tick. STEP never decreases, nor PHASE within a step (R330). -/
def State.setStep (s : State) (step : W64) (phase : W32) (at_ : W64) : State :=
  if step.toNat < s.stb.step.toNat ∨ (step = s.stb.step ∧ s.phaseFrom phase at_ < s.phase.toNat) then s
  else ({ s with stb := { s.stb with step := step, phase0 := phase, phaseAt := at_ } } : State).lockJump

/-- The number of the next step. -/
def State.nextStep (s : State) : W64 :=
  s.stb.changes.foldl (fun m c => if m.toNat < c.1.toNat + 1 then c.1 + 1 else m) (s.stb.step + 1)

/-- A step decided at tick d with start tick t: in force 2,000 ticks later on every module of the set. -/
def State.decideChange (s : State) (t d : Nat) : State :=
  let n := s.nextStep
  let st := BitVec.ofNat 64 t
  let eff := BitVec.ofNat 64 (d + 2000)
  let s1 : State := { s with stb := { s.stb with changes := s.stb.changes ++ [(n, st, eff)] } }
  s1.sendAll s1.stb.known (.stepChange n st eff)

/-- A step advance under the source in force: at once under INBAND (R336), else by R331. -/
def State.newStep (s : State) (t d : Nat) : State :=
  if s.stbSrc = 1 then s.setStep (s.stb.step + 1) 0 (BitVec.ofNat 64 t) else s.decideChange t d

/-- STEP_CHANGE_EFFECT (R331): the oldest change whose tick has come. -/
def execStepChangeEffect (s : State) : Out :=
  match s.stb.changes.find? (fun c => decide (c.2.2.toNat ≤ s.stb.tick.toNat)) with
  | some c =>
    let s1 : State := { s with stb := { s.stb with changes := s.stb.changes.erase c } }
    .next (s1.setStep c.1 0 c.2.1)
  | none => .next s

/-! ## Cadence (R333 to R335) -/

/-- An entry of the fault log about the step base. -/
def State.logStb (s : State) (st : W16) : State := s.log Cls.stepBase 0 st (Unit.iod 0x49) (s.host.ident.getD 0) 0

/-- Tell the set the master's cadence state (R339). -/
def State.tellCadence (s : State) : State :=
  if s.stbSrc = 0 then
    s.sendAll s.stb.known (.cadence (s.stb.r.getD 0) (BitVec.ofNat 64 s.expect) s.stb.cad s.stb.miss)
  else s

/-- One MISS (R335): a flywheel step, HOLDOVER or FROZEN. -/
def State.missOne (s : State) (r : W64) : State :=
  let b := s.stb
  if b.cad = 2 ∧ b.fly ≥ s.stbHold then
    ({ s with stb := { b with cad := 3, run := 0 } } : State).logStb Status.cadenceLost
  else
    let r' := r + BitVec.ofNat 64 s.expect
    let enter := b.cad ≠ 2 ∧ b.miss + 1 ≥ 4
    let s1 : State := { s with stb := { b with
      r := some r', run := 0, miss := b.miss + 1, cad := if enter then 2 else b.cad, fly := if enter then 0 else if b.cad = 2 then b.fly + 1 else b.fly,
      lost := b.lost || decide enter } }
    let s2 := (s1.stbCount 2).newStep r'.toNat (r.toNat + s.winMax)
    if enter then s2.logStb Status.cadenceLost else s2

/-- This module judges step advances: the master under CADENCE, every module under INBAND. -/
def State.judges (s : State) : Bool := (s.stbSrc == 0 && s.isMaster) || s.stbSrc == 1

/-- The tick of the next MISS, if one is due by tick t. -/
def State.missDue (s : State) (t : Nat) : Option W64 :=
  match s.stb.r with
  | some r => if s.judges && s.stb.cad != 3 && decide (t > r.toNat + s.winMax) then some r else none
  | none => none

/-- Every MISS due before tick t. -/
def State.missAll (s : State) (t : Nat) : Nat → State
  | 0 => s
  | n + 1 => match s.missDue t with | some r => State.missAll (s.missOne r) t n | none => s

/-- CADENCE_MISS (R335): no pulse was accepted by R + MAX. -/
def execCadenceMiss (s : State) : Out :=
  match s.missDue s.stb.tick.toNat with
  | some r => .next (s.missOne r).tellCadence
  | none => .next s

/-- A step advance at tick t is judged (R334): the state, and whether it is accepted. Rejected pulses do not break a run of accepted
ones (DEDUCED, log 27). -/
def State.judge (s : State) (t : Nat) : State × Bool :=
  let b := s.stb
  let take (iv : List Nat) (cad : Nat) : State × Bool :=
    let run := b.run + 1
    let locks := run ≥ 2 ∧ b.cad ≠ 0
    let s1 : State := { s with stb := { b with
      r := some (BitVec.ofNat 64 t), ivals := iv.drop (iv.length - 8), run := run, miss := 0, cad := if locks then 0 else cad,
      lost := if locks then false else b.lost } }
    (if locks ∧ b.lost = true then s1.logStb Status.ok else s1, true)
  match b.r, b.cad with
  | none, _ => take b.ivals b.cad
  | some _, 3 => take b.ivals 1
  | some r, _ =>
    if t < r.toNat + s.winMin then (s.stbCount 1, false)
    else take (b.ivals ++ [t - r.toNat]) b.cad

/-- CADENCE_PULSE (R333, R334): a pulse `width` ns wide; one of 10 to 20 ns is taken where `take`. Pulses of other modules than the
master's, and under other sources, start no step. -/
def execCadencePulse (width : Nat) (take : Bool) (s : State) : Out :=
  if width < 10 ∨ (width < 20 ∧ take = false) then .next (s.stbCount 0)
  else if s.stbSrc ≠ 0 ∨ s.isMaster = false then .next s
  else
    let t := s.stb.tick.toNat
    let s1 := s.missAll t 64
    let (s2, ok) := s1.judge t
    .next ((if ok then s2.newStep t t else s2).tellCadence)

/-! ## TIME (R336) -/

/-- TIME (R336): kept until its AT_TICK, or ignored under another source. -/
def execTime (k : Packet) (s : State) : Out :=
  .next (s.pxu k 0xA (fun s =>
    if s.stbSrc ≠ 1 then s.stbCount 3
    else
      let a : W64 := BitVec.ofNat 64 (leAt (Packet.data k) 0 8)
      let p : TimePkt := { due := if a.toNat < s.stb.tick.toNat then s.stb.tick else a, at_ := a, step := Packet.qw k, phase := k.dw1 }
      { s with stb := { s.stb with times := s.stb.times ++ [p] } }))

/-- A TIME packet applied now, after the flywheel steps that fell due before its AT_TICK. -/
def State.applyTime (s : State) (p : TimePkt) : State :=
  if s.stbSrc ≠ 1 then s.stbCount 3
  else
    let s0 := s.missAll p.at_.toNat 64
    let ph := s0.phaseFrom p.phase p.at_
    if p.step.toNat < s0.stb.step.toNat ∨ (p.step = s0.stb.step ∧ ph < s0.phase.toNat) then s0.stbCount 3
    else if p.step = s0.stb.step then (if ph = s0.phase.toNat then s0 else s0.setStep p.step p.phase p.at_)
    else
      let (s1, ok) := s0.judge p.at_.toNat
      if ok then s1.setStep p.step p.phase p.at_ else s1

/-- TIME_APPLY (R336): of the packets whose tick has come, the earliest; those due together in arrival order. -/
def execTimeApply (s : State) : Out :=
  let l := s.stb.times.filter (fun p => decide (p.due.toNat ≤ s.stb.tick.toNat))
  let best := l.foldl (fun (m : Option TimePkt) p => match m with
    | none => some p
    | some q => if p.due.toNat < q.due.toNat then some p else some q) none
  match best with
  | none => .next s
  | some p =>
    let s1 : State := { s with stb := { s.stb with times := s.stb.times.erase p } }
    .next (s1.applyTime p)

/-! ## Master and alignment (R338, R339) -/

/-- TICK set, with PHASE counting on (R338). -/
def State.setTick (s : State) (t : W64) : State :=
  { s with stb := { s.stb with phaseAt := s.stb.phaseAt + (t - s.stb.tick), tick := t } }

/-- Where the election has named another master than before, ask it for its TICK, step base and settings: the question and the
answer are the round trip that gives the delay (R338). -/
def State.askTick (s : State) (old : BitVec 12) : State :=
  if s.master = old ∨ s.isMaster = true then s else s.sendMsg s.master (.tickAsk s.stb.tick)

/-- An identity of the set becomes known: kept, and passed on when it is news. -/
def State.learn (s : State) (src id : BitVec 12) : State :=
  if id = s.ownIdent ∨ s.stb.known.contains id ∨ s.isFailed id then s
  else
    let s1 := ({ s with stb := { s.stb with known := s.stb.known ++ [id] } } : State).flood (.identity id) (some src)
    let s2 : State := { s1 with
      flt := { s1.flt with masterAt := s.now }, stb := { s1.stb with aligned := s1.stb.aligned && s1.master == s.master },
      dom := { s1.dom with electAt := if s1.dom.decided then s1.dom.electAt else s1.now } }
    s2.askTick s.master

/-- ALIGNED set or cleared; a module that comes back to the base skips the ticks its groups have missed. -/
def State.alignTo (s : State) (ok : Bool) : State :=
  let s1 := if ok && !s.onBase then s.lockSkip else s
  { s1 with stb := { s1.stb with aligned := ok } }

/-- A module takes the master's TICK and, unless its own is ahead, the master's step base (R330, R338). -/
def State.joinBase (s : State) (tick step : W64) (phase : W32) (ok : Bool) : State :=
  (((s.setTick tick).setStep step phase tick)).alignTo ok

/-- MASTER_ELECTION (R338): a flooded identity arrives; where another module is master, TICK is set to its tick, the delay of the way
included, and the step base to its. -/
def execMasterElection (id : BitVec 12) (tick step : W64) (phase : W32) (s : State) : Out :=
  let s1 := s.learn id id
  if s1.isMaster then .next s1 else .next (s1.joinBase tick step phase true)

/-- A round trip's question at a module: the master answers with its TICK, step base and settings; another module answers the master's
with its settings and TICK (R338). -/
def State.tickAnswer (s : State) (src : BitVec 12) (t : W64) : State :=
  if s.isMaster then s.sendMsg src (.tick s.stb.tick s.stb.step s.phase (s.reg 0x20000) (s.reg 0x20008) t)
  else if src = s.master then s.sendMsg src (.stbCheck (s.reg 0x20000) (s.reg 0x20008) s.stb.tick t)
  else s

/-- The master's answer, half a round trip after it left: ALIGNED where the settings are the master's (R338). -/
def State.takeTick (s : State) (src : BitVec 12) (t step : W64) (phase : W32) (cfg win asked : W64) : State :=
  if src = s.master then
    s.joinBase (t + BitVec.ofNat 64 ((s.stb.tick - asked).toNat / 2)) step phase (cfg == s.reg 0x20000 && win == s.reg 0x20008)
  else s

/-- The master's finding about its own or another module's alignment reaches this module: a fault clears ALIGNED and is a
step-base fault (R338; 14 Table 14.1). The module then asks for the TICK again. -/
def State.setAligned (s : State) (ok : Bool) : State :=
  let s1 := s.alignTo ok
  if ok then s1
  else if s.stb.aligned = false then s1
  else (s1.logStb Status.ok).sendMsg s.master (.tickAsk s.stb.tick)

/-- The master checks module src: its offset and its settings. -/
def State.alignCheck (s : State) (src : BitVec 12) (off : Bool) (cfg win : W64) : State :=
  let ok := !off && cfg == s.reg 0x20000 && win == s.reg 0x20008
  let l := s.stb.alignedSet.filter (fun d => d != src)
  let s1 := ({ s with stb := { s.stb with alignedSet := if ok then l ++ [src] else l } } : State).sendMsg src (.aligned ok)
  if ok then s1 else s1.log Cls.stepBase 0 Status.ok (Unit.iod 0x49) src 0

/-- Ticks between two readings of TICK. -/
def tickGap (a b : W64) : Nat := if a.toNat < b.toNat then b.toNat - a.toNat else a.toNat - b.toNat

/-- A module's answer at the master: 50 ns, 5 ticks, is the limit of its offset at half the round trip (R338). -/
def State.checkAnswer (s : State) (src : BitVec 12) (cfg win t asked : W64) : State :=
  if s.isMaster then
    s.alignCheck src (decide (tickGap t (asked + BitVec.ofNat 64 ((s.stb.tick - asked).toNat / 2)) > 5)) cfg win
  else s

/-- Every 10 ms of TICK the master asks every module of the set (R338). -/
def State.askAll (s : State) : State :=
  if s.isMaster && s.host.ident.isSome && s.stb.tick.toNat % 1000000 == 0 then s.sendAll s.stb.known (.tickAsk s.stb.tick) else s

/-- ALIGNMENT_CHECK (R338). -/
def execAlignmentCheck (src : BitVec 12) (off : Bool) (cfg win : W64) (s : State) : Out :=
  if s.isMaster && src != s.ownIdent then .next (s.alignCheck src off cfg win) else .next s

/-- A module leaves the timing set: the lowest of the others is master (R339). -/
def State.forget (s : State) (id : BitVec 12) : State :=
  let s1 : State := { s with
    stb := { s.stb with known := s.stb.known.filter (fun d => d != id), alignedSet := s.stb.alignedSet.filter (fun d => d != id) },
    flt := { s.flt with masterAt := s.now }, dom := { s.dom with electAt := if s.master = id then s.now else s.dom.electAt } }
  (if s1.onBase && !s.onBase then s1.lockSkip else s1).askTick s.master

/-- MASTER_SILENCE (R339): 2 ms without anything from the master. -/
def execMasterSilence (s : State) : Out :=
  if s.isMaster = false ∧ s.now - s.flt.masterAt ≥ 2 * msec then
    let s1 := s.forget s.master
    .next { s1 with flt := { s1.flt with silent := some (s.flt.silent.getD (s.master, s.flt.masterAt)) } }
  else .next s

/-- The master's cadence state reaches a module (R335, R339): kept, with an EVENT where the cadence is lost or found. The mean it
goes on from is E (DEDUCED, log 27). -/
def State.takeCadence (s : State) (r e : W64) (cad miss : Nat) : State :=
  let old := s.stb.cad
  let s1 : State := { s with stb := { s.stb with
    r := if r = 0 then none else some r, ivals := [e.toNat], cad := cad % 4, miss := miss,
    lost := decide (cad % 4 = 2 ∨ cad % 4 = 3) || (s.stb.lost && cad % 4 != 0) } }
  if cad % 4 ≠ old ∧ (cad % 4 = 2 ∨ cad % 4 = 3) then s1.logStb Status.cadenceLost
  else if cad % 4 = 0 ∧ s.stb.lost = true then s1.logStb Status.ok
  else s1

/-! ## Step-event entries (R340, R341, R343) -/

/-- ARG within Table 13.11 for an action. -/
def argOk (action arg : Nat) : Bool :=
  match action with
  | 0 => arg == 0
  | 1 => decide (arg < 16384)
  | 2 => decide (arg < 64)
  | 3 => true
  | 4 => arg == 0
  | 5 => decide (arg < 64)
  | _ => true

/-- Word 1 written: both words are taken, or the write is rejected (R340). -/
def State.writeEvt (s : State) (i : Nat) (w0 w1 : W64) : Option State :=
  if (bit w1 35 ∧ fld w1 32 3 > 5) ∨ argOk (fld w1 32 3) (fld w1 48 16) = false then none
  else some (s.setEvt i { s.evt i with w0 := w0, w1 := w1 })

def isEvt (w : Nat) (o : Nat) : Bool := decide (0x21000 ≤ o) && decide (o < 0x22000) && o % 16 == w

/-- STB_EVT_WORD0_WRITE (R340). -/
def execStbEvtWord0Write (k : Packet) (s : State) : Out :=
  .next (s.regWr k (isEvt 0) (fun s o v =>
    let i := (o - 0x21000) / 16
    some (s.setEvt i { s.evt i with staged := v })))

/-- The step base has reached an entry's target (R341). -/
def State.evtDue (s : State) (e : StepEvt) : Bool :=
  e.armed && (decide (e.w0.toNat < s.stb.step.toNat) || (e.w0 == s.stb.step && decide (e.phase ≤ s.phase.toNat)))

/-- The entry after it has fired: disarmed, or armed at the least target not yet passed, the present STEP and PHASE being none that
has been passed (R341). -/
def State.rearm (s : State) (e : StepEvt) : StepEvt :=
  if e.rpt = 0 then { e with w1 := setFld e.w1 35 1 0 }
  else
    let d := s.stb.step.toNat - e.w0.toNat
    let k := max 1 (d / e.rpt)
    let hit (k : Nat) : Bool :=
      decide (e.w0.toNat + k * e.rpt > s.stb.step.toNat) ||
      (e.w0.toNat + k * e.rpt == s.stb.step.toNat && decide (e.phase ≥ s.phase.toNat))
    let k' := if hit k then k else k + 1
    { e with w0 := e.w0 + BitVec.ofNat 64 (k' * e.rpt) }

/-- STEP_EVENT_SET operands (R343). -/
def evtSetOk (c : Cmd) : Bool := decide (Cmd.opnd c 104 3 ≤ 5) && argOk (Cmd.opnd c 104 3) (Cmd.opnd c 108 16)

/-- Word 1 of the entry that a STEP_EVENT_SET writes (R343). -/
def eventWord (c : Cmd) : W64 :=
  let act := Cmd.opnd c 104 3
  at64 0 32 (Cmd.opnd c 64 32) ||| at64 32 3 act ||| at64 35 1 (b2n (decide (act ≠ 0))) |||
    at64 36 12 (if Cmd.full c then Cmd.opnd c 124 12 else 0) ||| at64 48 16 (Cmd.opnd c 108 16)

/-! ## SYNC_SIGNAL and SYNC_WAIT (R348, R349) -/

/-- SYNC_SIGNAL (R347, R348): a local signal is applied, a remote one leaves and its acknowledgement ends the command; it waits
for a home controller that is stopped (01 R16). -/
def execSyncSignal (q : BitVec 6) (seq : W32) (s : State) : Out :=
  match s.findCmd q.toNat seq with
  | none => .next s
  | some c =>
    if c.phase ≠ .running ∨ Cmd.opcode c ≠ 0x0C ∨
       s.sync.remote.any (fun g => g.owner == .cmd q.toNat seq) = true then .next s
    else
      let obj := Cmd.opnd c 0 14
      let v : W32 := BitVec.ofNat 32 (Cmd.opnd c 32 32)
      let peer : BitVec 12 := BitVec.ofNat 12 (Cmd.opnd c 64 12)
      if Cmd.full c ∧ Cmd.opnd c 76 1 = 1 ∧ s.host.ident ≠ some peer then
        .next (s.peerSig (.cmd q.toNat seq) peer obj v)
      else if s.homeStopped obj then .next s
      else .next ((s.homeAdd obj v).endCmd q.toNat seq Status.ok [])

def State.swMet (s : State) (c : Cmd) : Bool := s.objReached (Cmd.opnd c 0 14) (BitVec.ofNat 32 (Cmd.opnd c 32 32))
/-- The timeout of a SYNC_WAIT in reference periods; the default was fixed at acceptance (02 R44). -/
def swTo (c : Cmd) : Nat :=
  let t := if Cmd.full c then Cmd.opnd c 64 16 else 0
  (if t = 0 then c.pos else t) * msec

/-- SYNC_WAIT (R349): the condition is met. -/
def execSyncWait (q : BitVec 6) (seq : W32) (s : State) : Out :=
  match s.findCmd q.toNat seq with
  | none => .next s
  | some c =>
    if c.phase ≠ .running ∨ Cmd.opcode c ≠ 0x0D ∨ s.swMet c = false then .next s
    else .next (s.endCmd q.toNat seq Status.ok [])

/-- SYNC_WAIT_COMMAND_TIMEOUT (R349): TO has passed and the condition is not met. -/
def execSyncWaitCommandTimeout (q : BitVec 6) (seq : W32) (s : State) : Out :=
  match s.findCmd q.toNat seq with
  | none => .next s
  | some c =>
    if c.phase = .running ∧ Cmd.opcode c = 0x0D ∧ s.swMet c = false ∧ s.now - c.runAt ≥ swTo c then
      .next (s.endCmd q.toNat seq Status.depTimeout [])
    else .next s

end Sys2Proof.Machine
end

