-- ==== Sys2Proof/Machine/Resil.lean ====
section
/-! DEFINITION. Failure handling: check units and arbitration, in-field tests, SELFTEST, clock and temperature faults, image
checks, heartbeats and declarations, the fault registers (14 R351 to R382). -/
namespace Sys2Proof.Machine

/-! ## Registers (R377, Tables 14.5 and 14.6) -/

/-- A write to CHK_CFG (R356). -/
def State.writeChkCfg (s : State) (w : W64) : Option State :=
  if s.busy ∨ fld w 0 2 = 3 then none else some (s.setReg Reg.chkCfg (at64 0 5 (fld w 0 5)))

/-- CHK_CFG_WRITE (R356). -/
def execChkCfgWrite (k : Packet) (s : State) : Out :=
  .next (s.regWr k (fun o => o == Reg.chkCfg) (fun s _ v => s.writeChkCfg v))

/-- Writes to TST_CFG and SCRUB_CFG. -/
def State.writeTstCfg (s : State) (w : W64) : Option State :=
  let v := fld w 0 4
  if v < 1 ∨ 11 < v then none else some (s.setReg 0x40010 (at64 0 4 v))
def State.writeScrubCfg (s : State) (w : W64) : Option State :=
  let v := fld w 0 5
  if v < 1 ∨ 24 < v then none else some (s.setReg 0x40018 (at64 0 5 v))

/-- Position p of the cluster has been retired. -/
def Cluster.gone (x : Cluster) (p : Nat) : Bool := x.role p == .retired
/-- The cluster has a position of its own in a role, a position under test counting as the spare it becomes (R364). -/
def Cluster.hasSpare (x : Cluster) : Bool := x.roles.contains .spare || x.roles.contains .testing
def Cluster.hasMordant (x : Cluster) : Bool := x.roles.contains .mordant

/-- CHK_STAT. -/
def State.chkStat (s : State) : W64 :=
  at64 0 2 (if s.plausMode then 2 else 1) |||
  (List.range 16).foldl (fun w c => w ||| at64 (2 + c) 1 (b2n (!(s.cluster c).hasMordant))) 0

/-- FLT_HEALTH. -/
def State.health (s : State) : W64 :=
  let cl := (List.range 16).map s.cluster
  let st := if s.flt.fenced then 2 else if cl.any (fun x => decide (x.retired > 0)) then 1 else 0
  at64 0 2 st ||| at64 2 5 (cl.filter Cluster.hasSpare).length ||| at64 7 5 (cl.filter Cluster.hasMordant).length

/-- The fields of MRG_CL[c], which the margin record keeps too (R367, 15 R400). -/
def Cluster.margin (x : Cluster) : W64 :=
  at64 0 3 x.fsteps ||| at64 3 2 x.vsteps |||
  (List.range 18).foldl (fun w p => w ||| at64 (5 + p) 1 (b2n (x.gone p)) ||| at64 (23 + 2 * p) 2 (x.levels.getD p 0)) 0

/-- Word j of log entry i (Table 14.8). -/
def LogEntry.word (e : LogEntry) : Nat → W64
  | 0 => at64 0 32 e.seq.toNat ||| at64 32 8 e.cls ||| at64 40 4 e.action ||| at64 48 16 e.status.toNat
  | 1 => e.tick
  | 2 => at64 0 32 e.step.toNat ||| at64 32 16 e.unit.toNat ||| at64 48 12 e.ident.toNat
  | _ => e.detail

def State.logWord (s : State) (i j : Nat) : W64 :=
  match s.flt.log.find? (fun e => e.seq.toNat % 1024 == i) with
  | some e => e.word j
  | none => 0

/-- A fault register that is read only. -/
def State.fltRead (s : State) (off : Nat) : Option W64 :=
  if off = 0x40008 then some s.chkStat
  else if off = 0x40020 then some (s.flt.next.setWidth 64)
  else if off = 0x40028 then some s.health
  else if 0x40100 ≤ off ∧ off < 0x40100 + 8 * 28 ∧ off % 8 = 0 then some (Tab.get 0 s.flt.cnt ((off - 0x40100) / 8))
  else if 0x40800 ≤ off ∧ off < 0x40880 ∧ off % 8 = 0 then some (s.cluster ((off - 0x40800) / 8)).margin
  else if 0x41000 ≤ off ∧ off < 0x42000 ∧ off % 16 = 8 then some (Tab.get 0 s.flt.tcnt ((off - 0x41000) / 16))
  else if 0x48000 ≤ off ∧ off < 0x50000 ∧ off % 8 = 0 then some (s.logWord ((off - 0x48000) / 32) (off % 32 / 8))
  else none

def isTensor (o : Nat) : Bool := decide (0x41000 ≤ o) && decide (o < 0x42000) && o % 16 == 0

/-- ENVMAX is −0 or not below zero, and finite. -/
def envOk (v : Nat) : Bool :=
  match Fmt.bf16.decode v with
  | .fin neg m _ => !neg || m == 0
  | _ => false

/-- A write to FLT_TENSOR[j] (R377). -/
def State.writeTensor (s : State) (j : Nat) (w : W64) : Option State :=
  let v := w &&& 0x1FFFFFFFFFF#64
  let old := s.reg (0x41000 + 16 * j)
  let clash := bit v 24 && (List.range 256).any (fun i =>
    i != j && bit (s.reg (0x41000 + 16 * i)) 24 && fld (s.reg (0x41000 + 16 * i)) 0 24 == fld v 0 24)
  if !envOk (fld v 25 16) || clash then none
  else
    let s1 := s.setReg (0x41000 + 16 * j) v
    some (if fld v 0 25 = fld old 0 25 then s1 else { s1 with flt := { s1.flt with tcnt := Tab.put 0 s1.flt.tcnt j 0 } })

/-- FLT_TENSOR_WRITE (R377). -/
def execFltTensorWrite (k : Packet) (s : State) : Out :=
  .next (s.regWr k isTensor (fun s o v => s.writeTensor ((o - 0x41000) / 16) v))

/-! ## MRG_CLR (R367) -/

/-- Every level to 0, nominal clocks and voltages. -/
def State.clearLevels (s : State) : State :=
  (List.range 16).foldl
    (fun s c =>
      let x := s.cluster c
      let s1 := (s.setCluster c { x with levels := List.replicate 18 0, fsteps := 0, vsteps := 0 }).applyTrim c
      if x.fsteps > 0 then s1.relock c else s1) s

/-- Retired positions go back to service, to be tested before they take a role. -/
def State.returnRetired (s : State) : State :=
  (List.range 16).foldl
    (fun s c => s.updCluster c (fun x => { x with roles := x.roles.map (fun r => if r = .retired then .returned else r) })) s

/-- A write to MRG_CLR. -/
def State.writeMrgClr (s : State) (w : W64) : Option State :=
  if fld w 2 62 ≠ 0 ∨ s.busy ∨ s.trnOn then none
  else if fld w 0 2 = 0 then some s
  else
    let s1 := if bit w 0 then s.clearLevels else s
    let s2 := if bit w 1 then s1.returnRetired else s1
    some { s2 with flt := { s2.flt with marginDue := true } }

/-- MRG_CLR_LEVELS (R367): a write with LEVELS set, whatever RETIRED says. -/
def execMrgClrLevels (k : Packet) (s : State) : Out :=
  if bit (Packet.qw k) 0 then .next (s.regWr k (fun o => o == 0x40030) (fun s _ v => s.writeMrgClr v)) else .next s

/-- MRG_CLR_RETIRED (R367): a write with RETIRED set and LEVELS clear. -/
def execMrgClrRetired (k : Packet) (s : State) : Out :=
  if bit (Packet.qw k) 1 && !bit (Packet.qw k) 0 then
    .next (s.regWr k (fun o => o == 0x40030) (fun s _ v => s.writeMrgClr v))
  else .next s

/-! ## Duplicate checking (R357 to R359) -/

/-- CHECK_SLOT_END (R357): 250 µs where two checkers share the tiles, 125 µs otherwise. -/
def execCheckSlotEnd (c : BitVec 4) (s : State) : Out :=
  let n := c.toNat
  let x := s.cluster n
  let two := s.twoCheckers n
  if s.plaus n ∨ s.now - x.slotAt < (if two then 250 else 125) * usec then .next s
  else .next (s.setCluster n { x with
    visit := if two then (x.visit % 8 + 1) % 8 else (x.visit + 1) % 16, slotAt := s.now, units := 0, halves := [] })

/-- The unit that can run a third execution for cluster c now: its spare tile, or else a working tile without a context (R359). -/
def State.pickThird (s : State) (c : Nat) : Third :=
  if (s.cluster c).roles.contains .spare && s.flt.arbs.all (fun a => a.tile / 16 != c || a.third != .spare) then .spare
  else match (List.range 256).find? s.tileIdle with | some t => .tile t | none => .waits

/-- The third execution of a disagreement can have run: its unit is free of contexts, or one is free by now. -/
def State.thirdReady (s : State) (a : Arb) : Bool :=
  match a.third with
  | .waits => s.pickThird (a.tile / 16) != .waits
  | .spare => true
  | .tile t => s.tl.moves.all (fun m => m.tile != t)

/-- The unit of a third execution is given back: a context saved for it returns. -/
def State.thirdDone (s : State) (a : Arb) : State :=
  match a.third with
  | .tile t => if s.tl.saved.any (fun v => v.tile == t) then s.addMove { tile := t, kind := .restore } else s
  | _ => s

/-- CHECK_UNIT_COMPLETE (R357 to R359): the checker finishes the oldest unit of a tile that it checks, in the tile's slot or after
its end; signatures that differ go to arbitration. -/
def execCheckUnitComplete (t : BitVec 8) (sigTile sigChecker : W64) (s : State) : Out :=
  let c := t.toNat / 16
  match (s.cluster c).checks.find? (fun k => k.tile == t.toNat) with
  | none => .next s
  | some k =>
    let s1 := (s.updCluster c (fun x => { x with checks := x.checks.erase k })).count Cnt.checkUnits 1
    if sigTile = sigChecker then .next s1
    else
      let s2 := s1.count Cnt.checkDisagree 1
      let a : Arb := { tile := k.tile, pos := k.pos, checkerPos := k.checkerPos, sigTile := sigTile, sigChecker := sigChecker,
                       q := k.q, seq := k.seq, third := s2.pickThird c }
      .next { s2 with flt := { s2.flt with arbs := s2.flt.arbs ++ [a] } }

/-- A unit without a majority: STEP work abandons its step, the other classes are told (R359). -/
def State.unresolved (s : State) (c : Nat) (a : Arb) (detail : W64) : State :=
  let s1 := s.count Cnt.checkUnres 1
  let (s2, j) := s1.marginStep c a.pos
  let (s3, k) := s2.marginStep c a.checkerPos
  let m := max j.reaction k.reaction
  let unit := Unit.tile c a.pos
  let us := s3.flt.uses.filter (fun u => u.q == a.q && u.seq == a.seq && u.cluster == c && u.pos == a.pos)
  if s3.qClass a.q = 1 then
    ({ s3 with trn := { s3.trn with winCheck := true } } : State).log Cls.tileCheck m Status.ok unit (s3.host.ident.getD 0) detail
  else
    let s4 := (useCmds us).foldl (fun s u => s.recallOne Cls.tileCheck unit Status.checkUnresolved u) s3
    s4.log Cls.tileCheck (if us.isEmpty then m else 6) (if us.isEmpty then Status.ok else Status.checkUnresolved) unit
      (s4.host.ident.getD 0) detail

/-- THIRD_EXECUTION_COMPLETE (R359): three signatures decide. The detail the log carries is a free value (log 3). -/
def execThirdExecutionComplete (t : BitVec 8) (sig : W64) (s : State) : Out :=
  match s.flt.arbs.find? (fun a => a.tile == t.toNat) with
  | none => .next s
  | some a =>
    if s.thirdReady a = false then .next s
    else
    let c := a.tile / 16
    let (d, s0) := s.draw
    let s1 := ({ s0 with flt := { s0.flt with arbs := s0.flt.arbs.erase a } } : State).thirdDone a
    if sig = a.sigChecker then .next (s1.detectTile Cls.tileCheck c a.pos (2 * msec) Status.resultRecall true d)
    else if sig = a.sigTile then
      let (s2, k) := (s1.count Cnt.checkerWrong 1).marginStep c a.checkerPos
      .next (s2.log Cls.tileCheck k.reaction Status.ok (Unit.tile c a.checkerPos) (s2.host.ident.getD 0) d)
    else .next (s1.unresolved c a d)

/-! ## In-field tests (R362 to R364) -/

/-- Positions that can be tested, in rotation order from the one after the last (R362). -/
def Cluster.rotation (x : Cluster) : List Nat :=
  ((List.range 18).map (fun i => (x.lastPos + 1 + i) % 18)).filter (fun p => !x.gone p && x.role p != .reserved)

/-- Open a window on position p: a spare or returned position is tested in place (R363). -/
def State.openAt (s : State) (c p : Nat) (cmd : Option (Nat × W32)) (extra : Bool) : State :=
  let x := s.cluster c
  let inPlace := x.role p == .spare || x.role p == .returned
  let y := if inPlace then x.setRole p .testing else x
  s.setCluster c { y with win := some { pos := p, openedAt := s.now, cmd := cmd, cleared := inPlace, extra := extra }, lastWin := s.now }

/-- A TEST event or an envelope flag asks for a window (R361, R362). -/
def State.askWindow (s : State) (c : Nat) (p : Option Nat) : State :=
  let x := s.cluster c
  if x.win.isSome then s.count Cnt.testsSkipped 1
  else
    match (match p with | some p => some p | none => x.rotation.head?) with
    | some q => s.openAt c q none p.isSome
    | none => s

/-- TEST_WINDOW_OPEN (R362): MAX_MS without a window. A TEST event opens one at STEP_EVENT_FIRE. -/
def execTestWindowOpen (c : BitVec 4) (s : State) : Out :=
  let n := c.toNat
  let x := s.cluster n
  if x.win.isNone && decide (s.now - x.lastWin ≥ fld (s.reg 0x40010) 0 4 * msec) then .next (s.askWindow n none) else .next s

/-- Change a SELFTEST job. -/
def State.updSelf (s : State) (q : Nat) (seq : W32) (f : SelfTest → SelfTest) : State :=
  { s with flt := { s.flt with selftests := s.flt.selftests.map (fun j => if j.q == q && j.seq == seq then f j else j) } }

/-- Result data of a SELFTEST (Table 14.4). -/
def SelfTest.data (j : SelfTest) : List Byte :=
  toBytesLE 2 j.tested ++ toBytesLE 2 j.failed ++ toBytesLE 2 j.retired ++ toBytesLE 2 j.imgfail ++ toBytesLE 2 j.addfail ++
  List.replicate 22 0

/-- SELFTEST jobs without work left end. -/
def State.endSelf (s : State) : State :=
  let busy (j : SelfTest) : Bool :=
    j.todo.any (fun e => !e.2.isEmpty) ||
    (List.range 16).any (fun c => match (s.cluster c).win with | some w => w.cmd == some (j.q, j.seq) | none => false)
  let fin := s.flt.selftests.filter (fun j => !busy j)
  let s1 : State := { s with flt := { s.flt with selftests := s.flt.selftests.filter busy } }
  fin.foldl
    (fun s j =>
      if s.isRunning j.q j.seq then
        s.endCmd j.q j.seq (if j.failed + j.imgfail + j.addfail = 0 then Status.ok else Status.selftestFail) j.data
      else s) s1

/-- The next window a SELFTEST job wants in cluster c. -/
def State.nextSelf (s : State) (c : Nat) : State :=
  if (s.cluster c).win.isSome then s
  else
    match s.flt.selftests.find? (fun j => j.todo.any (fun e => e.1 == c && !e.2.isEmpty)) with
    | none => s
    | some j =>
      let ps := (j.todo.filter (fun e => e.1 == c)).flatMap (fun e => e.2)
      let live := ps.filter (fun p => !(s.cluster c).gone p && (s.cluster c).role p != .reserved)
      let s1 := s.updSelf j.q j.seq (fun j => { j with todo := j.todo.map (fun e => if e.1 = c then (c, live.drop 1) else e) })
      match live with
      | p :: _ => s1.openAt c p (some (j.q, j.seq)) false
      | [] => s1

/-- The window of cluster c closes; one outside the rotation leaves it where it was (R361). -/
def State.closeWindow (s : State) (c : Nat) : State :=
  ((s.updCluster c (fun x => { x with win := none, lastPos := match x.win with | some w => if w.extra then x.lastPos else w.pos | none => x.lastPos })).nextSelf c).endSelf

/-- The position that takes the role of one under test: the spare, or in plausibility mode the hot spare at the Mordant
position (R356, R363). -/
def State.testCover (s : State) (c p : Nat) : Option Nat :=
  let x := s.cluster c
  if x.posOf .spare < 18 then some (x.posOf .spare)
  else if s.plausMode && decide (x.posOf .mordant < 18) && x.posOf .mordant != p then some (x.posOf .mordant)
  else none

/-- Take a checker away from its units for good where it was the Mordant that was taken. -/
def Cluster.take (x : Cluster) (k : Nat) (r : Role) : Cluster :=
  { x.setRole k r with noMordant := x.noMordant || (x.role k == .mordant && r != .mordant) }

/-- The role under test moves to the spare position: a working tile with a context at a yield point,
an idle one or the Mordant at once. With no position to take the role the window closes (log 34). -/
def State.clearPosition (s : State) (n : Nat) : State :=
  let x := s.cluster n
  match x.win with
  | none => s
  | some w =>
    if w.cleared || x.role w.pos == .testing then s
    else
      match s.testCover n w.pos with
      | none => ((s.count Cnt.testsSkipped 1).closeWindow n)
      | some k =>
        let clear (y : Cluster) : State := s.setCluster n { y with win := some { w with cleared := true } }
        match x.role w.pos with
        | .work i =>
          let t := 16 * n + i
          if s.tl.moves.any (fun m => m.tile == t) then s
          else if (s.tile t).hasContext then
            if (s.tile t).atYield && !s.tileHeld t then
              ((s.setCluster n (x.take k .reserved)).addMove { tile := t, kind := .toPos k .testing })
            else s
          else (clear ((x.take k (.work i)).setRole w.pos .testing))
        | .mordant =>
          if s.flt.arbs.any (fun a => a.tile / 16 == n && a.checkerPos == w.pos) || x.checks.any (fun k => k.checkerPos == w.pos) then s
          else (clear ((x.setRole k .mordant).setRole w.pos .testing))
        | _ => ((s.count Cnt.testsSkipped 1).closeWindow n)

/-- TEST_POSITION_CLEAR (R363). -/
def execTestPositionClear (c : BitVec 4) (s : State) : Out := .next (s.clearPosition c.toNat)

/-- The outcome of a structural test (R364). A returned position that passes takes the Mordant role where the cluster has lost it and
holds a spare already (log 34). -/
def State.testOutcome (s : State) (n : Nat) (pass : Bool) : State :=
  let x := s.cluster n
  match x.win with
  | none => s
  | some w =>
    if x.role w.pos ≠ .testing then s
    else
      let told (f : SelfTest → SelfTest) (s : State) : State :=
        match w.cmd with | some (q, seq) => s.updSelf q seq f | none => s
      let s1 := s.count Cnt.testsRun 1
      if pass then
        let back := x.roles.contains .spare && !x.roles.contains .mordant
        let y := { x.setRole w.pos (if back then .mordant else .spare) with noMordant := x.noMordant && !back }
        ((told (fun j => { j with tested := j.tested + 1 }) (s1.setCluster n y)).closeWindow n)
      else
        let s2 := (s1.count Cnt.testsFailed 1).retire n w.pos
        let s3 := s2.detect Cls.tileTest (Unit.tile n w.pos) (fun u => u.cluster == n && u.pos == w.pos) (200 * msec)
          Status.resultRecall 3 0
        ((told (fun j => { j with tested := j.tested + 1, failed := j.failed + 1, retired := j.retired + 1 }) s3).closeWindow n)

/-- STRUCTURAL_TEST_COMPLETE (R364). -/
def execStructuralTestComplete (c : BitVec 4) (pass : Bool) (s : State) : Out := .next (s.testOutcome c.toNat pass)

/-! ## Loaded images (R372) -/

/-- The UNIT of a detection against an image part (log 35). -/
def State.imgUnit (s : State) : ImgPart → W16
  | .micro c => Unit.tile c.toNat 0
  | .ochre => Unit.iod 0x30
  | .store t _ => Unit.tile (t.toNat / 16) (s.tilePos t.toNat)
  | _ => Unit.iod 0xFF

/-- A part's CRC does not match: the commands that used it are suspect; the part is reloaded, a table-store entry emptied. -/
def State.imageBad (s : State) (p : ImgPart) : State :=
  let used : Use → Bool := match p with
    | .micro c => fun u => u.cluster == c.toNat
    | .phy => fun _ => false
    | .ochre => fun u => u.cluster == 16
    | .lake => fun u => u.tabs.contains 4
    | .store t i => fun u => u.cluster == t.toNat / 16 && u.pos == s.tilePos t.toNat && u.tabs.contains i.toNat
  let s1 := s.detect Cls.image (s.imgUnit p) used (1000 * msec) Status.resultRecall 1 0
  match p with
  | .store t i => s1.updTile t.toNat (fun x => { x with slots := Tab.put [] x.slots i.toNat [] })
  | _ => s1

/-- IMAGE_CRC_CHECK (R372). -/
def execImageCrcCheck (p : ImgPart) (good : Bool) (s : State) : Out := .next (if good then s else s.imageBad p)

/-- An instruction of tile t uses a table slot, 4 for the built-in tables. -/
def State.usedTab (s : State) (t slot : Nat) : State :=
  match (s.tile t).launch with
  | none => s
  | some (q, seq) =>
    { s with flt := { s.flt with uses := s.flt.uses.map (fun u =>
        if u.q == q && u.seq == seq && u.cluster == t / 16 && u.pos == s.tilePos t && u.upTo.isNone && !u.tabs.contains slot
        then { u with tabs := u.tabs ++ [slot] } else u) } }

/-! ## SELFTEST (R375, R376) -/

/-- What a SELFTEST runs: clusters to test, images, adders. -/
def selfWhat (c : Cmd) : Nat × Bool × Bool :=
  if Cmd.full c then
    (if Cmd.opnd c 16 1 = 1 then Cmd.opnd c 0 16 else 0, Cmd.opnd c 17 1 == 1, Cmd.opnd c 18 1 == 1)
  else (0xFFFF, true, true)

/-- A SELFTEST that submission accepts: a cluster and a kind at least (R376). -/
def selfOk (c : Cmd) : Bool := !Cmd.full c || (Cmd.opnd c 0 16 != 0 && Cmd.opnd c 16 3 != 0)

/-- An adder misses its residue pattern: a vault's is handled under 09 R235, a reduction unit's under 11 R292. -/
def State.adderBad (s : State) : AddUnit → State
  | .vault v =>
    let n := v.toNat
    let s1 := (s.count Cnt.residue 1).log Cls.adder 4 Status.ok (s.vaultUnit n) (s.host.ident.getD 0) 0
    let s2 := s1.setVault n { s1.vaultSt n with adderBad := true }
    if (s1.vaultSt n).adderBad then s2 else s2.remapVault n
  | .fabric u => (s.count Cnt.residue 1).log Cls.adder 1 Status.ok (Unit.iod (0x28 + u.toNat)) (s.host.ident.getD 0) 0

/-- SELFTEST (R375, R376): images and adders at once, then a window on every position of the clusters named. `imgs` and `adds` are
what the checks found. -/
def execSelftest (q : BitVec 6) (seq : W32) (imgs : List ImgPart) (adds : List AddUnit) (s : State) : Out :=
  match s.findCmd q.toNat seq with
  | none => .next s
  | some c =>
    if c.phase ≠ .running ∨ Cmd.opcode c ≠ 0x10 ∨ s.flt.selftests.any (fun j => j.q == q.toNat && j.seq == seq) = true then .next s
    else
      let (mask, im, ad) := selfWhat c
      let s1 := if im then imgs.foldl State.imageBad s else s
      let s2 := if ad then adds.foldl State.adderBad s1 else s1
      let cs := (List.range 16).filter (fun k => mask.testBit k)
      let j : SelfTest := { q := q.toNat, seq := seq, todo := cs.map (fun k => (k, (s2.cluster k).rotation)),
                            imgfail := if im then imgs.length else 0, addfail := if ad then adds.length else 0 }
      let s3 : State := { s2 with flt := { s2.flt with selftests := s2.flt.selftests ++ [j] } }
      .next ((cs.foldl State.nextSelf s3).endSelf)

/-! ## Clocks, voltage and temperature (R365, R371) -/

/-- The cluster whose units a power domain feeds, or the die, if any. -/
def domainUses (i : Nat) : Use → Bool :=
  if i < 56 then
    if i % 28 < 24 then fun u => u.cluster == 8 * (i / 28) + i % 28 / 3
    else fun u => decide (u.cluster < 16) && u.cluster / 8 == i / 28
  else fun _ => false

/-- CLOCK_FAULT (R371): the cluster's tiles stop while the PLL is relocked. -/
def execClockFault (c : BitVec 4) (s : State) : Out :=
  let n := c.toNat
  if (s.cluster n).clockFault.isSome ∨ (s.cluster n).lost then .next s
  else
    let s1 := s.updCluster n (fun x => { x with clockFault := some s.now })
    .next (s1.detect Cls.clock (Unit.domain (tlDomain n)) (fun u => u.cluster == n) (5 * usec) Status.resultRecall 1 0)

/-- PLL_RELOCK_COMPLETE (R365, R371): the paused tiles of the cluster go on. -/
def execPllRelockComplete (c : BitVec 4) (s : State) : Out :=
  .next (s.updCluster c.toNat (fun x => { x with relockAt := none, clockFault := none }))

/-- A unit is lost for good: a loss of capacity (R366, R371). -/
def State.capacityLost (s : State) (unit : W16) : State :=
  (s.log Cls.capacity 7 Status.ok unit (s.host.ident.getD 0) 0).declareSelf

/-- RELOCK_TIMEOUT (R371): no relock within 100 µs. -/
def execRelockTimeout (c : BitVec 4) (s : State) : Out :=
  match (s.cluster c.toNat).clockFault with
  | some t =>
    if s.now - t ≥ 100 * usec then
      .next ((s.updCluster c.toNat (fun x => { x with lost := true, clockFault := none })).capacityLost (Unit.domain (tlDomain c.toNat)))
    else .next s
  | none => .next s

/-- Domains whose failure is the loss of the module at once (R371): bridges, management core, IODCORE. -/
def domainVital (i : Nat) : Bool := i == 27 || i == 55 || i == 61 || i == 63

/-- VOLTAGE_FAULT (R371, 16 R420): a domain that is on leaves its limits; its units stop. -/
def execVoltageFault (i : BitVec 6) (s : State) : Out :=
  let n := i.toNat
  if s.domBad n ∨ Tab.get 2 s.pwr.pd n < 2 then .next s
  else
    let s1 : State := { s with
      flt := { s.flt with volt := Tab.put none s.flt.volt n (some s.now) },
      pwr := { s.pwr with pd := Tab.put 2 s.pwr.pd n 3, failed := some (s.pwr.failed.getD n) } }
    let s2 := s1.detect Cls.voltage (Unit.domain n) (domainUses n) (2 * usec) Status.resultRecall 1 0
    .next (if domainVital n then s2.declareSelf else s2)

/-- VOLTAGE_RESTORED (R371, 16 R420): back inside the limits within 1 ms; a trim step that waited is applied. -/
def execVoltageRestored (i : BitVec 6) (s : State) : Out :=
  match Tab.get none s.flt.volt i.toNat with
  | some t =>
    if s.now - t ≤ msec then
      let s1 : State := { s with flt := { s.flt with volt := Tab.put none s.flt.volt i.toNat none },
                                 pwr := { s.pwr with pd := Tab.put 2 s.pwr.pd i.toNat 2 } }
      .next ((List.range 16).foldl (fun s c => if tlDomain c = i.toNat then s.applyTrim c else s) s1)
    else .next s
  | none => .next s

/-- VOLTAGE_LOSS_TIMEOUT (R371): out of limits for more than 1 ms. -/
def execVoltageLossTimeout (i : BitVec 6) (s : State) : Out :=
  match Tab.get none s.flt.volt i.toNat with
  | some t => if s.now - t > msec ∧ s.flt.fenced = false then .next (s.capacityLost (Unit.domain i.toNat)) else .next s
  | none => .next s

/-- The domain named for a temperature sensor: a die's mesh, its DRAM, the IOD (log 35). -/
def hotDomain (k : Nat) : Nat := if k < 2 then 28 * k + 24 else if k < 4 then 28 * (k - 2) + 26 else 63
def hotUses (k : Nat) : Use → Bool := if k < 4 then fun u => decide (u.cluster < 16) && u.cluster / 8 == k % 2 else fun _ => false

/-- THERMAL_FAULT (R371): a die's arithmetic stops, or access to a stack's vaults. -/
def execThermalFault (k : BitVec 3) (s : State) : Out :=
  let n := k.toNat
  if n > 4 ∨ (Tab.get none s.flt.hot n).isSome then .next s
  else
    let s1 : State := { s with flt := { s.flt with hot := Tab.put none s.flt.hot n (some s.now) } }
    .next (s1.detect Cls.thermal (Unit.domain (hotDomain n)) (hotUses n) msec Status.resultRecall 1 0)

/-- THERMAL_LIMIT_CLEARED (R371). -/
def execThermalLimitCleared (k : BitVec 3) (s : State) : Out :=
  match Tab.get none s.flt.hot k.toNat with
  | some t =>
    if s.now - t ≤ 100 * msec then .next { s with flt := { s.flt with hot := Tab.put none s.flt.hot k.toNat none } } else .next s
  | none => .next s

/-- THERMAL_LOSS_TIMEOUT (R371): over the limit for more than 100 ms. -/
def execThermalLossTimeout (k : BitVec 3) (s : State) : Out :=
  match Tab.get none s.flt.hot k.toNat with
  | some t => if s.now - t > 100 * msec ∧ s.flt.fenced = false then .next (s.capacityLost (Unit.domain (hotDomain k.toNat))) else .next s
  | none => .next s

/-! ## Losing a module (R373, R374; 08 R213, 10 R260, R265, 11 R294, 13 R347) -/

/-- Signals held for a failed peer: to the spare, or discarded. -/
def State.moveSigs (s : State) (f : BitVec 12) (sp : Option (BitVec 12)) : State :=
  let held := s.sync.remote.filter (fun g => g.peer == f)
  let s1 : State := { s with sync := { s.sync with remote := s.sync.remote.filter (fun g => g.peer != f) } }
  held.foldl (fun s g => s.sigToHolder g.owner sp g.obj g.add) s1

/-- A member tells a new leader the last decision it received, and, undecided, what it had told the old one: READY, or ABANDON with
its cause (10 R260). -/
def State.tellLeader (s : State) (old : BitVec 12) : State :=
  if !s.trnOn || s.leader == old then s
  else
    let s1 := match s.trn.told with
      | some (ver, d, target) => if s.isLeader then s.toGroup s.cgrp (.decision ver d target) else s.sendMsg s.leader (.decision ver d target)
      | none => s
    if s.trn.decision.isSome || !s.trn.sent then s1
    else if s.trn.st = 3 then
      (if s.isLeader then s1.leaderReady (s.trnVer + 1) s.ownIdent else s1.sendMsg s.leader (.ready (s.trnVer + 1)))
    else ({ s1 with trn := { s1.trn with sent := false } } : State).sendAbandon (s.abandonCause.getD 5)

/-- A declaration takes effect on this module; a repeated one is applied once. -/
def State.declared (s : State) (f : BitVec 12) : State :=
  if s.isFailed f then s
  else
    let old := s.leader
    let s0 := s.giveUp f
    let s1 : State := { s0 with
      flt := { s0.flt with failed := s0.flt.failed ++ [f], silent := if s0.flt.silent.map (fun x => x.1) = some f then none else s0.flt.silent },
      fab := { s0.fab with links := if domainOf f = domainOf s.ownIdent then Tab.put 0 s0.fab.links (f.toNat % 64) 0 else s0.fab.links } }
    let s2 := (s1.forget f).log Cls.module 7 Status.ok (Unit.iod 0xFF) f 0
    if f = s.ownIdent then s2.fence
    else
      let s3 := (List.range 4).foldl
        (fun s r => if (List.range (s.wrSize r)).any (fun p => s.holderOf (s.wrRole r p) == f) then s.ringSuspend r else s) s2
      let needed := (s3.holders s3.cgrp).contains f && s3.trnOn
      let sp := if needed then s3.findSpare else none
      ((s3.moveSigs f sp).roleLost f false).tellLeader old

/-- Tell the master that a module has failed; the master floods the declaration (R373). -/
def State.declareFailed (s : State) (id : BitVec 12) : State :=
  if s.isMaster then (s.sendAll s.stb.known (.declared id)).declared id else s.sendMsg s.master (.declare id)

/-- MODULE_DECLARATION (R373): a declaration the master has flooded reaches this module, or the master itself. -/
def execModuleDeclaration (id : BitVec 12) (s : State) : Out := .next (s.declared id)

/-- The torus neighbours of this module: those behind a port that is up, and those heard before, which are reached over the routed
path when both ports toward them are down (08 R213; DEDUCED, log 60). -/
def State.torusNear (s : State) : List (BitVec 12) :=
  ((List.range 12).filterMap (fun p =>
    match torusFar s.shape s.modNumber p with
    | some (b, _) =>
      let id : BitVec 12 := BitVec.ofNat 12 (64 * domainOf s.ownIdent + b)
      if id != s.ownIdent && !s.isFailed id && (s.fabUp p || Tab.get 0 s.flt.heard id.toNat != 0) then some id else none
    | none => none)).eraseDups

/-- HEARTBEAT_SEND (R373). -/
def execHeartbeatSend (s : State) : Out :=
  if s.flt.fenced ∨ s.now - s.flt.hbAt < msec then .next s
  else
    let ns := s.torusNear
    let s1 : State := { s with flt := { s.flt with hbAt := s.now } }
    .next (ns.foldl (fun s d => s.sendMsg d .heartbeat) s1)

/-- HEARTBEAT_MISS (R373): a torus neighbour heard before misses 5 consecutive heartbeats. -/
def execHeartbeatMiss (id : BitVec 12) (s : State) : Out :=
  let t := Tab.get 0 s.flt.heard id.toNat
  if t = 0 ∨ s.now - t < 5 * msec ∨ s.isFailed id ∨ s.flt.fenced then .next s
  else .next (({ s with flt := { s.flt with heard := Tab.put 0 s.flt.heard id.toNat 0 } } : State).declareFailed id)

/-- MASTER_UNREACHABLE (R374): the master the module had has not been reached for 10 ms. -/
def execMasterUnreachable (s : State) : Out :=
  let since : Option Nat := match s.flt.silent with
    | some (_, t) => some t
    | none => if s.isMaster then none else some s.flt.masterAt
  match since with
  | some t => if s.now - t ≥ 10 * msec then .next s.fence else .next s
  | none => .next s

/-- FAB_UNREACHABLE_TIMEOUT (13 R326): 10 ms without an acknowledgement. -/
def execFabUnreachableTimeout (s : State) : Out :=
  match s.fab.sent.find? (fun f => decide (s.now - f.first ≥ 10 * msec)) with
  | none => .next s
  | some f =>
    let s0 := s.giveUp f.dst
    let s1 : State := { s0 with fab := { s0.fab with
      lost := if s0.fab.lost.contains f.dst then s0.fab.lost else s0.fab.lost ++ [f.dst] } }
    .next (s1.declareFailed f.dst)

/-- CONTRIBUTION_TIMEOUT (R264): KTO after its norm COLL started the member still lacks a contribution that no backup gives. Of a
member declared failed already nobody holds the role: the collective ends with COLL_TIMEOUT. -/
def execContributionTimeout (s : State) : Out :=
  match s.curColl s.cgrp with
  | none => .next s
  | some x =>
    if x.desc.step ∧ s.now - x.since ≥ s.kto * msec then
      let g := s.cgrp
      let lacks : List Nat := match x.phase with
        | .data => (x.want.filter (fun w => w.kind != .fin)).map (fun w => if w.kind = .domain then w.sender else w.rank)
        | .hand => (List.range (s.members g).length).filter (fun r => x.hands.all (fun h => h.1 != r))
        | .norm => (List.range (s.members g).length).filter (fun r => x.norms.all (fun h => h.1 != r))
      match lacks.find? (fun r => s.bkList.all (fun i => s.roleRank g (s.bkPrimary i) != r) && s.rankId g r != s.ownIdent) with
      | some r =>
        if s.isFailed (s.rankId g r) then .next (s.collEnd g x Status.collTimeout r 0 0)
        else .next ((s.setColl g (some { x with since := s.now })).declareFailed (s.rankId g r))
      | none => .next s
    else .next s


end Sys2Proof.Machine
end

