-- ==== Sys2Proof/Machine/Queues.lean ====
section
/-! DEFINITION. Commands: acceptance of CMD packets, dispatch, timers, FENCE (02 R44 to R51; the submission checks of 03 R79,
07 R191 to R195, 09 R239, 10 R257, R258, R267, R269, 11 R276 to R279, R290, 12 R311 to R313, 13 R343, R348, R349, 14 R376). -/
namespace Sys2Proof.Machine

/-! ## Failing checks (R48) -/

/-- A failing check of a command: its order, the byte offset of the field, the status. -/
structure Flaw where
  order : Nat
  byte : Nat
  st : W16
  deriving DecidableEq, Repr

/-- The first failing check: in the order of R48, then by byte offset. -/
def firstFlaw : List Flaw → Option Flaw
  | [] => none
  | f :: l =>
    match firstFlaw l with
    | none => some f
    | some g => if f.order < g.order ∨ (f.order = g.order ∧ f.byte ≤ g.byte) then some f else some g

/-- The operand field at bit lo breaks check 3, or check 4. -/
def badIf (b : Bool) (lo : Nat) : List Flaw := if b then [⟨3, 40 + lo / 8, Status.errRange⟩] else []
def overIf (b : Bool) (lo : Nat) : List Flaw := if b then [⟨4, 40 + lo / 8, Status.bufOver⟩] else []
/-- Reserved bits of the raw command, from bit lo on: the byte of the lowest one that is set. -/
def rsvBits (c : Cmd) (lo n : Nat) : List Flaw :=
  match (List.range n).find? (fun i => bitsAt c.raw (lo + i) 1 == 1) with
  | some i => [⟨2, (lo + i) / 8, Status.errReserved⟩]
  | none => []
/-- Reserved operand bits. -/
def rsvOp (c : Cmd) (lo n : Nat) : List Flaw := rsvBits c (320 + lo) n
/-- A named operand field that is reserved here. -/
def rsvField (c : Cmd) (b : Bool) (lo n : Nat) : List Flaw :=
  if b && Cmd.opnd c lo n != 0 then [⟨2, 40 + lo / 8, Status.errReserved⟩] else []

/-- The operand at bit lo as a reference. -/
def State.opRef (s : State) (c : Cmd) (lo : Nat) : Ref := s.refOf (BitVec.ofNat 64 (Cmd.opnd c lo 64))
/-- A command accepted now may name the reference: it lies in a tier, or its handle is live (R42, 09 R239, R241). -/
def State.refKnown (s : State) (r : Ref) : Bool :=
  match r with
  | .addr a => inTier a
  | _ => s.handleOk none r
/-- The reference lies in the near tier. -/
def State.refNear (s : State) (r : Ref) : Bool :=
  match r with
  | .addr a => inNear a
  | .hnd h _ => (match s.dpmBuf h with | some b => b.near | none => false)
  | .loc _ => true
/-- A range of addresses that starts in the near tier runs past its end (09 R227). -/
def leavesNear (r : Ref) (n : Nat) : Bool := match r with | .addr a => decide (nearSize < a + n) | _ => false
/-- Checks 3 and 4 on an address operand: a multiple of `align` in a tier, with n bytes. -/
def State.addrFlaws (s : State) (c : Cmd) (lo align n : Nat) : List Flaw :=
  let r := s.opRef c lo
  badIf (r.num % align != 0 || !s.refKnown r) lo ++ overIf (s.refKnown r && !s.refFits r n) lo

/-! ## Operands, by opcode -/

/-- LAUNCH (03 Table 3.5, 13 R344). -/
def State.launchFlaws (s : State) (c : Cmd) : List Flaw :=
  if Cmd.full c then
    let any := Cmd.opnd c 384 1 == 1
    let n := Cmd.opnd c 385 9
    let ilen := Cmd.opnd c 416 21
    rsvOp c 395 1 ++ rsvOp c 442 262 ++ rsvField c (!any) 385 9 ++ rsvField c (Cmd.opnd c 437 1 == 0) 438 4 ++
    badIf ((Cmd.opnd c 128 256 == 0) != any) 128 ++ badIf (any && (n == 0 || decide (n > 256))) 385 ++
    badIf (!any && s.dpm) 384 ++
    badIf (ilen % 128 != 0 || decide (ilen < 128) || decide (ilen > 1048576)) 416 ++
    badIf (Cmd.opnd c 396 20 % 8 != 0 || decide (ilen ≤ Cmd.opnd c 396 20)) 396 ++
    badIf (Cmd.opnd c 437 1 == 1 && !s.lgOn (Cmd.opnd c 438 4)) 438 ++
    s.addrFlaws c 0 128 ilen ++ s.addrFlaws c 64 32 16
  else
    let any := Cmd.opnd c 145 1 == 1
    let n := Cmd.opnd c 136 9
    rsvOp c 146 46 ++ rsvField c any 128 8 ++
    badIf (n == 0 || decide (n > 256)) 136 ++ badIf (!any && decide (Cmd.opnd c 128 8 + n > 256)) 128 ++
    badIf (!any && s.dpm) 145 ++
    s.addrFlaws c 0 128 65536 ++ s.addrFlaws c 64 32 16

/-- COPY (09 R237, R239; 07 R187; 08 R209; 10 R246). -/
def State.copyFlaws (s : State) (c : Cmd) : List Flaw :=
  let op := if Cmd.full c then Cmd.opnd c 160 3 else 0
  let n := Cmd.opnd c 128 32
  let src := s.opRef c 0
  let dst := s.opRef c 64
  (if Cmd.full c then
    rsvOp c 190 2 ++ rsvField c (op == 0) 163 2 ++ rsvField c (op == 0) 165 1 ++
    rsvField c (op == 0 || (op == 1 && Cmd.opnd c 165 1 == 0)) 166 24
  else rsvOp c 160 32) ++
  badIf (n == 0 || n == 0xFFFFFFFF || (op == 1 && n % 2 == 1)) 128 ++ badIf (decide (op > 1)) 160 ++
  badIf (op == 1 && src.num % 64 != 0) 0 ++ badIf (op == 1 && (dst.num % 64 != 0 || !s.refNear dst || leavesNear dst (32 * n))) 64 ++
  badIf (op == 1 && refOverlap src (32 * n) dst (32 * n)) 0 ++
  badIf (s.refAny dst (32 * n) s.denyWrite) 64 ++ badIf (s.refAny src (32 * n) s.denyRead) 0 ++
  s.addrFlaws c 0 32 (32 * n) ++ s.addrFlaws c 64 32 (32 * n)

/-- FILL (09 R238, R239). -/
def State.fillFlaws (s : State) (c : Cmd) : List Flaw :=
  let n := Cmd.opnd c 64 32
  rsvOp c 160 32 ++ (if Cmd.full c then [] else rsvOp c 128 32) ++
  badIf (n == 0 || n == 0xFFFFFFFF) 64 ++ badIf (s.refAny (s.opRef c 0) (32 * n) s.denyWrite) 0 ++
  s.addrFlaws c 0 32 (32 * n)

/-- DTYPE and RED that Table 11.6 marks. -/
def redOk (op dt red : Nat) : Bool :=
  if opReduces op then
    (match red with
      | 0 => decide (dt ≤ 5)
      | 1 => decide (dt ≤ 5)
      | 2 => decide (dt ≤ 5)
      | 3 => dt == 4 || dt == 5
      | 4 => dt == 4 || dt == 5
      | _ => false)
  else decide (dt ≤ 6)

/-- ALG allowed by Table 11.11 and R287. -/
def algOk (op alg count e p : Nat) : Bool :=
  match alg with
  | 0 => true
  | 1 => (op == 0 || op == 3 || op == 4) && decide (count * e ≤ 256) || op == 2 && decide (p * count * e ≤ 16384) || op == 6
  | 2 => decide (op ≤ 5)
  | _ => op == 0 || op == 3 || op == 4

/-- COLL (11 Tables 11.4, 11.5, 11.7, 11.8, R285, R290). -/
def State.collFlaws (s : State) (c : Cmd) : List Flaw :=
  let full := Cmd.full c
  let g := collGrp c
  let op := collOp c
  let dt := Cmd.opnd c 172 3
  let red := Cmd.opnd c 175 3
  let root := Cmd.opnd c 178 12
  let n := Cmd.opnd c 128 32
  let alg := if full then Cmd.opnd c 192 2 else 0
  let xf := if full then Cmd.opnd c 194 2 else 0
  let step := collStep c
  let p := (s.members g).length
  let me := s.grpRank g
  let b := n * dtBytes dt
  let src := s.opRef c 0
  let dst := s.opRef c 64
  let d := s.collDesc c
  let (ls, ld) := collLens d p me
  let ringed := opReduces op && (d.alg == 2 || d.alg == 3)
  rsvOp c 190 2 ++ (if full then rsvOp c 228 476 else []) ++ rsvField c (full && Cmd.opnd c 213 1 == 0) 214 14 ++
  rsvField c (op == 6 || op == 8) 0 64 ++ rsvField c (op == 6 || op == 7) 64 64 ++ rsvField c (op == 6) 128 32 ++
  rsvField c (decide (op ≤ 8) && !opReduces op) 175 3 ++ rsvField c (decide (op ≤ 8) && !opRoot op) 178 12 ++
  badIf (!s.grpOn g || !s.hasRank g) 160 ++ badIf (decide (op > 8)) 168 ++ badIf (dt == 7) 172 ++
  badIf (decide (op ≤ 8) && dt != 7 && !redOk op dt red) (if opReduces op && decide (red ≤ 4) && decide (dt ≤ 5) then 175 else 172) ++
  badIf (decide (op ≤ 8) && !algOk op alg n (dtBytes dt) p) 192 ++
  badIf (decide (xf ≥ 2) && !(opReduces op && red == 0 && decide (dt ≤ 1))) 194 ++
  badIf (op != 6 && !step && (n == 0 || n == 0xFFFFFFFF)) 128 ++
  badIf (opRoot op && decide (root ≥ p)) 178 ++
  badIf ((op == 7 || op == 8) && p != 2) 160 ++
  badIf (op == 7 && root != me || op == 8 && root == me) 178 ++
  badIf (ringed && b % 64 != 0) 128 ++ badIf (ringed && decide (ls > 0) && src.num % 64 != 0) 0 ++
  badIf (ringed && decide (ld > 0) && dst.num % 64 != 0) 64 ++
  badIf (xf == 3 && op == 1 && n % 256 != 0) 128 ++
  badIf (!step && decide (ls > 0) && decide (ld > 0) && refOverlap src ls dst ld && !(op == 0 && src == dst)) 0 ++
  (if step then
    badIf (!s.trnOn) 212 ++ badIf (g != s.cgrp) 160 ++ badIf (op != 1) 168 ++ badIf (dt != 0) 172 ++ badIf (red != 0) 175 ++
    badIf (alg != 0 && alg != 2) 192 ++ badIf (src != s.gradRef) 0 ++ badIf (dst != s.gradRef) 64 ++ badIf (n != 0) 128
  else
    (if ls = 0 then [] else s.addrFlaws c 0 32 ls) ++ (if ld = 0 then [] else s.addrFlaws c 64 32 ld))

/-- KV_APPEND (07 Tables 7.13 and 7.14, R195). -/
def State.kvFlaws (s : State) (c : Cmd) : List Flaw :=
  let full := Cmd.full c
  let a := s.kvArgs c
  let first := if a.posEn then a.pos else (s.ctx a.ctx).len
  let hkv := s.ctxHkv a.ctx
  let span (p : Nat) : Nat := (a.count - 1) * p + 256 * hkv
  let nlo := if full then 128 else 64
  let clo := if full then 160 else 96
  (if full then
    rsvField c (!a.posEn) 168 23 ++ rsvOp c 191 1 ++ rsvField c (!a.stoch) 192 24 ++
    rsvField c (Cmd.opnd c 248 1 == 0) 249 14 ++ rsvOp c 263 441
  else rsvOp c 102 90) ++
  badIf (a.count == 0 || decide (a.count > 65536)) nlo ++ badIf (!s.ctxEnabled a.ctx) clo ++
  overIf (s.ctxEnabled a.ctx && decide (first + a.count > s.ctxPages a.ctx * 256)) nlo ++
  (if full then s.addrFlaws c 0 32 (span a.kp) ++ s.addrFlaws c 64 32 (span a.vp)
   else s.addrFlaws c 0 32 (a.count * 512 * hkv))

/-- PT_EDIT (07 Tables 7.10 and 7.11, R191). -/
def State.ptEditFlaws (s : State) (c : Cmd) : List Flaw :=
  let mode := Edit.mode c
  let n := Edit.count c
  let ctx := Cmd.opnd c 93 6
  (if Cmd.full c then
    rsvField c (mode == 1 || mode == 2) 0 64 ++ rsvOp c 101 27 ++ rsvField c (mode != 2) 128 64 ++
    (if mode = 2 then rsvOp c 129 3 ++ rsvOp c 159 33 else []) ++ rsvField c (mode != 2) 192 4 ++ rsvOp c 196 508
  else rsvOp c 99 93) ++
  badIf (n == 0 || decide (n > 16384)) 78 ++ badIf (mode == 3) 99 ++ badIf (mode == 2 && decide (Cmd.opnd c 192 4 > 8)) 192 ++
  badIf (mode == 2 && Cmd.opnd c 128 1 == 0) 128 ++ badIf (!s.ctxEnabled ctx) 93 ++
  overIf (s.ctxEnabled ctx && decide (Edit.first c + n > s.ctxPages ctx)) 64 ++
  (if mode = 0 then s.addrFlaws c 0 32 (8 * n) else [])

/-- PT_COMMIT (07 Table 7.12): RSIG_EN and RSYNC are reserved in the Plain form only; a context that is not enabled is out of range. -/
def State.ptCommitFlaws (s : State) (c : Cmd) : List Flaw :=
  (if Cmd.full c then rsvOp c 21 171 else rsvOp c 6 186) ++
  badIf (!s.ctxEnabled (Cmd.opnd c 0 6)) 0

/-- CODE (12 Tables 12.7 and 12.8, R313). -/
def State.codeFlaws (s : State) (c : Cmd) : List Flaw :=
  let i := codeStream c
  let d := s.ochDesc i
  let dec := s.ochDecode i
  let on := s.ochOn i
  let full := Cmd.full c
  let f (lo n : Nat) : Bool := full && Cmd.opnd c lo n != 0
  let span := codeSpan d c
  (if full then
    rsvField c (!codeSigEn c) 138 14 ++ rsvOp c 152 8 ++ rsvField c (!codeHintEn c) 192 64 ++ rsvOp c 320 384 ++
    rsvField c (on && !d.d3) 272 32
  else rsvOp c 134 58) ++
  badIf (!on) 128 ++
  (if on then
    badIf (dec && (f 134 1 || f 135 1)) 134 ++ badIf (dec && f 160 32) 160 ++ badIf (dec && f 304 16) 304 ++
    badIf (!dec && f 136 1) 136 ++ badIf (!dec && codeDstLen c == 0xFFFFFFFF) 160 ++
    badIf (f 256 16 && decide (32 * Cmd.opnd c 256 16 < d.x * d.bps)) 256 ++
    badIf (f 272 32 && decide (32 * Cmd.opnd c 272 32 < d.y * codeRowPitch d c)) 272 ++
    badIf (d.act && (codeHintEn c || codeLong c)) 134 ++ badIf (d.act && codeRelease c != 0) 304 ++
    (if dec then s.addrFlaws c 0 32 0 ++ s.addrFlaws c 64 32 span
     else s.addrFlaws c 0 32 span ++ s.addrFlaws c 64 32 (codeCap d c) ++
       (if codeHintEn c then s.addrFlaws c 192 32 (hintLen d) else []))
  else [])

/-- DIGEST (10 R267, Table 10.12). -/
def State.digestFlaws (s : State) (c : Cmd) : List Flaw :=
  if Cmd.full c then
    let range := Cmd.opnd c 1 1 == 1
    let n := Cmd.opnd c 128 32
    let r := s.opRef c 64
    rsvOp c 2 62 ++ rsvOp c 160 544 ++ rsvField c (!range) 64 64 ++ rsvField c (!range) 128 32 ++
    badIf (!s.trnOn) 0 ++
    badIf (range && (r.num % 4096 != 0 || !s.refKnown r || !s.refNear r)) 64 ++
    badIf (range && (n == 0 || n == 0xFFFFFFFF)) 128 ++
    overIf (range && s.refKnown r && !s.refFits r (4096 * n)) 64
  else rsvOp c 0 192 ++ badIf (!s.trnOn) 0

/-- COMMIT (10 R257, R258). -/
def State.commitFlaws (s : State) (c : Cmd) : List Flaw :=
  (if Cmd.full c then
    rsvField c (Cmd.opnd c 80 1 == 0) 81 14 ++ rsvOp c 95 1 ++ rsvOp c 128 576
  else rsvOp c 64 128) ++ badIf (!s.trnOn) 0

/-- CHECKPOINT (10 R269). -/
def State.ckptFlaws (s : State) (c : Cmd) : List Flaw :=
  let (wn, on) := s.ckptLens c
  let n := 4096 + wn + on
  (if Cmd.full c then rsvOp c 67 637 else rsvOp c 64 128) ++
  badIf (!s.trnOn) 0 ++ badIf (Cmd.full c && Cmd.opnd c 64 2 == 0) 64 ++
  badIf (s.trnOn && s.trnAreas.any (fun a => refOverlap (s.opRef c 0) n a.1 a.2.1)) 0 ++
  s.addrFlaws c 0 4096 n

/-- STEP_EVENT_SET (13 R343). -/
def eventSetFlaws (c : Cmd) : List Flaw :=
  rsvOp c 107 1 ++ (if Cmd.full c then rsvOp c 137 567 else rsvOp c 124 68) ++
  badIf (decide (Cmd.opnd c 104 3 > 5)) 104 ++ badIf (!evtSetOk c && decide (Cmd.opnd c 104 3 ≤ 5)) 108

/-- The operand checks of a command, by opcode; an undefined opcode fails check 3. -/
def State.operandFlaws (s : State) (c : Cmd) : List Flaw :=
  match Cmd.opcode c with
  | 0x01 => s.launchFlaws c
  | 0x02 => s.copyFlaws c
  | 0x03 => s.fillFlaws c
  | 0x04 => s.collFlaws c
  | 0x05 => s.kvFlaws c
  | 0x06 => s.ptEditFlaws c
  | 0x07 => s.ptCommitFlaws c
  | 0x08 => s.codeFlaws c
  | 0x09 => s.digestFlaws c
  | 0x0A => s.commitFlaws c
  | 0x0B => s.ckptFlaws c
  | 0x0C => rsvOp c 14 18 ++ (if Cmd.full c then rsvOp c 77 115 else rsvOp c 64 128)
  | 0x0D => rsvOp c 14 18 ++ (if Cmd.full c then rsvOp c 80 112 else rsvOp c 64 128)
  | 0x0E => eventSetFlaws c
  | 0x0F => if Cmd.full c then rsvOp c 64 128 else rsvOp c 0 192
  | 0x10 =>
    if Cmd.full c then
      rsvOp c 19 685 ++ badIf (Cmd.opnd c 0 16 == 0) 0 ++ badIf (Cmd.opnd c 16 3 == 0) 16
    else rsvOp c 0 192
  | _ => [⟨3, 0, Status.errRange⟩]

/-! ## Header and dependencies (R44 to R46) -/

/-- Bytes of a command by opcode and form (Table 2.7); none for an undefined opcode. -/
def cmdLen (op : Nat) (full : Bool) : Option Nat :=
  if op = 0 ∨ op > 0x10 then none
  else if full && !(op == 2 || op == 3 || op == 7 || op == 0xC || op == 0xD || op == 0xF) then some 128
  else some 64

/-- A command before it is accepted. -/
def rawCmd (raw : List Byte) : Cmd :=
  { seq := 0, acc := 0, raw := raw, deps := [], depTo := 0, snap := [], pos := 0, headAt := none, readyAt := none,
    phase := .queued, runAt := 0, disp := 0, ver := 0, stepAt := 0, phaseAt := 0, data := [] }

def cmdClen (c : Cmd) : Nat := bitsAt c.raw 9 2
/-- Bits of dependency entry i. -/
def depBits (c : Cmd) (i lo n : Nat) : Nat := bitsAt c.raw (64 + 64 * i + lo) n

/-- Checks on dependency entry i of a command offered to queue q (Table 2.6, R46). -/
def State.depFlaws (s : State) (c : Cmd) (i : Nat) : List Flaw :=
  let at_ := 64 + 64 * i
  match depBits c i 0 2 with
  | 0 => rsvBits c (at_ + 2) 62
  | 1 => rsvBits c (at_ + 2) 2 ++ rsvBits c (at_ + 18) 14
  | 2 =>
    let d := ((s.queue (depBits c i 4 6)).submit - BitVec.ofNat 32 (depBits c i 32 32)).toNat
    rsvBits c (at_ + 3) 1 ++ rsvBits c (at_ + 10) 8 ++ rsvBits c (at_ + 18) 14 ++
    (if d = 0 ∨ d > 4096 then [⟨3, 8 + 8 * i + 4, Status.errRange⟩] else [])
  | _ => rsvBits c (at_ + 3) 1 ++ rsvBits c (at_ + 18) 14 ++ [⟨3, 8 + 8 * i, Status.errRange⟩]

/-- Every check of R48 on a command; `left` is what the payload still holds from its first byte. -/
def State.cmdFlaws (s : State) (c : Cmd) (left : Nat) : List Flaw :=
  let clen := cmdClen c
  let short := decide (left < 64) || (clen == 2 && decide (left < 128))
  let wrong := (clen != 1 && clen != 2) ||
    (match cmdLen (Cmd.opcode c) (Cmd.full c) with | some n => decide (n ≠ 64 * clen) | none => false)
  (if short then [⟨1, 0, Status.errLen⟩] else if wrong then [⟨1, 1, Status.errLen⟩] else []) ++
  rsvBits c 13 3 ++ rsvBits c 44 20 ++
  (if !Cmd.full c && bitsAt c.raw 28 16 != 0 then [⟨2, 3, Status.errReserved⟩] else []) ++
  (List.range 4).flatMap (s.depFlaws c) ++
  (if bitsAt c.raw 12 1 = 1 ∧ bitsAt c.raw 11 1 = 0 then [⟨3, 1, Status.errRange⟩] else []) ++
  (match Cmd.slot? c with
    | some i => if (s.slot i).st = .armed then [⟨3, 2, Status.errRange⟩] else []
    | none => []) ++
  s.operandFlaws c

/-! ## Acceptance (R44 to R48) -/

/-- The status with which a command has completed, while it is kept (R46). -/
def Queue.outcome (x : Queue) (seq : W32) : Option W16 :=
  match x.cmds.find? (fun c => c.seq == seq) with
  | some c => (match c.phase with | .done st => some st | _ => none)
  | none => (x.hist.find? (fun h => h.1 == seq)).map (fun h => h.2)

/-- A dependency entry as the module keeps it, resolved where its command has completed. -/
def State.takeDep (s : State) (c : Cmd) (i : Nat) : Dep :=
  let v : W32 := BitVec.ofNat 32 (depBits c i 32 32)
  match depBits c i 0 2 with
  | 1 => { kind := 1, any := false, ref := depBits c i 4 14, val := v, res := none }
  | 2 =>
    let any := depBits c i 2 1 == 1
    { kind := 2, any := any, ref := depBits c i 4 6, val := v,
      res := ((s.queue (depBits c i 4 6)).outcome v).map (fun st => any || Status.success st) }
  | _ => { kind := 0, any := false, ref := 0, val := 0, res := some true }

/-- The queue's first command that has not been dispatched. -/
def Queue.head (x : Queue) : Option Cmd := x.cmds.find? (fun c => decide (c.phase = .queued))

/-- Enter a command that passed every check: sequence number, DEP_TO, result slot, positions, group number (R44, R48, R53;
07 R195; 11 R280). -/
def State.acceptCmd (s : State) (q : Nat) (c : Cmd) : State :=
  let x := s.queue q
  let op := Cmd.opcode c
  let a := s.kvArgs c
  let first := if a.posEn then a.pos else (s.ctx a.ctx).len
  let pos : Nat :=
    if op = 0x05 then first
    else if op = 0x04 then (Tab.get 0 s.coll.next (collGrp c)).toNat
    else if op = 0x0D then s.depToDef
    else 0
  let to_ := if Cmd.full c then bitsAt c.raw 28 16 else 0
  let d : Cmd := { c with
    seq := x.submit, acc := s.host.accepted, deps := (List.range 4).map (s.takeDep c),
    depTo := if to_ = 0 then s.depToDef else to_,
    snap := if op = 0x0F ∧ Cmd.full c then
        ((List.range 64).filter (fun p => Cmd.opnd c p 1 == 1)).map (fun p => (p, (s.queue p).submit)) else [],
    pos := pos, headAt := if x.head.isNone then some s.now else none }
  let s1 := s.setQueue q { x with cmds := x.cmds ++ [d], submit := x.submit + 1 }
  let s2 : State := { s1 with host := { s1.host with accepted := s1.host.accepted + 1 } }
  let s3 := match Cmd.slot? c with
    | some i => s2.setSlot i { gen := (s2.slot i).gen + 1, st := .armed }
    | none => s2
  if op = 0x05 then s3.setCtx a.ctx { s3.ctx a.ctx with len := max (s3.ctx a.ctx).len (first + a.count) }
  else if op = 0x04 then { s3 with coll := { s3.coll with next := Tab.upd 0 s3.coll.next (collGrp c) (fun n => n + 1) } }
  else s3

/-- Check and enter the commands of a payload in packet order: the state with all of them, or the index and the check of the
first that fails. -/
def State.takeCmds (s : State) (q : Nat) : Nat → Nat → List Byte → Except (Nat × Flaw) (State × Nat)
  | 0, i, _ => .ok (s, i)
  | n + 1, i, bs =>
    if bs.isEmpty && i > 0 then .ok (s, i)
    else
      let c0 := rawCmd (bs.take 128)
      let c := rawCmd (bs.take (if cmdClen c0 = 2 then 128 else 64))
      match firstFlaw (s.cmdFlaws c bs.length) with
      | some f => .error (i, f)
      | none => (s.acceptCmd q c).takeCmds q n (i + 1) (bs.drop c.raw.length)

/-- The CMD response of this module (R48). -/
def State.cmdAnswer (s : State) (k : Packet) (st : W16) (idx fld_ : Option Nat) (first : Option W32) : State :=
  s.cmdReply k s.modNumber st idx fld_ first

/-- What a CMD does (R48, 14 R374, 15 R391, R394). A module that is fenced and in a closed domain as well answers MODULE_FENCED
(DESIGN CHOICE, log 78). -/
def State.cmdNow (s : State) (k : Packet) : State :=
  let q := fld k.dw1 0 6
  if s.flt.fenced then s.cmdAnswer k Status.moduleFenced (some 0) (some 0) none
  else if s.recovery then s.cmdAnswer k Status.errRange none none none
  else if s.domClosed then s.cmdAnswer k Status.domainIncomplete (some 0) (some 0) none
  else if !s.qEnabled q then s.cmdAnswer k Status.errRange none none none
  else
    match s.takeCmds q 1024 0 (Packet.data k) with
    | .error (i, f) => s.cmdAnswer k f.st (some i) (some f.byte) none
    | .ok (s1, n) =>
      let x := s.queue q
      if (x.submit - x.doneSeq).toNat + n > s.qDepth q then s.cmdAnswer k Status.queueFull none none none
      else s1.cmdAnswer k Status.ok none none (some x.submit)

/-- CMD (R43, R48, 14 R374, 15 R391, R394). -/
def execCmd (k : Packet) (s : State) : Out := .next (s.pxu k 0x1 (fun s => s.inTurn (.cmd k) false (s.cmdNow k)))

/-! ## Dependencies and readiness (R46, R47, R51) -/

/-- Whether a dependency is met, failed, or open. -/
def State.depState (s : State) (d : Dep) : Option Bool :=
  match d.kind with
  | 1 => if s.objReached d.ref d.val then some true else none
  | _ => d.res

/-- What the dependencies of a command say: failed as soon as one has failed. -/
def State.depsState (s : State) (c : Cmd) : Option Bool :=
  let l := c.deps.map s.depState
  if l.contains (some false) then some false else if l.all (· == some true) then some true else none

/-- A command of the opcode has been dispatched and has not completed. -/
def State.runningOps (s : State) (p : Nat → Bool) : Nat :=
  (s.liveCmds.filter (fun x => decide (x.2.phase ≠ .queued) && p (Cmd.opcode x.2))).length

/-! ## Tiles for a LAUNCH (03 R76, R80, R81) -/

/-- The set of a LAUNCH: its tiles, or how many the module chooses. -/
def launchSet (c : Cmd) : List Nat × Option Nat :=
  if Cmd.full c then
    (if Cmd.opnd c 384 1 = 1 then ([], some (Cmd.opnd c 385 9))
     else ((List.range 256).filter (fun t => Cmd.opnd c (128 + t) 1 == 1), none))
  else if Cmd.opnd c 145 1 = 1 then ([], some (Cmd.opnd c 136 9))
  else ((List.range (Cmd.opnd c 136 9)).map (· + Cmd.opnd c 128 8), none)

/-- Heads that wait for tiles: dependencies met, not held; with their queue. -/
def State.waitingLaunches (s : State) : List (Nat × Cmd) :=
  (List.range 64).filterMap (fun q =>
    match (s.queue q).head with
    | some c => if Cmd.opcode c = 0x01 ∧ s.depsState c = some true ∧ s.qHeld q = false then some (q, c) else none
    | none => none)

/-- Class rank: LIVE before STEP before BULK. -/
def State.classRank (s : State) (q : Nat) : Nat := s.qClass q

/-- A waiting LAUNCH began to wait before another: by the period in which it became ready, the present one where none is noted
yet, and within one period by the order in which they were accepted (DESIGN CHOICE, log 81). -/
def State.waitsBefore (s : State) (w c : Cmd) : Bool :=
  let a := w.readyAt.getD s.now
  let b := c.readyAt.getD s.now
  decide (a < b) || (a == b && decide (w.acc < c.acc))

/-- The waiting LAUNCHes whose reservation binds a LAUNCH of queue q (R80, R81): they waited before, in a class at least as
high; for a LIVE LAUNCH only LIVE ones. -/
def State.reservers (s : State) (q : Nat) (c : Cmd) : List (Nat × Cmd) :=
  s.waitingLaunches.filter (fun w =>
    w.1 != q && decide (s.classRank w.1 ≤ s.classRank q) && (s.classRank q != 0 || s.classRank w.1 == 0) && s.waitsBefore w.2 c)

/-- What those LAUNCHes reserve: tiles of fixed sets, and the greatest count (R80). -/
def State.reserved (s : State) (q : Nat) (c : Cmd) : List Nat × Option Nat :=
  let sets := (s.reservers q c).map (fun w => launchSet w.2)
  (sets.flatMap (fun x => x.1), (sets.filterMap (fun x => x.2)).foldl (fun (m : Option Nat) n => some (max (m.getD 0) n)) none)

/-- Preference of a tile for a LIVE LAUNCH (R76): idle, at a sync-wait yield point, running. -/
def State.tileKind (s : State) (t : Nat) : Nat :=
  let x := s.tile t
  if !x.hasContext then 0 else if x.core = .syncWait ∧ x.atYield = true then 1 else 2

/-- The tiles a LAUNCH of queue q takes now; none while it cannot take them all (R80, R81). -/
def State.claim (s : State) (q : Nat) (c : Cmd) : Option (List Nat) :=
  let live := s.classRank q == 0
  let ok (t : Nat) : Bool := if live then s.tileOpen t else s.tileFree t
  let avail := (List.range 256).filter ok
  let r := s.reserved q c
  let fits (l : List Nat) : Bool :=
    l.all (fun t => ok t && !r.1.contains t) && (match r.2 with | some n => decide (l.length + n ≤ avail.length) | none => true)
  match launchSet c with
  | (l, none) => if fits l then some l else none
  | (_, some n) =>
    let cand := avail.filter (fun t => !r.1.contains t)
    let order := if live then (List.range 3).flatMap (fun k => cand.filter (fun t => s.tileKind t == k)) else cand
    let l := (order.take n).mergeSort (fun a b => decide (a ≤ b))
    if l.length = n ∧ fits l then some l else none

/-! ## Dispatch (R50, R51) -/

/-- What a command needs besides its dependencies: tiles, an engine, a FENCE before it completed (R49, R80, R81; 07 R197;
09 R240). A LAUNCH waits while another is between its dispatch and its claim. -/
def State.canRun (s : State) (q : Nat) (c : Cmd) : Bool :=
  match Cmd.opcode c with
  | 0x01 => s.trn.st == 5 ||
      ((s.claim q c).isSome &&
       s.liveCmds.all (fun x => !(decide (x.2.phase = .running) && Cmd.opcode x.2 == 0x01 &&
         s.tl.launches.all (fun l => !(l.q == x.1 && l.seq == x.2.seq && !l.tiles.isEmpty)))))
  | 0x02 => decide (s.runningOps (fun o => o == 2 || o == 3) < 8)
  | 0x03 => decide (s.runningOps (fun o => o == 2 || o == 3) < 8)
  | 0x05 => decide (s.runningOps (fun o => o == 5) < 4)
  | _ => true

/-- A FENCE of the queue is being executed: it holds the commands behind it (R49, R50; DEDUCED, log 29). -/
def State.fenceAhead (s : State) (q : Nat) : Bool :=
  (s.queue q).cmds.any (fun x => Cmd.opcode x == 0x0F &&
    (match x.phase with | .queued => false | .done _ => false | .dropped => false | _ => true))

/-- The head of queue q may be dispatched. -/
def State.dispatchable (s : State) (q : Nat) : Bool :=
  match (s.queue q).head with
  | none => false
  | some c =>
    !s.flt.fenced && !s.qHeld q && !s.fenceAhead q &&
    (match s.depsState c with
      | none => false
      | some false => true
      | some true => s.canRun q c)

/-- Rank of a queue for the next dispatch slot: LIVE, an aged BULK head, STEP, BULK. -/
def State.queueRank (s : State) (q : Nat) : Nat :=
  match s.qClass q with
  | 0 => 0
  | 1 => 2
  | _ => if s.host.aged.contains q then 1 else 3

/-- Round-robin distance of a queue from the one its class served last. -/
def State.turn (s : State) (q : Nat) : Nat := (q + 63 - Tab.get 63 s.host.served (s.qClass q)) % 64

/-- The queue whose head has the next dispatch slot (R51). -/
def State.nextQueue (s : State) : Option Nat :=
  ((List.range 64).filter s.dispatchable).foldl
    (fun (b : Option Nat) q =>
      match b with
      | none => some q
      | some p =>
        if s.queueRank q < s.queueRank p ∨ (s.queueRank q = s.queueRank p ∧ s.turn q < s.turn p) then some q else some p) none

/-- A command ends without executing: a COLL withdraws its number and has its result data (11 R295, R297), a COMMIT of an ended
dependency abandons (10 R259). -/
def State.notRun (s : State) (q : Nat) (c : Cmd) (st : W16) : State :=
  match Cmd.opcode c with
  | 0x04 => s.collGone q c st
  | 0x0A => (if st = Status.expelled then s else s.commitGone (cmtVer c)).endCmd q c.seq st []
  | _ => s.endCmd q c.seq st []

/-- The next command of queue q is at its head from now on (R47). -/
def State.newHead (s : State) (q : Nat) : State :=
  match (s.queue q).head with
  | some c => if c.headAt.isNone then s.updCmd q c.seq (fun c => { c with headAt := some s.now }) else s
  | none => s

/-- Commands that an expelled module does not execute (10 R267). -/
def expelledOp (op : Nat) : Bool := op == 0x01 || op == 0x04 || op == 0x09 || op == 0x0A || op == 0x0B

/-- Dispatch the head c of queue q. The time since its dependencies were met, in which it waited for tiles or an engine, does not
count toward DEP_TO (R47; 07 R197). -/
def State.dispatch (s : State) (q : Nat) (c : Cmd) : State :=
  let s0 : State := { s with host := { s.host with
    served := Tab.put 63 s.host.served (s.qClass q) q, aged := s.host.aged.filter (· != q),
    dispatched := s.host.dispatched + 1 } }
  let s1 :=
    if s0.depsState c = some false then s0.notRun q c Status.depFailed
    else if s0.trn.st = 5 ∧ expelledOp (Cmd.opcode c) then s0.notRun q c Status.expelled
    else
      let s1 := s0.updCmd q c.seq (fun c => { c with
        phase := .running, runAt := s0.now, disp := s.host.dispatched, ver := s0.trnVer, stepAt := s0.stb.step, phaseAt := s0.phase,
        headAt := c.headAt.map (· + (s0.now - c.readyAt.getD s0.now)) })
      if Cmd.opcode c = 0x05 then
        let n := (s1.kvArgs c).ctx
        { s1 with cx := { s1.cx with pins := s1.cx.pins ++ [{ ctx := n, epoch := (s1.ctx n).epoch, holder := .append q c.seq }] } }
      else s1
  s1.newHead q

/-- COMMAND_DISPATCH (R50, R51). -/
def execCommandDispatch (q : BitVec 6) (s : State) : Out :=
  match (s.queue q.toNat).head with
  | none => .next s
  | some c => if s.nextQueue = some q.toNat then .next (s.dispatch q.toNat c) else .next s

/-- BULK_AGE_EXPIRY (R51). -/
def execBulkAgeExpiry (q : BitVec 6) (s : State) : Out :=
  match (s.queue q.toNat).head with
  | none => .next s
  | some c =>
    match c.readyAt with
    | none => .next s
    | some t =>
      if s.qClass q.toNat = 2 ∧ s.now - t > s.bulkAge * usec ∧ s.host.aged.contains q.toNat = false then
        .next { s with host := { s.host with aged := s.host.aged ++ [q.toNat] } }
      else .next s

/-- The head of a queue, or a dispatched command, whose wait counts toward DEP_TO: unmet dependencies (R47), NEXT_OPEN 0
(07 R184), an earlier append of a common position (07 R195). -/
def State.waitsDep (s : State) (c : Cmd) : Bool :=
  match c.phase with
  | .queued => decide (s.depsState c = none)
  | .running =>
    (match Cmd.opcode c with
      | 0x05 => s.earlierOf c (fun x => Cmd.opcode x == 0x05 && kvOverlap s c x)
      | 0x06 => !(s.ctx (Cmd.opnd c 93 6)).nextOpen
      | 0x07 => !(s.ctx (Cmd.opnd c 0 6)).nextOpen
      | _ => false)
  | _ => false

/-- DEP_TIMEOUT_EXPIRY (R47, 07 R184, R195). -/
def execDepTimeoutExpiry (q : BitVec 6) (s : State) : Out :=
  let n := q.toNat
  match (s.queue n).cmds.find? (fun c =>
      s.waitsDep c && (match c.headAt with | some t => decide (s.now - t ≥ c.depTo * msec) | none => false)) with
  | none => .next s
  | some c => .next ((((s.notRun n c Status.depTimeout).unpinAppend n c.seq)).newHead n)

/-! ## FENCE (R49) -/

/-- Every command that the FENCE waits for has completed. -/
def State.fenceMet (s : State) (q : Nat) (c : Cmd) : Bool :=
  let gone (x : Cmd) : Bool := match x.phase with | .done _ => true | .dropped => true | _ => false
  (s.queue q).cmds.all (fun x => decide (c.acc ≤ x.acc) || gone x) &&
  c.snap.all (fun m => (s.queue m.1).cmds.all (fun x => !((m.2 - x.seq).msb == false && m.2 != x.seq) || gone x || x.acc == c.acc))

/-- FENCE (R49). -/
def execFence (q : BitVec 6) (seq : W32) (s : State) : Out :=
  match s.findCmd q.toNat seq with
  | none => .next s
  | some c =>
    if c.phase = .running ∧ Cmd.opcode c = 0x0F ∧ s.fenceMet q.toNat c = true then
      .next (s.endCmd q.toNat seq Status.ok [])
    else .next s

/-! ## Completion (R46, R52, R53) -/

/-- A completed command resolves the dependencies that wait for it (R46). -/
def resolveDep (q : Nat) (seq : W32) (st : W16) (d : Dep) : Dep :=
  if d.kind = 2 ∧ d.ref = q ∧ d.val = seq ∧ d.res = none then { d with res := some (d.any || Status.success st) } else d

def State.resolveDeps (s : State) (q : Nat) (seq : W32) (st : W16) : State :=
  { s with host := { s.host with queues := s.host.queues.map (fun e =>
      (e.1, { e.2 with cmds := e.2.cmds.map (fun c => { c with deps := c.deps.map (resolveDep q seq st) }) })) } }

/-- The sync object a command signals when it completes: a COLL, a KV_APPEND or a CODE with SIG_EN. -/
def cmdSig (c : Cmd) : Option Nat :=
  if !Cmd.full c then none
  else
    match Cmd.opcode c with
    | 0x04 => if Cmd.opnd c 213 1 = 1 then some (Cmd.opnd c 214 14) else none
    | 0x05 => if Cmd.opnd c 248 1 = 1 then some (Cmd.opnd c 249 14) else none
    | 0x08 => if codeSigEn c then some (codeSig c) else none
    | _ => none

/-- COMMAND_COMPLETE (R52): the slot, DONE_SEQ, the waiting dependencies, the event. -/
def execCommandComplete (q : BitVec 6) (seq : W32) (s : State) : Out :=
  let n := q.toNat
  match s.findCmd n seq with
  | none => .next s
  | some c =>
    match c.phase with
    | .ended st =>
      let s0 := match cmdSig c with | some o => s.signal { src := none, obj := o, add := 1 } | none => s
      let s1 := match Cmd.slot? c with
        | some i => s0.setSlot i { s0.slot i with st := .ready, cstatus := st, seq := seq, data := padTo 32 c.data }
        | none => s0
      let s2 := s1.updCmd n seq (fun c => { c with phase := .done st })
      let x := s2.queue n
      let s3 := s2.setQueue n { x with hist := ((seq, st) :: x.hist).filter (fun h => decide ((x.submit - h.1).toNat ≤ 4096)) }.pop
      let s4 := (s3.resolveDeps n seq st).freeLaunch n seq
      let s5 := s4.closeUse n seq (fun _ => true)
      match Cmd.slot? c with
      | some i =>
        if bitsAt c.raw 12 1 = 1 then
          .next (s5.event 0x01 st (BitVec.ofNat 32 (i + (s5.slot i).gen.toNat * 2 ^ 12)) seq)
        else .next s5
      | none => if Status.success st then .next s5 else .next (s5.event 0x03 st (BitVec.ofNat 32 n) seq)
    | _ => .next s

end Sys2Proof.Machine
end

