-- ==== Sys2Proof/Machine/Launch.lean ====
section
/-! DEFINITION. LAUNCHes: the record, the claim of tiles, LIVE preemption, micro-batch switches, context moves (03 R75 to R82;
10 R248; 14 R363, R368). -/
namespace Sys2Proof.Machine

/-- The record of a dispatched LAUNCH (Tables 3.3 and 3.4). In DPM the image stands where its buffer begins (log 37). -/
def State.mkLaunch (s : State) (q : Nat) (c : Cmd) : Launch :=
  let full := Cmd.full c
  let prog := if s.dpm then (match s.refLoc (s.opRef c 0) with | some l => s.locAddr l | none => 0) else Cmd.opnd c 0 64
  { q := q, seq := c.seq, cls := s.qClass q, tiles := [], prog := prog,
    ilen := if full then Cmd.opnd c 416 21 else 65536, args := BitVec.ofNat 64 (Cmd.opnd c 64 64),
    dbg := full && Cmd.opnd c 394 1 == 1, lock := launchLock c, ver := c.ver, entry := if full then Cmd.opnd c 396 20 else 0 }

def State.addLaunch (s : State) (l : Launch) : State := { s with tl := { s.tl with launches := s.tl.launches ++ [l] } }
def State.findLaunch (s : State) (q : Nat) (seq : W32) : Option Launch :=
  s.tl.launches.find? (fun l => l.q == q && l.seq == seq)

/-- LAUNCH (R79): a dispatched LAUNCH is set up to run its image. -/
def execLaunch (q : BitVec 6) (seq : W32) (s : State) : Out :=
  match s.findCmd q.toNat seq with
  | none => .next s
  | some c =>
    if c.phase = .running ∧ Cmd.opcode c = 0x01 ∧ (s.findLaunch q.toNat seq).isNone = true then
      .next (s.addLaunch (s.mkLaunch q.toNat c))
    else .next s

/-- LAUNCH_CLAIM_TILES (R80, R81): the whole set in one step; the program starts once no tile has a context to be saved. -/
def execLaunchClaimTiles (q : BitVec 6) (seq : W32) (s : State) : Out :=
  match s.findCmd q.toNat seq, s.findLaunch q.toNat seq with
  | some c, some l =>
    if !l.tiles.isEmpty ∨ l.fault.isSome then .next s
    else
      match s.claim q.toNat c with
      | none => .next s
      | some ts =>
        let wait := if l.cls = 0 then ts.filter (fun t => (s.tile t).hasContext) else []
        let s1 := s.updLaunch q.toNat seq (fun l => { l with tiles := ts, awaiting := wait })
        if wait.isEmpty then .next (s1.startAll { l with tiles := ts }) else .next s1
  | _, _ => .next s

/-- A tile is at a yield point and can give its context away: no move and no test window of its own comes first (R76; 14 R363). -/
def State.mayGive (s : State) (t : Nat) : Bool :=
  (s.tile t).hasContext && (s.tile t).atYield && !s.tileHeld t && !s.testWaits t && s.tl.moves.all (fun m => m.tile != t)

/-- A disagreement of tile t's cluster that still has no unit for its third execution takes the first working tile of the cluster at
a yield point, as a LIVE LAUNCH would (14 R359). -/
def State.preemptForThird (s : State) (t : Nat) : State :=
  match s.flt.arbs.find? (fun a => a.tile / 16 == t / 16 && a.third == .waits), s.launchOf t with
  | some a, some l =>
    if l.cls ≠ 0 ∧ s.mayGive t = true ∧ s.tl.saved.all (fun v => v.tile != t) = true ∧ s.pickThird (t / 16) = .waits then
      ({ s with flt := { s.flt with arbs := s.flt.arbs.map (fun b => if b = a then { b with third := .tile t } else b) } } : State).addMove
        { tile := t, kind := .save a.q a.seq }
    else s
  | _, _ => s

/-- LIVE_PREEMPT (R76): a tile that a LIVE LAUNCH awaits is at a yield point: its context goes to the save area. A tile that has
halted since is taken as it is. A third execution preempts a tile in the same way (14 R359). -/
def execLivePreempt (t : BitVec 8) (s : State) : Out :=
  let n := t.toNat
  match s.awaiter n with
  | none => .next (s.preemptForThird n)
  | some w =>
    if s.tl.moves.any (fun m => m.tile == n) then .next s
    else if !(s.tile n).hasContext then .next (s.tileReady w.q w.seq n)
    else if s.mayGive n then .next (s.addMove { tile := n, kind := .save w.q w.seq })
    else .next s

/-- SWITCH × 10 µs (TRN_CFG, 10 Table 10.2). -/
def State.switchTime (s : State) : Nat := fld (s.reg (Reg.trn 0)) 57 7 * 10 * usec

/-- A tile has been at its sync-wait yield point for the time (R73, R248). -/
def State.waitsLong (s : State) (t : Nat) : Bool :=
  let x := s.tile t
  decide (x.core = .syncWait) && x.atYield && (match x.yieldAt with | some a => decide (s.now - a ≥ s.switchTime) | none => false)

/-- The tiles that a LAUNCH of queue q takes from those of X and free ones, as far as reservations of R80 let it. -/
def State.switchSet (s : State) (x : Launch) (q : Nat) (c : Cmd) : Option (List Nat) :=
  let r := s.reserved q c
  let ok (t : Nat) : Bool := (x.tiles.contains t || s.tileFree t) && !r.1.contains t
  let free := (List.range 256).filter s.tileFree
  let fits (l : List Nat) : Bool :=
    let new := l.filter (fun t => !x.tiles.contains t)
    l.all ok && (new.isEmpty || decide (r.2.getD 0 + new.length ≤ free.length))
  let l := match launchSet c with
    | (l, none) => l
    | (_, some n) => ((List.range 256).filter ok).take n
  if fits l && (match (launchSet c).2 with | some n => l.length == n | none => true) then some l else none

/-- MICROBATCH_SWITCH (R248): LAUNCH X is saved and the head of queue yq runs in its place. -/
def execMicrobatchSwitch (xq : BitVec 6) (xseq : W32) (yq : BitVec 6) (s : State) : Out :=
  match s.findLaunch xq.toNat xseq, (s.queue yq.toNat).head with
  | some x, some c =>
    if s.switchTime = 0 ∨ x.cls ≠ 1 ∨ !x.started ∨ x.fault.isSome ∨ x.aside.isSome ∨ !x.tiles.all s.waitsLong ∨
       s.tl.saved.any (fun v => x.tiles.contains v.tile) ∨ s.tl.moves.any (fun m => x.tiles.contains m.tile) ∨
       x.tiles.any (fun t => (s.awaiter t).isSome || s.testWaits t) ∨ s.qClass yq.toNat ≠ 1 ∨ Cmd.opcode c ≠ 0x01 ∨
       s.depsState c ≠ some true ∨ s.qHeld yq.toNat ∨ s.fenceAhead yq.toNat ∨ s.flt.fenced ∨ s.trn.st = 5 then .next s
    else
      match s.switchSet x yq.toNat c with
      | none => .next s
      | some ts =>
        let s1 := s.dispatch yq.toNat c
        match s1.findCmd yq.toNat c.seq with
        | none => .next s
        | some d =>
          let l := { s1.mkLaunch yq.toNat d with tiles := ts, awaiting := x.tiles, aside := some (x.q, x.seq) }
          .next (x.tiles.foldl (fun s t => s.addMove { tile := t, kind := .save l.q l.seq }) (s1.addLaunch l))
  | _, _ => .next s

/-! ## Context moves (R75) -/

/-- Work of the position ends, or starts: a context leaves tile t, or comes (14 R353). -/
def State.useEnds (s : State) (t : Nat) : State :=
  match (s.tile t).launch with
  | some (q, seq) => s.closeUse q seq (fun u => u.cluster == t / 16 && u.pos == s.tilePos t)
  | none => s
def State.useStarts (s : State) (t : Nat) : State :=
  match s.launchOf t with
  | some l => s.openUse l t
  | none => s

/-- Where a context that has to leave its position goes: the place promised to it, or the first place that is free (R368). -/
def State.moveTarget (s : State) (t pos : Nat) : Option Nat :=
  if pos < 18 then some pos else s.testCover (t / 16) (s.tilePos t)

/-- The roles after the move of tile t to position k: the old position takes the role `leave`. -/
def State.swapRoles (s : State) (t k : Nat) (leave : Role) : State :=
  s.updCluster (t / 16) (fun x =>
    let p := x.posOf (.work (t % 16))
    let y := (x.take k (.work (t % 16))).setRole p leave
    if leave = .testing then { y with win := y.win.map (fun w => if w.pos = p then { w with cleared := true } else w) } else y)

/-- The cache of the position that receives a context is preloaded afresh (R66). -/
def State.preloadTile (s : State) (t : Nat) : State :=
  match s.launchOf t with
  | some l => s.updTile t (fun x => { x with icache := preload l.ilen, imiss := none })
  | none => s

/-- CONTEXT_MOVE_COMPLETE (R75): the copy of a context has ended. A move to another position waits for the tile's yield point,
or its fault stop point, first. -/
def execContextMoveComplete (t : BitVec 8) (s : State) : Out :=
  let n := t.toNat
  let x := s.tile n
  match s.tl.moves.find? (fun m => m.tile == n) with
  | none => .next s
  | some m =>
    let done (s : State) : State :=
      let s1 := s.dropMoves (fun k => k.tile == n)
      if (s1.cluster (n / 16)).relockDue then s1.relock (n / 16) else s1
    match m.kind with
    | .save q seq =>
      let s1 := s.useEnds n
      let s2 := (done s1).setTile n x.freed
      let s3 : State := { s2 with tl := { s2.tl with saved := s2.tl.saved ++ [{ tile := n, ctx := x }] } }
      .next (s3.tileReady q seq n)
    | .restore =>
      match s.tl.saved.find? (fun v => v.tile == n) with
      | none => .next (done s)
      | some v =>
        let s1 := (done s).setTile n { v.ctx with yieldAt := none }
        let s2 : State := { s1 with tl := { s1.tl with saved := s1.tl.saved.filter (fun w => w.tile != n) } }
        .next (((s2.preloadTile n).useStarts n).settle n)
    | .toPos pos leave =>
      let may := m.begun || x.atYield || !x.hasContext || (x.core.isStop && x.quiet)
      match s.moveTarget n pos with
      | none => .next s
      | some k =>
        if may then
          let s1 := (s.useEnds n).swapRoles n k leave
          let s2 := match x.core with
            | .stopPoint was => s1.setTile n { x with core := was, active := 0 }
            | _ => s1
          .next (((done s2).preloadTile n).useStarts n)
        else .next s

end Sys2Proof.Machine
end

