-- ==== Sys2Proof/Machine/Complete.lean ====
section
/-! DEFINITION. What ends on a tile: cache refills, engine instructions, blocks, programs, watchdog firings (03 R66, R69 to R74,
R83 to R85; 05 R130, R137; 14 R360, R361, R368, R369). -/
namespace Sys2Proof.Machine

/-- An instruction-cache parity error (R66, 14 R351, R369): counted and logged; the line is fetched again. -/
def State.icacheParity (s : State) (t : Nat) : State :=
  (s.count Cnt.icachePar 1).log Cls.tstore 1 Status.ok (Unit.tile (t / 16) (s.tilePos t)) (s.host.ident.getD 0) 0

/-- ICACHE_LINE_FILL (R66, 14 R369): the line a miss waits for arrives, or is fetched again for a parity error. Without a miss a
parity error shows in the cached line of the next instruction: it leaves the cache and is fetched again. -/
def execIcacheLineFill (t : BitVec 8) (parity : Bool) (s : State) : Out :=
  let n := t.toNat
  let x := s.tile n
  match x.imiss, s.launchOf n with
  | some line, _ => if parity then .next (s.icacheParity n) else .next (s.updTile n (fun x => { x.place line with imiss := none }))
  | none, some l =>
    let line := lineOf (x.pc - BitVec.ofNat 64 l.prog).toNat
    if parity && decide (x.core = .run) && x.cached line then .next ((s.icacheParity n).setTile n (x.refetch line)) else .next s
  | none, none => .next s

/-! ## Engine instructions -/

/-- The location of the first uncorrectable granule that a transfer reads. -/
def State.xferUe (s : State) (t : Nat) (i : EInstr) : Option Nat :=
  let d := (s.tile t).desc (fld i.w 0 4)
  ((List.range i.n).flatMap (fun k =>
    match s.runRef t d ((i.run0 + k) % Desc.total d) with
    | .ok r => (List.range (Desc.run d)).filterMap (fun g => s.refLoc (r.add (64 * g)))
    | .error _ => [])).find? s.isUe

/-- A STEP-class LAUNCH that met a storage error ends, and the module resumes (14 R354, R369). -/
def State.resumeLaunch (s : State) (l : Launch) : State :=
  let after := match s.trn.decidedAt, s.findCmd l.q l.seq with
    | some d, some c => decide (d ≤ c.runAt)
    | _, _ => false
  (s.dropCmd l.q l.seq).resume after

/-- A fault at an instruction's effect. An uncorrectable granule of the training job's storage goes to the step protocol instead
where a STEP-class LAUNCH met it (09 R225). -/
def State.effectFault (s : State) (t : Nat) (i : EInstr) (f : TFault) : State :=
  if f.cause = .mem then
    match s.xferUe t i, s.launchOf t with
    | some loc, some l =>
      let s1 := s.unmasked loc
      if l.cls = 1 ∧ s.inTrn loc = true then s1.dropCmd l.q l.seq else s1.progFault t i.pc f
    | _, _ => s.progFault t i.pc f
  else s.progFault t i.pc f

/-- An uncorrectable scratchpad or accumulator word makes the reading instruction suspect (14 R369). -/
def State.storeFault (s : State) (t : Nat) (i : EInstr) : State :=
  let unit := Unit.tile (t / 16) (s.tilePos t)
  match s.launchOf t with
  | none => s
  | some l =>
    if l.cls = 1 then (s.resumeLaunch l).log Cls.tstore 5 Status.ok unit (s.host.ident.getD 0) (cmdDetail l.q l.seq)
    else (s.progFault t i.pc { cause := .mem }).log Cls.tstore 0 Status.ok unit (s.host.ident.getD 0) (cmdDetail l.q l.seq)

/-- A vector or Madder result exceeds the envelope of its tensor's slot (14 R361). -/
def State.overEnvelope (s : State) (i : EInstr) (r : EngRes) : Bool :=
  bit (s.reg Reg.chkCfg) 4 && (W.cls i.w == 5 || W.cls i.w == 6) &&
  (match s.tensorSlot r.tensor with
    | some j =>
      let v := Fmt.bf16.decode (fld (s.reg (0x41000 + 16 * j)) 25 16)
      !v.isZero && r.outs.any (fun o => v.lt o.abs)
    | none => false)

/-- The checks of plausibility mode on a completed instruction (14 R360, R361): each TILE_PLAUS detection takes a margin step (R365). -/
def State.plausCheck (s : State) (t : Nat) (i : EInstr) (r : EngRes) (flag : Bool) : State :=
  let c := t / 16
  let p := s.tilePos t
  let s1 :=
    if s.overEnvelope i r then
      ((s.count Cnt.envExceed 1).notice (Unit.tile c p) (BitVec.ofNat 64 r.tensor)).askWindow c (some p)
    else s
  let row := flag && W.cls i.w == 4 && decide (W.op i.w ≤ 6)
  let nan := (W.cls i.w == 4 || W.cls i.w == 5) && r.nanOut && !r.fl.nanIn && !r.fl.infIn
  let s2 := if row then s1.count Cnt.plausFlag 1 else s1
  if row then s2.detectTile Cls.tilePlaus c p (200 * msec) Status.resultRecall true 0
  else if nan then s2.detectTile Cls.tilePlaus c p (200 * msec) Status.resultRecall true 0
  else s2

/-- The table store an instruction uses: its slot, or 4 for the built-in tables (14 R372). -/
def State.noteTab (s : State) (t : Nat) (i : EInstr) : State :=
  if isMdr i ∧ W.op i.w ≠ 0x20 then s.usedTab t (if W.op i.w = 9 then mdrSlot i else 4) else s

/-- An instruction's effect has ended: it leaves its engine and gives its signals (R69). -/
def State.engDone (s : State) (t : Nat) (e : Eng) (i : EInstr) : State :=
  let x := s.tile t
  let (y, ovf) := (x.setRunning e ((x.running e).erase i)).giveSigs i.w
  let s1 := s.setTile t y
  if ovf then s1.progFault t i.pc { cause := .eventOvf } else s1

/-- ENGINE_INSTR_COMPLETE (R69, R103, R130): the oldest running instruction of an engine completes; `f` is what the codes and
checksums found. -/
def execEngineInstrComplete (t : BitVec 8) (e : Eng) (f : EngFind) (s : State) : Out :=
  let n := t.toNat
  match (s.tile n).running e with
  | [] => .next s
  | i :: _ =>
    if s.tileHeld n ∨ s.mayComplete n i = false then .next s
    else
      let s0 := ((s.found f.mem).count Cnt.spadCorr f.spadCorr).noteTab n i
      let gone (s : State) : State := s.updTile n (fun x => x.setRunning e ((x.running e).erase i))
      if f.spadUe then .next ((gone s0).storeFault n i)
      else
        match s0.engEffect n i with
        | (s1, _, some fault) => .next (((gone s1).effectFault n i fault).settle n)
        | (s1, none, none) => .next ((s1.engDone n e i).settle n)
        | (s1, some r, none) =>
          let s2 := s1.engDone n e i
          .next ((if s2.plaus (n / 16) then s2.plausCheck n i r f.flag else s2).settle n)

/-! ## Blocks (R70 to R72) -/

/-- A control-core detection against position p of tile t's cluster, with the block as its suspect interval (14 R368). -/
def State.coreDetect (s : State) (t p at_ : Nat) (margin : Bool) (took : Nat) : State :=
  let c := t / 16
  let (s1, a) := if margin then (let (s1, k) := s.marginStep c p; (s1, k.reaction)) else (s, took)
  s1.detect Cls.core (Unit.tile c p) (fun u => u.cluster == c && u.pos == p) (s.now - at_) Status.resultRecall a 0

/-- The two signatures of a block differ (R71): a control-core fault, which stops the tile's core. -/
def State.flowMismatch (s : State) (t : Nat) : State :=
  let x := s.tile t
  ((s.setTile t { x with core := .flowFault }).count Cnt.flowFault 1).coreDetect t (s.tilePos t) x.blkAt true 0

/-- A block that the watchdog had moved has ended on its second position (14 R368). -/
def State.movedBlockEnds (s : State) (t : Nat) (l : Launch) (block : W32) (at_ : Nat) : State :=
  match l.fires.find? (fun f => f.1 == t && f.2.1 == block) with
  | some (_, _, p, k) => s.coreDetect t p at_ false k.reaction
  | none => s

/-- BLKEND_COMPLETE (R70, R71, R73; 13 R345): a blkend whose instructions have all completed ends the block; under a lock it waits
for its group's tick. `mon` is the flow monitor's signature. -/
def execBlkendComplete (t : BitVec 8) (mon : W32) (s : State) : Out :=
  let n := t.toNat
  let x := s.tile n
  match s.launchOf n with
  | none => .next s
  | some l =>
    if x.core ≠ .drain false ∨ x.drained = false ∨ s.tileHeld n then .next s
    else if mon ≠ x.sig then .next (s.flowMismatch n)
    else
      let y :=
        if l.lock.isSome then { x with core := .lockWait, pc := x.pc + 8 }
        else { x with core := .run, pc := x.pc + 8, active := 0, block := x.block + 1, sig := 0, blkAt := s.now, atBlk := true }
      .next ((s.setTile n y).movedBlockEnds n l x.block x.blkAt)

/-! ## The end of a LAUNCH (R83 to R85, 05 R137, 13 R347) -/

/-- Result data by the argument block header, or the error it gives (R83). -/
def State.resultData (s : State) (l : Launch) : State × Except W16 (List Byte) :=
  let (hdr, s1, bad) := s.readRef (s.refOf l.args) 16
  if bad.isSome then
    ((match s1.refLoc (s1.refOf l.args) with | some loc => s1.unmasked loc | none => s1), .error Status.memUncorrectable)
  else
    let r := s1.refOf (BitVec.ofNat 64 (leAt hdr 0 8))
    let len := bitsAt hdr 64 11
    if bitsAt hdr 75 53 ≠ 0 then (s1, .error Status.errReserved)
    else if len = 0 then (s1, .ok [])
    else if len = 2047 ∨ r.num % 32 ≠ 0 ∨ s1.handleOk (some (l.q, l.seq)) r = false ∨ s1.refFits r (32 * len) = false ∨
            s1.refAny r (32 * len) s1.denyRead = true then (s1, .error Status.errRange)
    else
      let (bs, s2, bad) := s1.readRef r (32 * len)
      if bad.isSome then
        ((match s2.refLoc (r.add bs.length) with | some loc => s2.unmasked loc | none => s2), .error Status.memUncorrectable)
      else (s2, .ok bs)

/-- Every tile of the set has halted: the LAUNCH's effect ends. -/
def State.launchEnds (s : State) (l : Launch) : State :=
  let st := if l.peerLost then Status.peerLost else if l.rangeGuard then Status.rangeGuard
    else if l.stageStall then Status.stageStall else Status.ok
  match (s.findCmd l.q l.seq).bind Cmd.slot? with
  | none => s.endCmd l.q l.seq st []
  | some _ =>
    match s.resultData l with
    | (s1, .ok bs) => s1.endCmd l.q l.seq st bs
    | (s1, .error e) => s1.endCmd l.q l.seq e []

/-- What the LAUNCH raised on a tile reaches the step accounting and the counters at its halt (05 R130, 06 R161). -/
def State.haltFlags (s : State) (l : Launch) (fl : Fl) : State :=
  ((s.stepFlags l.ver (l.cls == 1) fl).count Cnt.chReplay fl.chReplay).count Cnt.varClamp fl.clamps

/-- TILE_HALTED (R71, R84): a halt whose instructions have all completed ends the program on its tile; the last one ends the LAUNCH.
`f` is what the code finds as the argument block and the result data are read. -/
def execTileHalted (t : BitVec 8) (mon : W32) (f : MemFind) (s : State) : Out :=
  let n := t.toNat
  let x := s.tile n
  match s.launchOf n with
  | none => .next s
  | some l =>
    if x.core ≠ .drain true ∨ x.drained = false ∨ s.tileHeld n then .next s
    else if mon ≠ x.sig then .next (s.flowMismatch n)
    else
      let s1 := (s.setTile n { x with core := .halted, sig := 0, active := 0 }).haltFlags l x.fl
      let l1 := { l with halted := l.halted ++ [n], fl := Fl.join l.fl x.fl, rangeGuard := l.rangeGuard || x.fl.range }
      let s2 := s1.updLaunch l.q l.seq (fun _ => l1)
      let s3 := if l.tiles.all (fun u => l1.halted.contains u) then (s2.found f).launchEnds l1 else s2
      let s4 := match s3.awaiter n with
        | some w => s3.tileReady w.q w.seq n
        | none => s3
      .next (s4.movedBlockEnds n l1 x.block x.blkAt)

/-! ## The watchdog (R72, R74; 14 R368) -/

/-- The watchdog counts: the block has spent more than 48,000 active cycles (R70). -/
def Tile.overrun (x : Tile) : Bool :=
  decide (x.active.toNat > 48000) && (match x.core with | .run => true | .ewait _ => true | .drain _ => true | _ => false)

/-- First firing for a block: a margin step, and the context leaves its position at the fault stop point. -/
def State.watchFirst (s : State) (t : Nat) (l : Launch) : State :=
  let x := s.tile t
  let c := t / 16
  let p := s.tilePos t
  let s1 := (s.setTile t { x with core := .stopPoint x.core }).count Cnt.flowFault 1
  let (s2, k) := s1.marginStep c p
  let s3 := s2.updLaunch l.q l.seq (fun l => { l with fires := l.fires ++ [(t, x.block, p, k)] })
  if s3.tl.moves.any (fun m => m.tile == t) then s3
  else
    let k := (s3.cluster c).posOf .spare
    let s4 := if k < 18 then s3.updCluster c (fun y => y.setRole k .reserved) else s3
    s4.addMove { tile := t, kind := .toPos (if k < 18 then k else 18) .spare, begun := false }

/-- WATCHDOG_FIRE (R72): the second firing for a block on another position makes the program at fault, and withdraws the margin
step of the first. -/
def execWatchdogFire (t : BitVec 8) (s : State) : Out :=
  let n := t.toNat
  let x := s.tile n
  match s.launchOf n with
  | none => .next s
  | some l =>
    if x.overrun = false ∨ s.tileHeld n then .next s
    else
      match l.fires.find? (fun f => f.1 == n && f.2.1 == x.block) with
      | none => .next (s.watchFirst n l)
      | some (_, _, p, k) => .next ((s.marginBack (n / 16) p k).progFault n x.pc { cause := .watchdog })

end Sys2Proof.Machine
end

