-- ==== Sys2Proof/Machine/Flash.lean ====
section
/-! DEFINITION. The settings flash and firmware images: banks, records, BOOTCTL, the checks of an image, key derivation
(15 R396 to R403, R408, R409). -/
namespace Sys2Proof.Machine

/-! ## Bytes of a device (R396) -/

def Flash.at (f : Flash) (a n : Nat) : List Byte := (List.range n).map (fun i => Tab.get 0xFF f.byte (a + i))
def Flash.put (f : Flash) (a : Nat) (bs : List Byte) : Flash :=
  { f with byte := bs.zipIdx.foldl (fun m (b, i) => Tab.put 0xFF m (a + i) b) f.byte }
/-- Erase n bytes from a. -/
def Flash.erase (f : Flash) (a n : Nat) : Flash :=
  { f with byte := f.byte.filter (fun e => !(decide (a ≤ e.1) && decide (e.1 < a + n))) }
def Flash.up (f : Flash) : Bool := f.mode != 0
def Flash.writable (f : Flash) : Bool := f.mode != 0 && !f.ro

def bankSize : Nat := 0x400000
def bankBase (b : Nat) : Nat := 0x10000 + b * bankSize
def slotBase : Nat := 0x1000000
def slotSize : Nat := 0x6000000

/-! ## Banks and records (R397, R398) -/

def le4 (b : List Byte) (i : Nat) : Nat := leAt b i 4
def crcOf (b : List Byte) : Nat := (crc32c b).toNat

/-- GEN of a bank whose header verifies. -/
def Flash.bankGen (f : Flash) (b : Nat) : Option Nat :=
  let h := f.at (bankBase b) 32
  if le4 h 0 = 0x4B4E4253 ∧ le4 h 8 = crcOf (h.take 8) ∧ leAt h 12 20 = 0 then some (le4 h 4) else none

/-- The bank that is read. -/
def Flash.bank (f : Flash) : Option Nat :=
  match f.bankGen 0, f.bankGen 1 with
  | none, none => none
  | some _, none => some 0
  | none, some _ => some 1
  | some a, some b => some (if b > a then 1 else 0)

def pad32 (n : Nat) : Nat := ceilDiv n 32 * 32

/-- A record's bytes (Table 15.4). -/
def SetRec.bytes (r : SetRec) : List Byte :=
  let h := toBytesLE 2 r.ty ++ toBytesLE 1 r.fmt ++ [0] ++ toBytesLE 4 r.seq ++ toBytesLE 4 r.body.length
  h ++ toBytesLE 4 (crcOf (h ++ r.body)) ++ List.replicate 16 0 ++ padTo 32 r.body

/-- Records from offset `off` of a bank on, those whose CRC fails discarded, and where they end. A length beyond the largest
ends the scan at the end of the bank (log 39). -/
def Flash.scan (f : Flash) (b : Nat) : Nat → Nat → List SetRec × Nat
  | 0, off => ([], off)
  | fuel + 1, off =>
    if off + 32 > bankSize then ([], off)
    else
      let h := f.at (bankBase b + off) 32
      let len := le4 h 8
      if leAt h 0 2 = 0xFFFF then ([], off)
      else if len > 4194240 ∨ off + 32 + pad32 len > bankSize then ([], bankSize)
      else
        let body := f.at (bankBase b + off + 32) len
        let (rest, e) := Flash.scan f b fuel (off + 32 + pad32 len)
        let r : SetRec := { ty := leAt h 0 2, fmt := leAt h 2 1, seq := le4 h 4, body := body }
        (if le4 h 12 = crcOf (h.take 12 ++ body) then r :: rest else rest, e)

def Flash.scanAll (f : Flash) : List SetRec × Nat :=
  match f.bank with
  | some b => f.scan b 131072 32
  | none => ([], bankSize)
/-- The verifying records of a device in use. -/
def Flash.recs (f : Flash) : List SetRec := if f.up then f.scanAll.1 else []

/-! ## Records in force (R398, R400, R408) -/

/-- The FMT that an image uses for a record type; the ROM, and BOOTCTL always, use 1 (R400). -/
def manFmt (man : List Byte) (t : Nat) : Nat := if man.isEmpty || t == 1 then 1 else leAt man (128 + t) 1
def State.fmtOf (s : State) (t : Nat) : Nat := manFmt s.boot.man t

/-- A body in a format from format 1, and back (log 39). -/
def formOf (t fmt : Nat) (b : List Byte) : List Byte := if fmt = 1 then b else Config.recordForm t fmt b
def readForm (t fmt : Nat) (b : List Byte) : List Byte := if fmt = 1 then b else Config.recordRead t fmt b

def State.allRecs (s : State) : List SetRec := s.boot.fl0.recs ++ s.boot.fl1.recs

/-- The record in force of a type and format: the highest SEQ; of two equal, the FL0 copy. -/
def State.inForce (s : State) (t fmt : Nat) : Option SetRec :=
  (s.allRecs.filter (fun r => r.ty == t && r.fmt == fmt)).foldl
    (fun (m : Option SetRec) r => match m with
      | none => some r
      | some x => if x.seq < r.seq then some r else some x) none

/-- The body in force of a type, as format 1 gives it. -/
def State.setting (s : State) (t : Nat) : Option (List Byte) :=
  (s.inForce t (s.fmtOf t)).map (fun r => readForm t (s.fmtOf t) r.body)

/-- The entries of every REPAIR record of the image's format, each once. -/
def State.repairs (s : State) : List Nat :=
  ((s.allRecs.filter (fun r => r.ty == 3 && r.fmt == s.fmtOf 3)).flatMap (fun r =>
    (chunks 8 (readForm 3 (s.fmtOf 3) r.body)).map ofBytesLE)).eraseDups

def State.bootctl (s : State) : BootCtl :=
  match s.inForce 1 1 with
  | none => {}
  | some r =>
    { conf := bitsAt r.body 0 1 == 1, prevValid := bitsAt r.body 1 1 == 1, trialEn := bitsAt r.body 2 1 == 1,
      boots := bitsAt r.body 3 2, secs := bitsAt r.body 5 10, confVer := BitVec.ofNat 64 (leAt r.body 8 8),
      otherVer := BitVec.ofNat 64 (leAt r.body 16 8) }

def BootCtl.body (b : BootCtl) : List Byte :=
  toBytesLE 8 (b2n b.conf + 2 * b2n b.prevValid + 4 * b2n b.trialEn + 8 * (b.boots % 4) + 32 * (b.secs % 1024)) ++
  toBytesLE 8 b.confVer.toNat ++ toBytesLE 8 b.otherVer.toNat ++ List.replicate 40 0

/-! ## Slots -/

/-- Slot A lies on FL0, slot B on FL1. -/
def State.dev (s : State) (d : Bool) : Flash := if d then s.boot.fl1 else s.boot.fl0
def State.setDev (s : State) (d : Bool) (f : Flash) : State :=
  { s with boot := if d then { s.boot with fl1 := f } else { s.boot with fl0 := f } }
def State.slotRead (s : State) (d : Bool) (a n : Nat) : List Byte := (s.dev d).at (slotBase + a) n

/-! ## Writing a record (R399, R408) -/

/-- Append a record to the current bank of a device, if it fits. -/
def Flash.append (f : Flash) (r : SetRec) : Option Flash :=
  match f.bank with
  | none => none
  | some b =>
    let e := f.scanAll.2
    if e + r.bytes.length ≤ bankSize then some (f.put (bankBase b + e) r.bytes) else none

/-- The other bank written afresh with a list of records, its header last, and the old bank erased. A device without a bank
gets bank 0. -/
def Flash.compact (f : Flash) (rs : List SetRec) : Flash :=
  let (old, gen) : Nat × Nat := match f.bank with
    | some b => (b, (f.bankGen b).getD 0 + 1)
    | none => (1, 1)
  let new := 1 - old
  let h := toBytesLE 4 0x4B4E4253 ++ toBytesLE 4 gen
  let f1 := (f.erase (bankBase new) bankSize).put (bankBase new + 32) (rs.flatMap SetRec.bytes)
  (f1.put (bankBase new) (h ++ toBytesLE 4 (crcOf h) ++ List.replicate 20 0)).erase (bankBase old) bankSize

/-- The formats of a type that records are kept in: the running image's and, in a trial, the confirmed image's; 0 is a type that an
image does not use (R401). -/
def State.liveFmts (s : State) (t : Nat) : List Nat :=
  let conf := manFmt (s.slotRead s.bootctl.conf 0 4096) t
  ((if s.boot.trial && t != 1 then [s.fmtOf t, conf] else [s.fmtOf t]).eraseDups).filter (· != 0)

/-- A record that compaction keeps: of an unknown type; REPAIR; in force. Formats no live image uses are dropped once an
image runs. -/
def State.keeps (s : State) (r : SetRec) : Bool :=
  if r.ty = 0 ∨ r.ty > 5 then true
  else if !(s.liveFmts r.ty).contains r.fmt then s.boot.man.isEmpty
  else r.ty == 3 || s.inForce r.ty r.fmt == some r

/-- One record on one device. -/
def State.storeOn (s : State) (d : Bool) (r : SetRec) : State :=
  let f := s.dev d
  if !f.writable then s
  else
    match f.append r with
    | some g => s.setDev d g
    | none =>
      let rs := (s.allRecs.filter s.keeps).eraseDups
      let g := f.compact rs
      s.setDev d ((g.append r).getD g)

/-- The next SEQ: one series over every type and both devices (Table 15.4). -/
def State.nextSeq (s : State) : Nat := s.allRecs.foldl (fun m r => max m (r.seq + 1)) 1

/-- A record of a format on both devices. -/
def State.storeRec (s : State) (t fmt : Nat) (body : List Byte) : State :=
  let r : SetRec := { ty := t, fmt := fmt, seq := s.nextSeq, body := formOf t fmt body }
  (s.storeOn false r).storeOn true r

/-- A change to a record: written in every live format (R408). -/
def State.writeRec (s : State) (t : Nat) (body : List Byte) : State :=
  (s.liveFmts t).foldl (fun s fmt => s.storeRec t fmt body) s

def State.writeBootctl (s : State) (b : BootCtl) : State := s.storeRec 1 1 b.body

/-- DOMAIN from the settings in force (R400). -/
def State.domainBody (s : State) : List Byte :=
  let c := s.reg 0x50020
  toBytesLE 8 (fld (s.reg Reg.fabCfg) 0 2 + 4 * fld c 0 7 + 512 * fld c 7 16) ++ toBytesLE 8 (s.reg 0x50028).toNat

/-- MARGIN from the clusters in force. -/
def State.marginBody (s : State) : List Byte := (List.range 16).flatMap (fun c => toBytesLE 8 (s.cluster c).margin.toNat)

/-- A REPAIR entry (Table 15.7). -/
def repairEntry (kind cl phys bank row spare : Nat) : Nat :=
  kind + 4 * cl + 64 * phys + 2048 * bank + 65536 * row + 2 ^ 31 * spare

/-- REPAIR entries of a cluster: its remapped vaults, its system vault, and the rows of its 18 physical vaults by bank o[15:11] and
row o[30:16]. -/
def State.clusterRepairs (s : State) (c : Nat) : List Nat :=
  (List.range 16).flatMap (fun i =>
    match (s.vaultSt (16 * c + i)).remap with
    | 2 => [repairEntry 1 c i 16 0 0]
    | 3 => [repairEntry 2 c i 16 0 0]
    | _ => []) ++
  (if Tab.get 0 s.mem.sysRemap c = 2 then [repairEntry 3 c 17 16 0 0] else []) ++
  (List.range 18).flatMap (fun p => (s.physVault c p).rows.zipIdx.map (fun (r, i) => repairEntry 0 c p (r % 32) (r / 32) i))

def State.repairBody (s : State) : List Byte := ((List.range 16).flatMap s.clusterRepairs).flatMap (toBytesLE 8)

/-- MARGIN_RECORD_WRITE (R399, R400, R408; 14 R367, 09 R223): what has changed goes to the settings flash. -/
def execMarginRecordWrite (s : State) : Out :=
  let s1 := if s.flt.marginDue then s.writeRec 4 s.marginBody else s
  let s2 := if s.flt.repairDue then s1.writeRec 3 s1.repairBody else s1
  .next { s2 with flt := { s2.flt with marginDue := false, repairDue := false } }

/-! ## Keys (R403, R409) -/

def ascii (t : String) : List Byte := t.toList.map (fun c => BitVec.ofNat 8 c.toNat)
/-- Exactly n bytes. -/
def fit (n : Nat) (b : List Byte) : List Byte := (b ++ List.replicate (n - b.length) 0).take n

/-- HMAC-SHA-384 (RFC 2104) for keys of at most 128 bytes. -/
def hmac (k m : List Byte) : List Byte :=
  let key := fit 128 k
  Config.sha384 (key.map (· ^^^ 0x5C) ++ Config.sha384 (key.map (· ^^^ 0x36) ++ m))
/-- HKDF-SHA-384 (RFC 5869) with a 32-byte output. -/
def hkdf (salt ikm info : List Byte) : List Byte := fit 32 (hmac (hmac salt ikm) (info ++ [1]))

/-- The image key of a manifest and a key block (R403). -/
def imageKey (man kb : List Byte) : Option (List Byte) :=
  let kek := hkdf (Config.sha384 man) (Config.x25519Shared (kb.take 32) ++ Config.mlkemShared ((kb.drop 32).take 1088))
    (ascii "BRF6448-KEK")
  Config.gcmOpen kek (List.replicate 12 0) [] ((kb.drop 1120).take 32) ((kb.drop 1152).take 16)

/-! ## Image checks (R401, R402) -/

def Man.nblk (m : List Byte) : Nat := le4 m 8
def Man.svn (m : List Byte) : Nat := le4 m 12
def Man.ver (m : List Byte) : W64 := BitVec.ofNat 64 (leAt m 16 8)
def Man.raise (m : List Byte) : Bool := bitsAt m 192 1 == 1
def Man.part (m : List Byte) (i : Nat) : List Byte := (m.drop (256 + 128 * i)).take 128
def Part.kind (p : List Byte) : Nat := leAt p 0 1
def Part.off (p : List Byte) : Nat := le4 p 4
def Part.len (p : List Byte) : Nat := leAt p 8 8
def Part.digest (p : List Byte) : List Byte := (p.drop 32).take 48
def Part.blocks (p : List Byte) : Nat := ceilDiv (Part.len p) 4096
def Man.parts (m : List Byte) : List (List Byte) := (List.range 5).map (Man.part m)
/-- The block after the CRC table. -/
def Man.tableEnd (m : List Byte) : Nat := 4 + ceilDiv (4 * Man.nblk m) 4096
/-- The digest of the part of a kind. -/
def Man.digestOf (m : List Byte) (kind : Nat) : List Byte :=
  match (Man.parts m).find? (fun p => Part.kind p == kind) with
  | some p => Part.digest p
  | none => List.replicate 48 0

def zeros (b : List Byte) : Bool := b.all (fun x => x == 0)

/-- Check 1 of R402. -/
def Man.ok (m : List Byte) : Bool :=
  let ps := Man.parts m
  le4 m 0 == 0x4D465A55 && leAt m 4 2 == 1 && leAt m 6 2 == 5 && decide (5 ≤ Man.nblk m) && decide (Man.nblk m ≤ 24576) &&
  decide (Man.svn m ≤ 63) && decide (le4 m 24 ≤ 1) && le4 m 28 == 0 && zeros (m.take 129 |>.drop 128) &&
  zeros ((m.drop 134).take 10) && zeros ((m.drop 144).take 112) && zeros (m.drop 896) &&
  ps.all (fun p => decide (Part.kind p ≤ 4) && zeros ((p.drop 1).take 3) && zeros (p.drop 80) &&
    decide (Man.tableEnd m ≤ Part.off p) && decide (Part.off p + Part.blocks p ≤ Man.nblk m)) &&
  (List.range 5).all (fun k => (ps.filter (fun p => Part.kind p == k)).length == 1) &&
  (List.range 5).all (fun i => (List.range i).all (fun j =>
    let p := Man.part m i
    let q := Man.part m j
    decide (Part.off p + Part.blocks p ≤ Part.off q) || decide (Part.off q + Part.blocks q ≤ Part.off p)))

/-- Check 6 of R402 on one part. -/
def partOk (rd : Nat → Nat → List Byte) (key p : List Byte) : Bool :=
  match Config.gcmOpen key (p.take 1 ++ List.replicate 11 0) (p.take 16) (rd (4096 * Part.off p) (Part.len p)) ((p.drop 16).take 16) with
  | some plain => Config.sha384 plain == Part.digest p
  | none => false

/-- The first check of R402 that an image fails: its status and a block index (log 39). -/
def imageFault (rd : Nat → Nat → List Byte) (svnMin : Nat) (revoked : BitVec 4) : Option (W16 × Nat) :=
  let m := rd 0 4096
  let n := Man.nblk m
  let sb := rd 4096 8192
  let kb := rd 12288 4096
  let tb := rd 16384 (4096 * (Man.tableEnd m - 4))
  let ed := sb.take 32
  let ml := (sb.drop 32).take 1952
  if !Man.ok m then some (Status.sigFail, 0)
  else if Config.sha384 tb != (m.drop 32).take 48 then some (Status.sigFail, 4)
  else if Config.sha384 kb != (m.drop 80).take 48 then some (Status.sigFail, 3)
  else if !(List.range 4).any (fun i => Config.sha384 (ed ++ ml) == Config.signDigest i && !revoked.getLsbD i) then
    some (Status.sigFail, 1)
  else if !(Config.ed25519Verify ed m ((sb.drop 1984).take 64) && Config.mldsaVerify ml m ((sb.drop 2048).take 3309)) then
    some (Status.sigFail, 1)
  else
    match (List.range n).find? (fun b =>
        le4 tb (4 * b) != (if decide (4 ≤ b) && decide (b < Man.tableEnd m) then 0 else crcOf (rd (4096 * b) 4096))) with
    | some b => some (Status.crcFail, b)
    | none =>
      match imageKey m kb with
      | none => some (Status.sigFail, 3)
      | some key =>
        match (Man.parts m).find? (fun p => !partOk rd key p) with
        | some p => some (Status.sigFail, Part.off p)
        | none =>
          if Man.digestOf m 4 != Config.lakeDigest then
            some (Status.sigFail, match (Man.parts m).find? (fun p => Part.kind p == 4) with | some p => Part.off p | none => 0)
          else if Man.svn m < svnMin then some (Status.svnLow, 0)
          else none

/-- Verify a slot: a slot on a failed device does not verify (R389). -/
def State.slotFault (s : State) (d : Bool) : Option W16 :=
  if !(s.dev d).up then some Status.crcFail
  else (imageFault (s.slotRead d) s.boot.svnMin s.boot.revoked).map (fun e => e.1)

end Sys2Proof.Machine
end

