-- ==== Sys2Proof/Machine/Boot.lean ====
section
/-! DEFINITION. Start-up, the domain, firmware update, attestation and resets (15 R384 to R395, R404 to R412). -/
namespace Sys2Proof.Machine

/-- Milliseconds and seconds in reference periods. -/
def sec : Nat := 1000 * msec
/-- UNIT of the management core. -/
def mgmtUnit : W16 := Unit.iod 0x50

/-! ## Resets (R384, R385) -/

/-- Every register at its reset value, identity forgotten, memory undefined (log 1, log 38). Kept are the flash devices, the fuses,
the pins and supplies, and what the sensors show. -/
def State.hardReset (s : State) (released fell : Bool) : State :=
  let dev (f : Flash) : Flash := { byte := f.byte }
  { pending := s.pending, now := s.now, drawn := s.drawn, mem := { ue := s.mem.ue },
    boot := { released := released, relAt := s.now, since := s.now, fellBack := fell, fl0 := dev s.boot.fl0, fl1 := dev s.boot.fl1,
              svnMin := s.boot.svnMin, revoked := s.boot.revoked },
    flt := { cluster := (List.range 16).foldl (fun m c => Tab.put {} m c
               { lastWin := s.now, slotAt := s.now, tj := (s.cluster c).tj, td := (s.cluster c).td }) [],
             hbAt := s.now, masterAt := s.now },
    pwr := { s.pwr with kp := 0, low := 0, peak := 0, ir := if released then 1 else s.pwr.ir } }

/-! ## Boot stages (R387 to R391) -/

/-- A stage begins. -/
def State.toStage (s : State) (n : Nat) : State := { s with boot := { s.boot with stage := n, since := s.now } }

/-- The port's transmitters start. -/
def State.wake (s : State) (p : PortId) : State := s.updPort p (fun x => { x with live := true, since := s.now, subSince := s.now })
def fabPorts : List PortId := (List.range 16).map (fun n => PortId.fab (BitVec.ofNat 4 n))

/-- A device's outcome of the FLASH stage: failed or absent, single without SFDP, single, quad, octal DDR (R388). -/
def Flash.found (f : Flash) (a : Nat) : Flash :=
  { f with mode := if a ≤ 1 then a else min 3 (a - 1), ro := decide (a = 1), tries := 0 }

/-- Two verifying records of one type, format and SEQ whose bodies differ (R398). -/
def State.tieTypes (s : State) : List Nat :=
  (List.range 6).filter (fun t =>
    s.boot.fl0.recs.any (fun r => r.ty == t && s.boot.fl1.recs.any (fun q =>
      q.ty == t && q.fmt == r.fmt && q.seq == r.seq && q.body != r.body)))

/-- A record in force that one of two writable devices lacks is copied onto it (R399). -/
def State.evenRecs (s : State) : State :=
  if !(s.boot.fl0.writable && s.boot.fl1.writable) then s
  else
    let rs := s.allRecs.filter (fun r => decide (1 ≤ r.ty ∧ r.ty ≤ 5) && (r.ty == 3 || s.inForce r.ty r.fmt == some r))
    rs.foldl
      (fun s r =>
        [false, true].foldl
          (fun s d => if (s.dev d).recs.any (fun q => q.ty == r.ty && q.fmt == r.fmt && q.seq == r.seq) then s else s.storeOn d r) s) s

/-- The SETTINGS stage (R392, R398). -/
def State.settings (s : State) : State :=
  let s1 := s.tieTypes.foldl (fun s t => s.notice (Unit.iod 0x51) (BitVec.ofNat 64 t)) s
  let s2 := s1.evenRecs
  match s2.setting 2 with
  | some b =>
    ((s2.setReg Reg.fabCfg (at64 0 2 (bitsAt b 0 2))).setReg 0x50020 (at64 0 7 (bitsAt b 2 7) ||| at64 7 16 (bitsAt b 9 16))).setReg 0x50028
      (BitVec.ofNat 64 (leAt b 8 8))
  | none => ((s2.setReg Reg.fabCfg 0).setReg 0x50020 (setFld (s2.reg 0x50020) 0 7 1)).setReg 0x50028 0

/-- SVN fuses are blown up to the image's SVN where its manifest asks for it (R406). -/
def State.raiseSvn (s : State) (man : List Byte) : State :=
  if Man.raise man then { s with boot := { s.boot with svnMin := max s.boot.svnMin (Man.svn man) } } else s

/-- At the first trial boot a record in the trial image's format is written for each type that has none (R408). -/
def State.convertRecs (s : State) (old : List Byte) : State :=
  [2, 3, 4, 5].foldl
    (fun s t =>
      let f := s.fmtOf t
      if f = 0 ∨ s.allRecs.any (fun r => r.ty == t && r.fmt == f) then s
      else if t = 3 then
        let es := ((s.allRecs.filter (fun r => r.ty == 3 && r.fmt == manFmt old 3)).flatMap (fun r => readForm 3 r.fmt r.body))
        if es.isEmpty then s else s.storeRec 3 f es
      else
        match s.inForce t (manFmt old t) with
        | some r => s.storeRec t f (readForm t r.fmt r.body)
        | none => s) s

/-- A verified slot is loaded and runs; from here the ports train (R387). -/
def State.runSlot (s : State) (d trial : Bool) : State :=
  let man := s.slotRead d 0 4096
  let conf := s.slotRead (!d) 0 4096
  let s1 : State := { s with boot := { s.boot with slot := d, trial := trial, man := man, upd := if trial then 4 else 0, trialAt := s.boot.relAt } }
  let s2 := if trial then s1.convertRecs conf else s1.raiseSvn man
  ([PortId.pxu, .pxd] ++ fabPorts).foldl State.wake (s2.toStage 4)

/-- BOOT_STAT.STATUS, and whether this boot fell back. -/
def State.bootStatus (s : State) (st : W16) (fell : Bool) : State :=
  { s with boot := { s.boot with status := st, fellBack := fell, tell := fell } }

/-- No slot can be booted: RECOVERY, with the fabric silent (R391). -/
def State.toRecovery (s : State) (st : W16) : State :=
  let s1 : State := { s with boot := { s.boot with man := [], trial := false, upd := 0, status := st } }
  [PortId.pxu, .pxd].foldl State.wake (s1.toStage 8)

/-- R389's fall_back. -/
def State.fallBack (s : State) : State :=
  let b := s.bootctl
  let s1 := s.writeBootctl { b with trialEn := false, prevValid := false }
  match s1.slotFault b.conf with
  | none => (s1.runSlot b.conf false).bootStatus Status.imageFallback true
  | some e => { s1.toRecovery e with boot := { (s1.toRecovery e).boot with fellBack := true } }

/-- The end of the IMAGE stage: the slot to boot (R389, R390). -/
def State.imageStage (s : State) : State :=
  let b := s.bootctl
  if b.trialEn then
    if b.boots = 3 ∨ b.secs ≥ 900 then s.fallBack
    else
      let s1 := s.writeBootctl { b with boots := b.boots + 1, secs := min 900 (b.secs + 60) }
      match s1.slotFault (!b.conf) with
      | none => (s1.runSlot (!b.conf) true).bootStatus Status.ok false
      | some _ => s1.fallBack
  else
    match s.slotFault b.conf with
    | none =>
      (s.runSlot b.conf false).bootStatus (if s.boot.fellBack then Status.imageFallback else Status.ok) s.boot.fellBack
    | some e =>
      if b.prevValid then
        match s.slotFault (!b.conf) with
        | none => (s.runSlot (!b.conf) false).bootStatus Status.imageFallback true
        | some e2 => s.toRecovery e2
      else s.toRecovery e

/-- One REPAIR entry applied (Table 15.7): a row of a physical vault, or a vault's new position. -/
def State.applyRepair (s : State) (e : Nat) : State :=
  let kind := e % 4
  let cl := e / 4 % 16
  let phys := e / 64 % 32
  let bank := e / 2048 % 32
  let v := 16 * cl + phys % 16
  if kind = 0 then
    let x := s.physVault cl phys
    let row := e / 65536 % 2 ^ 15 * 32 + bank
    if x.rows.contains row then s else s.setPhys cl phys { x with rows := x.rows ++ [row] }
  else if kind = 3 then
    { s with mem := { s.mem with reserve := Tab.put 0 s.mem.reserve cl 17, sysRemap := Tab.put 0 s.mem.sysRemap cl 2 } }
  else
    let s1 := s.setVault v { s.vaultSt v with remap := kind + 1, phys := some bank }
    { s1 with mem := { s1.mem with reserve := Tab.put 0 s1.mem.reserve cl (1 + phys % 16) } }

def State.applyRepairs (s : State) : State := s.repairs.foldl State.applyRepair s

/-- Position p out of service, its role taken by a cover (14 R366). -/
def Cluster.withdraw (x : Cluster) (p : Nat) : Cluster :=
  let sp := x.posOf .spare
  let mo := x.posOf .mordant
  match x.role p with
  | .work i =>
    if sp < 18 then (x.setRole p .retired).setRole sp (.work i)
    else if mo < 18 then { (x.setRole p .retired).setRole mo (.work i) with noMordant := true }
    else x.setRole p .retired
  | .mordant => if sp < 18 then (x.setRole p .retired).setRole sp .mordant else { x.setRole p .retired with noMordant := true }
  | _ => x.setRole p .retired

/-- The margin record applied to cluster c (14 R367). -/
def Cluster.applyMargin (x : Cluster) (e : Nat) : Cluster :=
  let y := { x with fsteps := e % 8, vsteps := e / 8 % 4, levels := (List.range 18).map (fun p => e / 2 ^ (23 + 2 * p) % 4) }
  ((List.range 18).filter (fun p => (e / 2 ^ (5 + p)).testBit 0)).foldl Cluster.withdraw y

/-- A cluster without 16 working positions is a loss of the module (14 R366). -/
def Cluster.short (x : Cluster) : Bool := !(List.range 16).all (fun i => decide (x.posOf (.work i) < 18))

def State.applyMargins (s : State) : State :=
  match s.setting 4 with
  | none => s
  | some b =>
    let s1 := (List.range 16).foldl (fun s c => (s.updCluster c (fun x => x.applyMargin (leAt b (8 * c) 8))).applyTrim c) s
    if (List.range 16).any (fun c => (s1.cluster c).short) then s1.declareSelf else s1

/-- One position of cluster c tested from the opening of its window to its outcome (14 R362 to R364). -/
def State.testOne (s : State) (c p : Nat) (pass : Bool) : State :=
  if (s.cluster c).gone p || (s.cluster c).role p == .reserved then s
  else ((s.openAt c p none false).clearPosition c).testOutcome c pass

/-- The trial self-test (R405): images with a CRC mismatch, failing adders, and the positions that fail in the test of every
position of every cluster. It passes with none of the first two and no loss of capacity. -/
def State.trialTest (s : State) (imgs : List ImgPart) (adds : List AddUnit) (bad : List (BitVec 4 × BitVec 5)) : State × Bool :=
  let s1 := adds.foldl State.adderBad (imgs.foldl State.imageBad s)
  let s2 := (List.range 16).foldl (fun s c =>
    (s.cluster c).rotation.foldl (fun s p => s.testOne c p (!bad.contains (BitVec.ofNat 4 c, BitVec.ofNat 5 p))) s) s1
  (s2, imgs.isEmpty && adds.isEmpty && !s2.flt.fenced)

/-- BOOT_STAGE_END (R387 to R392, R405): a stage ends and the next begins. `a` and `b` are what the FLASH stage finds; `imgs`, `adds`
and `bad` what a trial self-test finds. -/
def execBootStageEnd (a b : BitVec 3) (imgs : List ImgPart) (adds : List AddUnit) (bad : List (BitVec 4 × BitVec 5)) (s : State) : Out :=
  if !s.boot.released then .next s
  else
    match s.boot.stage with
    | 0 => .next (s.toStage 1)
    | 1 => .next (({ s with boot := { s.boot with fl0 := s.boot.fl0.found a.toNat, fl1 := s.boot.fl1.found b.toNat } } : State).toStage 2)
    | 2 => .next (s.settings.toStage 3)
    | 3 => .next s.imageStage
    | 4 => .next (s.applyRepairs.toStage 5)
    | 5 =>
      let s1 := s.applyMargins
      if s.boot.trial then
        match s1.trialTest imgs adds bad with
        | (s2, true) => .next (({ s2 with boot := { s2.boot with selfOk := true } } : State).toStage 6)
        | (s2, false) => .next s2.fallBack
      else .next (s1.toStage 6)
    | 6 => if (s.port .pxu).st = .active then .next (s.toStage 7) else .next s
    | _ => .next s

/-- A read of a device fails: up to 3 retries in a mode, then the next lower mode, then the device has failed (R388). -/
def Flash.readFails (f : Flash) : Flash :=
  if f.tries < 3 then { f with tries := f.tries + 1 } else { f with tries := 0, mode := f.mode - 1 }

/-- FLASH_READ_TIMEOUT (R388): device d. -/
def execFlashReadTimeout (d : Bool) (s : State) : Out :=
  let f := s.dev d
  if !f.up then .next s
  else
    let s1 := s.setDev d f.readFails
    .next (if (s1.dev d).up then { s1 with boot := { s1.boot with retries := min 0xFFFF (s1.boot.retries + 1) } } else s1)

/-- FLASH_WRITE_TIMEOUT (R388). -/
def execFlashWriteTimeout (d : Bool) (s : State) : Out :=
  if (s.dev d).up then .next (s.setDev d { s.dev d with ro := true }) else .next s

/-! ## The domain (R392, R393) -/

/-- DOM_CFG and DOM_EXPECT. -/
def State.domExpect (s : State) : W64 := s.reg 0x50028
def State.domMin (s : State) : Nat := fld (s.reg 0x50020) 0 7
def State.formTo (s : State) : Nat := fld (s.reg 0x50020) 7 16

def popcount (w : W64) : Nat := ((List.range 64).filter (fun i => bit w i)).length

/-- The modules present, as the master knows them: itself, and those it finds aligned and reachable (R393). -/
def State.presentNow (s : State) : W64 :=
  (List.range 64).foldl
    (fun w m =>
      let id : BitVec 12 := BitVec.ofNat 12 (64 * domainOf s.ownIdent + m)
      if m = s.modNumber ∨ (s.stb.alignedSet.contains id ∧ (s.towards m).isSome = true ∧ s.isFailed id = false) then w ||| at64 m 1 1 else w) 0

/-- This module decides for the domain. -/
def State.domMaster (s : State) : Bool :=
  s.host.ident.isSome && s.isMaster && s.boot.stage == 7 && fld (s.reg Reg.fabCfg) 0 2 != 0 && !s.flt.fenced

/-- Take a domain state as decided. -/
def State.setDom (s : State) (st : Nat) (present : W64) : State :=
  { s with dom := { s.dom with st := st, present := present, decided := true,
                               status := if st = 4 then Status.domainIncomplete else Status.ok } }

/-- The master decides and floods (R393). -/
def State.decideDom (s : State) (p : W64) : State :=
  let e := s.domExpect
  let st := if e &&& p = e then 2 else if popcount (e &&& p) ≥ s.domMin then 3 else 4
  let s1 := (s.setDom st p).sendAll (s.stb.known.filter (fun d => domainOf d == domainOf s.ownIdent)) (.domain st p)
  if st = 4 then s1.log Cls.notice 0 Status.domainIncomplete mgmtUnit (s1.host.ident.getD 0) p else s1

/-- DOMAIN_DECISION (R393): DOM_PRESENT has changed. Before the first decision only the full set decides. -/
def execDomainDecision (s : State) : Out :=
  if !s.domMaster then .next s
  else
    let p := s.presentNow
    let all := decide (s.domExpect &&& p = s.domExpect)
    if s.dom.decided then (if p = s.dom.present then .next s else .next (s.decideDom p))
    else if all then .next (s.decideDom p)
    else .next { s with dom := { s.dom with present := p } }

/-- A request for a decision reaches the module (R393). -/
def State.formGo (s : State) : State :=
  if s.domMaster then (if s.dom.st = 2 then s else s.decideDom s.presentNow)
  else if s.host.ident.isSome && fld (s.reg Reg.fabCfg) 0 2 != 0 && !s.isMaster then s.sendMsg s.master .formGo
  else s

/-- FORM_TIMEOUT (R393). -/
def execFormTimeout (s : State) : Out :=
  if s.domMaster && !s.dom.decided && decide (s.now - s.dom.electAt ≥ s.formTo * msec) then .next (s.decideDom s.presentNow) else .next s

/-- A write to DOM_CFG or DOM_EXPECT (R412). -/
def State.writeDom (s : State) (o : Nat) (w : W64) : Option State :=
  if s.dom.st > 1 then none
  else if o = 0x50028 then some (s.setReg o w)
  else if fld w 0 7 < 1 ∨ 64 < fld w 0 7 ∨ fld w 7 16 = 0 then none
  else some (s.setReg o (w &&& 0x7FFFFF#64))

/-- DOM_CFG_WRITE (R412). -/
def execDomCfgWrite (k : Packet) (s : State) : Out :=
  .next (s.regWr k (fun o => o == 0x50020 || o == 0x50028) (fun s o w => s.writeDom o w))

/-- DOM_FORM_GO (R393, R412). -/
def execDomFormGo (k : Packet) (s : State) : Out :=
  .next (s.regWr k (fun o => o == 0x50040) (fun s _ w =>
    if fld w 1 63 ≠ 0 then none else some (if bit w 0 then s.formGo else s)))

/-! ## Firmware update (R404 to R407) -/

/-- The image's address, and its bytes in memory. -/
def State.updSrc (s : State) : Nat := (s.reg 0x50100).toNat
def State.updRead (s : State) (a n : Nat) : List Byte := s.peek (s.updSrc + a) n
/-- NBLK as the image in memory gives it, held to its range. -/
def State.updBlocks (s : State) : Nat := min 24576 (le4 (s.updRead 0 12) 8)

/-- A write to UPD_SRC: the range of the smallest image lies in one tier (log 39). -/
def State.writeUpdSrc (s : State) (w : W64) : Option State :=
  let a := fld w 0 42
  if (s.boot.upd = 0 ∨ s.boot.upd = 2) ∧ a % 4096 = 0 ∧ inOneTier a (5 * 4096) = true then some (s.setReg 0x50100 (at64 0 42 a)) else none

/-- UPD_SRC_WRITE (R412). -/
def execUpdSrcWrite (k : Packet) (s : State) : Out :=
  .next (s.regWr k (fun o => o == 0x50100) (fun s _ w => s.writeUpdSrc w))

/-- An accepted command: its state, the status cleared. -/
def State.updTo (s : State) (u : Nat) : State :=
  { s with boot := { s.boot with upd := u, updStatus := Status.ok, failBlk := 0 } }

/-- A write of command n to UPD_CTL, taken by its row. -/
def State.updCtl (s : State) (k : Packet) (n : Nat) (f : State → Option State) : State :=
  if Packet.qw k = BitVec.ofNat 64 n then s.regWr k (fun o => o == 0x50108) (fun s _ _ => f s) else s

/-- PROGRAM (R404): accepted in IDLE or STAGED; PREV_VALID is cleared first. -/
def execProgram (k : Packet) (s : State) : Out :=
  .next (s.updCtl k 1 (fun s =>
    if s.boot.upd ≠ 0 ∧ s.boot.upd ≠ 2 then none
    else
      let b := s.bootctl
      let slot := if s.recovery ∧ b.prevValid = false then b.conf else !b.conf
      let s1 := s.writeBootctl { b with prevValid := false, otherVer := 0 }
      some (({ s1 with boot := { s1.boot with updSlot := slot } } : State).updTo 1)))

/-- PROGRAM ends with an error. -/
def State.updFails (s : State) (st : W16) (blk : Nat) : State :=
  { s with boot := { s.boot with upd := 0, updStatus := st, failBlk := blk } }

/-- The first block of the image in memory that holds an uncorrectable granule. -/
def State.updUe (s : State) : Option Nat :=
  (List.range s.updBlocks).find? (fun b =>
    (List.range 64).any (fun g => match s.addrLoc (s.updSrc + 4096 * b + 64 * g) with | some l => s.isUe l | none => true))

/-- PROGRAM_COMPLETE (R404): the image in memory is checked, written to the slot and read back; `ok` says whether every block read
back well, `blk` the first that did not. -/
def execProgramComplete (ok : Bool) (blk : BitVec 15) (s : State) : Out :=
  if s.boot.upd ≠ 1 then .next s
  else
    match s.updUe, imageFault s.updRead s.boot.svnMin s.boot.revoked with
    | some b, _ => .next (s.updFails Status.crcFail b)
    | none, some (st, b) => .next (s.updFails st b)
    | none, none =>
      let d := s.boot.updSlot
      let f := s.dev d
      if !f.writable then .next (s.updFails Status.crcFail 0)
      else
        let s1 := s.setDev d ((f.erase slotBase slotSize).put slotBase (s.updRead 0 (4096 * s.updBlocks)))
        if ok then .next (s1.updTo 2) else .next (s1.updFails Status.crcFail blk.toNat)

/-- ACTIVATE (R404): the next boot is a trial; in RECOVERY the image is confirmed at once. -/
def execActivate (k : Packet) (s : State) : Out :=
  .next (s.updCtl k 2 (fun s =>
    if s.boot.upd ≠ 2 then none
    else
      let b := s.bootctl
      let v := Man.ver (s.slotRead s.boot.updSlot 0 4096)
      if s.recovery then
        some ((s.writeBootctl { b with conf := s.boot.updSlot, prevValid := false, trialEn := false, confVer := v, otherVer := 0 }).updTo 0)
      else some ((s.writeBootctl { b with trialEn := true, boots := 0, secs := 0, otherVer := v }).updTo 3)))

/-- CONFIRM (R406). -/
def execConfirm (k : Packet) (s : State) : Out :=
  .next (s.updCtl k 3 (fun s =>
    if s.boot.upd ≠ 4 ∨ s.boot.selfOk = false ∨ s.recovery = true then none
    else
      let b := s.bootctl
      let s1 := s.writeBootctl { b with conf := s.boot.slot, prevValid := true, trialEn := false, boots := 0, secs := 0,
                                        confVer := Man.ver s.boot.man, otherVer := b.confVer }
      let s2 := s1.raiseSvn s1.boot.man
      some (({ s2 with boot := { s2.boot with trial := false } } : State).updTo 0)))

/-- CANCEL (R404). -/
def execCancel (k : Packet) (s : State) : Out :=
  .next (s.updCtl k 4 (fun s =>
    if (s.boot.upd ≠ 2 ∧ s.boot.upd ≠ 3) ∨ s.recovery = true then none
    else some ((s.writeBootctl { s.bootctl with trialEn := false }).updTo 0)))

/-- SAVE_DOMAIN (R412): the record is written at once. -/
def execSaveDomain (k : Packet) (s : State) : Out :=
  .next (s.updCtl k 5 (fun s =>
    if s.boot.upd ≠ 0 ∨ s.recovery = true then none else some ((s.writeRec 2 s.domainBody).updTo 0)))

/-- TRIAL_TIMER (R407): 60 s more of a trial. -/
def execTrialTimer (s : State) : Out :=
  if s.boot.trial ∧ s.boot.upd = 4 ∧ s.boot.fallAt = none ∧ s.now - s.boot.trialAt ≥ 60 * sec then
    let b := s.bootctl
    let s1 := s.writeBootctl { b with secs := min 900 (b.secs + 60) }
    .next { s1 with boot := { s1.boot with trialAt := s1.boot.trialAt + 60 * sec } }
  else .next s

/-- TRIAL_FALLBACK (R407): BOOTCTL and the fence first; 100 ms later the reset. -/
def execTrialFallback (s : State) : Out :=
  match s.boot.fallAt with
  | some t => if s.now - t ≥ 100 * msec then .next (s.hardReset true true) else .next s
  | none =>
    let b := s.bootctl
    if s.boot.trial ∧ s.boot.upd = 4 ∧ b.secs ≥ 900 then
      let s1 := (s.writeBootctl { b with trialEn := false, prevValid := false }).fence
      .next { s1 with boot := { s1.boot with fallAt := some s1.now } }
    else .next s

/-! ## Attestation (R409 to R411) -/

/-- The manifest that is measured (log 39). -/
def State.measured (s : State) : List Byte := if s.boot.man.isEmpty then fit 4096 Config.noManifest else s.boot.man

/-- M0 to M6 (Table 15.13). -/
def State.measures (s : State) : List Byte :=
  let m := s.measured
  fit 48 Config.romDigest ++ fit 48 (Config.sha384 m) ++ (List.range 5).flatMap (fun k => fit 48 (Man.digestOf m k))

def zeroSalt : List Byte := List.replicate 48 0
/-- Seeds (R409). -/
def devSeed (info : String) : List Byte := hkdf zeroSalt Config.deviceSecret (ascii info)
def State.cdi (s : State) : List Byte := hkdf (Config.sha384 s.measures) Config.deviceSecret (ascii "CDI")
def State.aliasSeed (s : State) (info : String) : List Byte := hkdf zeroSalt s.cdi (ascii info)

/-- A certificate or report with both signatures over its first bytes. -/
def signed (ed ml msg : List Byte) : List Byte :=
  msg ++ fit 64 (Config.ed25519Sign ed msg) ++ fit 3309 (Config.mldsaSign ml msg) ++ List.replicate 19 0

/-- The alias certificate (Table 15.12). -/
def State.aliasCert (s : State) : List Byte :=
  let ed := devSeed "DEVID-ED"
  let ml := devSeed "DEVID-MLDSA"
  signed ed ml
    ([1, 0, 1] ++ List.replicate 5 0 ++ toBytesLE 8 Config.deviceNumber.toNat ++
      fit 48 (Config.sha384 (fit 32 (Config.ed25519Public ed) ++ fit 1952 (Config.mldsaPublic ml))) ++
      fit 48 (Config.sha384 s.measures) ++ List.replicate 16 0 ++
      fit 32 (Config.ed25519Public (s.aliasSeed "ALIAS-ED")) ++ fit 1952 (Config.mldsaPublic (s.aliasSeed "ALIAS-MLDSA")))

/-- M7: the bodies of DOMAIN, REPAIR and MARGIN in force. -/
def State.m7 (s : State) : List Byte :=
  Config.sha384 ((s.setting 2).getD [] ++ s.repairs.flatMap (toBytesLE 8) ++ (s.setting 4).getD [])

def State.retiredCount (s : State) : Nat := (List.range 16).foldl (fun n c => n + (s.cluster c).retired) 0
def State.remapCount (s : State) : Nat := ((List.range 256).filter (fun v => decide ((s.vaultSt v).remap ≥ 2))).length

/-- The attestation report for a nonce (Table 15.13). -/
def State.report (s : State) (nonce : List Byte) : List Byte :=
  let m := s.measured
  signed (s.aliasSeed "ALIAS-ED") (s.aliasSeed "ALIAS-MLDSA")
    ([1, 0] ++ toBytesLE 2 (b2n s.boot.trial + 2 * b2n s.boot.fellBack + 4 * b2n s.recovery) ++ toBytesLE 4 (Man.svn m) ++
      toBytesLE 8 Config.deviceNumber.toNat ++ toBytesLE 8 (Man.ver m).toNat ++ toBytesLE 2 (s.host.ident.getD 0).toNat ++
      List.replicate 6 0 ++ fit 32 nonce ++ s.measures ++ fit 48 s.m7 ++
      toBytesLE 2 s.retiredCount ++ toBytesLE 2 s.remapCount ++ toBytesLE 1 s.boot.svnMin ++ List.replicate 59 0 ++
      fit 5504 ((s.setting 5).getD Config.noCert) ++ s.aliasCert)

/-- The nonce registers. -/
def State.nonce (s : State) : List Byte := (List.range 4).flatMap (fun i => toBytesLE 8 (s.reg (0x50220 + 8 * i)).toNat)

/-- ATT_CTL_GO (R411, R412). -/
def execAttCtlGo (k : Packet) (s : State) : Out :=
  .next (s.regWr k (fun o => o == 0x50200) (fun s _ w =>
    let a := fld w 0 42
    if fld w 43 21 ≠ 0 then none
    else if !bit w 42 then some s
    else if s.boot.att.isSome ∨ a % 32 ≠ 0 ∨ inOneTier a 14912 = false ∨ (s.recovery = true ∧ inOuter a = false) then none
    else some { s with boot := { s.boot with att := some (a, s.nonce), attDone := false, attStatus := Status.ok } }))

/-- ATT_REPORT_DONE (R411); a partial write of an uncorrectable granule is refused (09 R226). -/
def execAttReportDone (s : State) : Out :=
  match s.boot.att with
  | none => .next s
  | some (a, n) =>
    let (s1, bad) := s.writeRef (.addr a) (s.report n)
    .next { s1 with boot := { s1.boot with
      att := none, attDone := true, attStatus := if bad.isSome then Status.memUncorrectable else s1.boot.attStatus } }

/-! ## Registers (Table 15.15) -/

def State.bootStat (s : State) : W64 :=
  let b := s.boot
  let c := s.bootctl
  at64 0 4 b.stage ||| at64 4 1 (b2n b.slot) ||| at64 5 1 (b2n b.trial) ||| at64 6 1 (b2n b.fellBack) ||| at64 7 1 (b2n b.selfOk) |||
  at64 8 16 b.status.toNat ||| at64 24 2 c.boots ||| at64 26 10 c.secs

def State.flashStat (s : State) : W64 :=
  at64 0 2 s.boot.fl0.mode ||| at64 2 2 s.boot.fl1.mode ||| at64 4 1 (b2n s.boot.fl0.ro) ||| at64 5 1 (b2n s.boot.fl1.ro) |||
  at64 16 16 s.boot.retries

def State.domStat (s : State) : W64 :=
  at64 0 3 s.dom.st ||| at64 3 7 (popcount (s.domExpect &&& s.dom.present)) ||| at64 16 16 s.dom.status.toNat

/-- UPD_STAT; `pct` is its progress while PROGRAM runs, which the spec does not state (log 3). -/
def State.updStat (s : State) (pct : W64) : W64 :=
  at64 0 3 s.boot.upd ||| at64 3 7 (if s.boot.upd = 1 then pct.toNat % 101 else if s.boot.upd = 2 then 100 else 0) |||
  at64 16 16 s.boot.updStatus.toNat ||| at64 32 32 s.boot.failBlk

def State.attStat (s : State) : W64 :=
  at64 0 1 (b2n s.boot.att.isSome) ||| at64 1 1 (b2n s.boot.attDone) ||| at64 16 16 s.boot.attStatus.toNat

end Sys2Proof.Machine
end

