-- ==== Sys2Proof/Machine/Power.lean ====
section
/-! DEFINITION. Power sequencing, input faults, throttling, the thermal trip, the SMBus sideband and JTAG (15 R383 to R386;
16 R414 to R434). -/
namespace Sys2Proof.Machine

/-! ## Power domains (15 R383, 16 R419 to R421) -/

/-- The domains of power-up group g, 0 to 57 (R421). -/
def groupDomains (g : Nat) : List Nat :=
  if g = 0 then [61, 62, 63]
  else if g = 1 then [56, 57, 58, 59, 60]
  else
    let d := (g - 2) / 28
    let k := (g - 2) % 28
    [28 * d + (match k with | 0 => 27 | 1 => 24 | 2 => 25 | 3 => 26 | _ => 3 * ((k - 4) / 3) + (2 - (k - 4) % 3))]

/-- PD_STAT.STATE of a list of domains. -/
def PwrSt.setPd (p : PwrSt) (l : List Nat) (v : Nat) : PwrSt := { p with pd := l.foldl (fun m i => Tab.put 2 m i v) p.pd }
def PwrSt.misc (p : PwrSt) : Bool := Tab.get 2 p.pd 62 == 2

/-- The sequence of R383 begins. -/
def State.powerUp (s : State) : State :=
  { s with pwr := { ((s.pwr.setPd (List.range 64) 0).setPd (groupDomains 0) 1) with groups := 0, groupAt := s.now } }

/-- MOD_PWR_EN_RISE (R383, R414, R417): after a loss of the input only where the pin was low for 10 ms. -/
def execModPwrEnRise (s : State) : Out :=
  if s.pwr.en then .next s
  else
    let again := s.pwr.inputFault && decide (s.now - s.pwr.lowAt < 10 * msec)
    let s1 : State := { s with pwr := { s.pwr with en := true, enAt := s.now, inputFault := again } }
    .next (if again || !s.pwr.vinOk then s1 else s1.powerUp)

/-- POWER_GROUP_IN_LIMITS (R383, R421, R425): the next group starts; after the last MOD_PGOOD rises. `adr` is what SMB_ADR2 to
SMB_ADR0 show, sampled as MISC comes on. -/
def execPowerGroupInLimits (adr : BitVec 3) (s : State) : Out :=
  let p := s.pwr
  if !p.en ∨ p.upFail ∨ p.inputFault ∨ p.trip ∨ p.pgood ∨ p.groups ≥ 58 ∨ Tab.get 2 p.pd ((groupDomains p.groups).headD 0) ≠ 1 then .next s
  else
    let q := p.setPd (groupDomains p.groups) 2
    let r := { q with groups := p.groups + 1, groupAt := s.now, adr := if p.groups = 0 then adr else p.adr }
    .next { s with pwr := if p.groups = 57 then { r with pgood := true } else r.setPd (groupDomains (p.groups + 1)) 1 }

/-- POWER_GROUP_TIMEOUT (R383, R421): domain d of the group is the lowest that is not inside its limits after 1.5 ms. -/
def execPowerGroupTimeout (d : BitVec 6) (s : State) : Out :=
  let p := s.pwr
  if !p.en ∨ p.upFail ∨ p.pgood ∨ p.groups ≥ 58 ∨ Tab.get 2 p.pd d.toNat ≠ 1 ∨ s.now - p.groupAt < 3 * msec / 2 then .next s
  else .next { s with pwr := { p.setPd [d.toNat] 3 with upFail := true, failed := some (p.failed.getD d.toNat) } }

/-- EFFECTIVE_RELEASE (R384, R427): the module leaves reset into the ROM stage; the TAP is in Test-Logic-Reset. -/
def execEffectiveRelease (s : State) : Out :=
  if s.boot.released ∨ !s.pwr.en ∨ !s.pwr.pgood ∨ s.pwr.trip ∨ s.pwr.inputFault then .next s
  else .next { s.hardReset true false with pwr := { (s.hardReset true false).pwr with rstN := true } }

/-- MOD_RST_N_PULSE (R385, R425): a low of `ns`; one of 200 ns to 1 µs resets where `take`. -/
def execModRstNPulse (ns : Nat) (take : Bool) (s : State) : Out :=
  if ns < 200 ∨ (ns < 1000 ∧ take = false) then .next s
  else .next { s.hardReset false false with pwr := { (s.hardReset false false).pwr with rstN := false } }

/-- The units have lost their supply: nothing is kept but the flash devices, the fuses and the sideband (R3, R386, R417, R432). -/
def State.dark (s : State) (p : PwrSt) : State := { s.hardReset false false with mem := {}, pwr := { p with kp := 0, low := 0, peak := 0 } }

/-- The sensors have lost their supply. -/
def State.blind (s : State) : State :=
  (List.range 16).foldl (fun s c => s.updCluster c (fun x => { x with tj := 0, td := 0 })) s

/-- Every domain but MISC. -/
def notMisc : List Nat := (List.range 64).filter (· != 62)

/-- MOD_PWR_EN_FALL (R386): MOD_PGOOD drops and every domain is switched off, MISC with its power monitor and TAP among them (R3). -/
def execModPwrEnFall (s : State) : Out :=
  if !s.pwr.en then .next s
  else
    .next (s.dark { s.pwr.setPd (List.range 64) 0 with
      en := false, pgood := false, trip := false, upFail := false, failed := none, groups := 0, lowAt := s.now, smb := [],
      vin := 0, pin := 0, ir := 1, dr := 0, bsr := 0 }).blind

/-- INPUT_VOLTAGE_FAULT (R417): P48 leaves its ride-through limits. -/
def execInputVoltageFault (s : State) : Out :=
  let p := { s.pwr with vinOk := false }
  if !p.en then .next { s with pwr := p }
  else
    let s1 := s.fence.dark { p.setPd notMisc 0 with pgood := false, inputFault := true, groups := 0 }
    .next { s1 with flt := { s1.flt with fenced := true } }

/-- INPUT_VOLTAGE_IN_RANGE (R417). -/
def execInputVoltageInRange (s : State) : Out :=
  let s1 : State := { s with pwr := { s.pwr with vinOk := true } }
  if s.pwr.en ∧ !s.pwr.inputFault ∧ !s.pwr.trip ∧ !s.pwr.upFail ∧ !s.pwr.pgood ∧ Tab.get 2 s.pwr.pd 62 = 0 then .next s1.powerUp
  else .next s1

/-- THERMAL_TRIP (R432): from the moment MISC is on. MOD_PGOOD stays as it is (R421). -/
def execThermalTrip (s : State) : Out :=
  if !s.pwr.misc ∨ s.pwr.trip then .next s else .next (s.dark { s.pwr.setPd notMisc 0 with trip := true })

/-- REFCLK_FAULT (R422; 14 R371): the loss of the module. -/
def execRefclkFault (s : State) : Out :=
  if s.boot.released ∧ !s.flt.fenced then .next s.declareSelf else .next s

/-! ## Throttling (R429 to R431) -/

/-- The throttle level of cluster c, and its delivered clock in MHz (14 R365). -/
def State.throttle (s : State) (c : Nat) : Nat := max (s.cluster c).kt s.pwr.kp
def State.clusterMhz (s : State) (c : Nat) : Nat := (2400 - 100 * (s.cluster c).fsteps) * (16 - s.throttle c) / 16

/-- THERMAL_LOOP_EVAL (R430): from the CLUSTERS stage on. -/
def execThermalLoopEval (c : BitVec 4) (tj td : BitVec 8) (s : State) : Out :=
  if s.boot.stage < 5 ∨ s.boot.stage = 8 then .next s
  else
    .next (s.updCluster c.toNat (fun x =>
      let y := { x with tj := tj.toNat, td := td.toNat }
      if tj.toNat ≥ 100 ∨ td.toNat ≥ 92 then { y with kt := min 8 (x.kt + 1), cool := 0 }
      else if tj.toNat ≤ 97 ∧ td.toNat ≤ 89 then
        if x.cool ≥ 9 then { y with kt := x.kt - 1, cool := 0 } else { y with cool := x.cool + 1 }
      else { y with cool := 0 }))

def State.capW (s : State) : Nat := fld (s.reg 0x60000) 0 12

/-- POWER_LOOP_EVAL (R418, R431): the input power of the last 1 ms and the input voltage. -/
def execPowerLoopEval (pin vin : W16) (s : State) : Out :=
  if !s.pwr.pgood ∨ !s.boot.released then .next s
  else
    let p := { s.pwr with pin := pin.toNat, vin := vin.toNat, peak := max s.pwr.peak pin.toNat }
    .next { s with pwr :=
      if pin.toNat > s.capW then { p with kp := min 8 (p.kp + 1), low := 0 }
      else if 100 * pin.toNat ≤ 95 * s.capW then
        if p.low ≥ 9 then { p with kp := p.kp - 1, low := 0 } else { p with low := p.low + 1 }
      else { p with low := 0 } }

/-- POWER_FAST_LIMIT (R431): the average over 20 µs exceeds CAP_W + 200 W. -/
def execPowerFastLimit (s : State) : Out :=
  if !s.pwr.pgood ∨ !s.boot.released then .next s else .next { s with pwr := { s.pwr with kp := 8, low := 0 } }

/-- PWR_CAP_WRITE (R434). -/
def execPwrCapWrite (k : Packet) (s : State) : Out :=
  .next (s.regWr k (fun o => o == 0x60000) (fun s o w =>
    let v := fld w 0 12
    if v < 1200 ∨ 2400 < v then none else some (s.setReg o (at64 0 12 v))))

/-! ## Registers (Table 16.9) -/

def State.pwrStat (s : State) : W64 :=
  at64 0 16 s.pwr.vin ||| at64 16 16 s.pwr.pin ||| at64 32 16 s.pwr.peak ||| at64 48 1 (b2n (decide (s.pwr.kp > 0)))

def State.tjMax (s : State) : Nat := (List.range 16).foldl (fun m c => max m (s.cluster c).tj) 0
def State.tdMax (s : State) : Nat := (List.range 16).foldl (fun m c => max m (s.cluster c).td) 0

/-- TEMP_STAT; the coolant temperatures in `v` are measurements the spec gives no value for (log 3). -/
def State.tempStat (s : State) (v : W64) : W64 := at64 0 8 s.tjMax ||| at64 8 8 s.tdMax ||| at64 16 16 (fld v 0 16)

/-- PD_STAT[i]; the measured voltage in `v` likewise. -/
def State.pdStat (s : State) (i : Nat) (v : W64) : W64 :=
  at64 0 2 (Tab.get 2 s.pwr.pd i) ||| at64 2 14 (fld v 0 14) |||
  at64 16 8 (if i < 56 ∧ i % 28 < 24 ∧ i % 28 % 3 = 0 then 15 * (s.cluster (8 * (i / 28) + i % 28 / 3)).trim else 0)

def State.clThr (s : State) (c : Nat) : W64 :=
  let x := s.cluster c
  at64 0 4 (s.throttle c) ||| at64 4 12 (s.clusterMhz c) ||| at64 16 8 x.tj ||| at64 24 8 x.td ||| at64 32 4 x.kt

/-! ## MOD_ALERT_N and the SMBus (R425, R426) -/

def State.pxlDown (s : State) : Bool := decide ((s.port .pxu).st = .down) || decide ((s.port .pxd).st = .down)
/-- MOD_ALERT_N is low. -/
def State.alert (s : State) : Bool := s.pxlDown || s.flt.fenced || s.pwr.upFail || s.pwr.inputFault

/-- The module holds SPI0_RST_N and SPI1_RST_N low: from the rise of MOD_PWR_EN, and from the fall of MOD_RST_N, to the start of the
FLASH stage (R428). -/
def State.spiRstLow (s : State) : Bool := s.pwr.en && (!s.boot.released || decide (s.boot.stage = 0))

/-- MOD_ID (02 Table 2.12). -/
def State.modId (s : State) : Nat := match s.host.ident with | some d => d.toNat + 4096 | none => 0

/-- CRC-8 of the SMBus: x⁸ + x² + x + 1 (PRESUMED, log 40). -/
def crc8 (bs : List Byte) : Byte :=
  bs.foldl (fun c b => (List.range 8).foldl (fun (c : Byte) _ => if c.msb then (c <<< 1) ^^^ 0x07 else c <<< 1) (c ^^^ b)) 0

/-- The interface answers a read of a command code (R426): from 20 ms after MOD_PWR_EN rose until it falls. -/
def State.smbAnswer (s : State) (code : Byte) (pec : Bool) (data : List Byte) : State :=
  if !s.pwr.en ∨ !s.pwr.misc ∨ s.now - s.pwr.enAt < 20 * msec then s
  else
    let a : Byte := 2 * (0x58 + s.pwr.adr.setWidth 8)
    { s with pwr := { s.pwr with smb := data ++ (if pec then [crc8 ([a, code, a + 1] ++ data)] else []) } }

/-- SMB_STATUS (Table 16.6). -/
def execSmbStatus (pec : Bool) (s : State) : Out :=
  let ready := s.serving && decide ((s.port .pxu).st = .active)
  .next (s.smbAnswer 0x01 pec (toBytesLE 1 (b2n s.pwr.pgood + 2 * b2n s.alert + 4 * b2n s.flt.fenced + 8 * b2n ready +
    16 * b2n s.pwr.trip + 32 * b2n s.pwr.upFail)))
/-- SMB_ALERT_CAUSE. -/
def execSmbAlertCause (pec : Bool) (s : State) : Out :=
  .next (s.smbAnswer 0x02 pec (toBytesLE 2 (b2n s.pxlDown + 2 * b2n s.flt.fenced + 4 * b2n s.pwr.upFail + 8 * b2n s.pwr.inputFault)))
/-- SMB_FAILED_DOMAIN. -/
def execSmbFailedDomain (pec : Bool) (s : State) : Out := .next (s.smbAnswer 0x03 pec (toBytesLE 1 (s.pwr.failed.getD 0xFF)))
/-- SMB_BOOT_STAT. -/
def execSmbBootStat (pec : Bool) (s : State) : Out := .next (s.smbAnswer 0x04 pec (toBytesLE 2 (fld s.bootStat 0 8)))
/-- SMB_VIN_MV. -/
def execSmbVinMv (pec : Bool) (s : State) : Out := .next (s.smbAnswer 0x10 pec (toBytesLE 2 s.pwr.vin))
/-- SMB_PIN_W. -/
def execSmbPinW (pec : Bool) (s : State) : Out := .next (s.smbAnswer 0x11 pec (toBytesLE 2 s.pwr.pin))
/-- SMB_TJ_MAX. -/
def execSmbTjMax (pec : Bool) (s : State) : Out := .next (s.smbAnswer 0x20 pec (toBytesLE 1 s.tjMax))
/-- SMB_TD_MAX. -/
def execSmbTdMax (pec : Bool) (s : State) : Out := .next (s.smbAnswer 0x21 pec (toBytesLE 1 s.tdMax))
/-- SMB_T_IN: a measurement (log 3). -/
def execSmbTIn (pec : Bool) (s : State) : Out := let (v, s1) := s.draw; .next (s1.smbAnswer 0x22 pec (toBytesLE 1 (fld v 0 8)))
/-- SMB_T_OUT: a measurement (log 3). -/
def execSmbTOut (pec : Bool) (s : State) : Out := let (v, s1) := s.draw; .next (s1.smbAnswer 0x23 pec (toBytesLE 1 (fld v 0 8)))
/-- SMB_DEVNUM: a block read, its byte count first. -/
def execSmbDevnum (pec : Bool) (s : State) : Out := .next (s.smbAnswer 0x30 pec ([8] ++ toBytesLE 8 Config.deviceNumber.toNat))
/-- SMB_MOD_ID. -/
def execSmbModId (pec : Bool) (s : State) : Out := .next (s.smbAnswer 0x31 pec (toBytesLE 2 s.modId))
/-- SMBUS_SCL_TIMEOUT (R426): the interface releases the lines and resets. -/
def execSmbusSclTimeout (s : State) : Out := .next { s with pwr := { s.pwr with smb := [] } }

/-! ## JTAG (R427): instructions 0 BYPASS, 1 IDCODE, 2 SAMPLE/PRELOAD, 3 EXTEST, 4 CLAMP, 5 HIGHZ, 6 EXTEST_PULSE, 7 EXTEST_TRAIN
(numbered by the model, log 40) -/

/-- An instruction is loaded, and what its data register captures; those that drive pins only while MOD_RST_N is low, else BYPASS. -/
def State.tap (s : State) (ir : Nat) (dr : BitVec 480) (boundary : Option (BitVec 480)) : State :=
  if !s.pwr.misc then s
  else if ir ≥ 3 ∧ s.pwr.rstN then { s with pwr := { s.pwr with ir := 0, dr := 0 } }
  else { s with pwr := { s.pwr with ir := ir, dr := dr, bsr := boundary.getD s.pwr.bsr } }

/-- BYPASS. -/
def execBypass (s : State) : Out := .next (s.tap 0 0 none)
/-- IDCODE. -/
def execIdcode (s : State) : Out := .next (s.tap 1 0x16448A5B none)
/-- SAMPLE/PRELOAD: `pins` is captured, `load` put into the boundary register. -/
def execSamplePreload (pins load : BitVec 480) (s : State) : Out := .next (s.tap 2 pins (some load))
/-- EXTEST. -/
def execExtest (pins load : BitVec 480) (s : State) : Out := .next (s.tap 3 pins (some load))
/-- CLAMP. -/
def execClamp (s : State) : Out := .next (s.tap 4 0 none)
/-- HIGHZ. -/
def execHighz (s : State) : Out := .next (s.tap 5 0 none)
/-- EXTEST_PULSE. -/
def execExtestPulse (pins load : BitVec 480) (s : State) : Out := .next (s.tap 6 pins (some load))
/-- EXTEST_TRAIN. -/
def execExtestTrain (pins load : BitVec 480) (s : State) : Out := .next (s.tap 7 pins (some load))

end Sys2Proof.Machine
end

