-- ==== Sys2Proof/Machine/Events.lean ====
section
/-! DEFINITION. Protocol messages from other modules, and the firing of step-event entries (13 R326, R338 to R343; 14 R373). -/
namespace Sys2Proof.Machine

/-! ## Protocol messages -/

/-- A protocol message of module src is handled. -/
def State.deliver (s : State) (src : BitVec 12) : Msg → State
  | .ringHash r h => s.ringHashFrom r.toNat src h
  | .ringBlock r ccw data => s.ringLand r.toNat ccw data
  | .ringPartial r data => s.ringPartialLand r.toNat data
  | .ringCredit r ccw => s.ringCredited r.toNat ccw
  | .ready ver => s.barrierMsg src (.ready ver)
  | .abandon ver cause => s.barrierMsg src (.abandon ver cause)
  | .decision ver d target => s.barrierMsg src (.decision ver d target)
  | .norm g seq v => s.collNormFrom g.toNat seq src v
  | .digest ver lanes => s.digestFrom src ver lanes
  | .collHand g seq h d => s.collHandFrom g.toNat seq src h d
  | .collPiece g seq kind rank off fs sat data => s.collPieceFrom g.toNat seq src kind rank off (Fl.ofBits fs sat) data
  | .collHeld g seq offs => s.collHeldFrom g.toNat seq src offs
  | .collCredit g seq => s.collCreditFrom g.toNat seq src
  | .collTimeout g seq rank => s.collOutcome g.toNat seq Status.collTimeout rank 0
  | .collAbort g seq cause rank => s.collOutcome g.toNat seq Status.collAbort rank cause
  | .backupReady i b => s.bkAnnounced i b
  | .backupSelect i b => s.bkSelected i b
  | .heartbeat => { s with flt := { s.flt with heard := Tab.put 0 s.flt.heard src.toNat (max 1 s.now) } }
  | .declare id => s.declareFailed id
  | .declared id => s.declared id
  | .expelled id => s.roleLost id true
  | .linkState id up => s.takeLinks src id up
  | .identity id => s.learn src id
  | .tickAsk t => s.tickAnswer src t
  | .tick t st ph cfg win asked => s.takeTick src t st ph cfg win asked
  | .stepChange n st eff =>
    if s.stb.changes.contains (n, st, eff) then s else { s with stb := { s.stb with changes := s.stb.changes ++ [(n, st, eff)] } }
  | .stbCheck cfg win t asked => s.checkAnswer src cfg win t asked
  | .aligned ok => s.setAligned ok
  | .cadence r e cad miss => s.takeCadence r e cad miss
  | .formGo => s.formGo
  | .domain st present => s.setDom st present

/-- FAB_CTL (R325, R326): a packet of a protocol message arrives at a port, in order; `m` is the message that it completes, none where
parts are still to come (log 21), and `f` what the memory it reads shows (09 R222). A message that a ring cannot take yet stays in the
receive buffer (08 R207, R212). -/
def execFabCtl (p : BitVec 4) (sl : Bool) (bytes : List Byte) (m : Option Msg) (f : MemFind) (s : State) : Out :=
  let held : Bool := match m with | some m => s.ringHolds m | none => false
  if Fab.ty bytes = 4 ∧ s.host.ident = some (Fab.dst bytes) ∧ Fab.good sl bytes ∧ held then .next s
  else
    .next (s.fabIn p sl bytes (fun t => t == 4) (fun s =>
      s.inOrder (Fab.src bytes) sl (Fab.eseq bytes) (fun s =>
        match m with
        | some m => (s.found f).deliver (Fab.src bytes) m
        | none => s)))

/-! ## Step-event entries (R340 to R342) -/

/-- A Plain COMMIT of a version (10 R257, 02 Table 2.5). -/
def commitRaw (ver : W64) : List Byte :=
  toBytesLE 8 (0x0A + 2 ^ 9) ++ List.replicate 32 0 ++ toBytesLE 8 ver.toNat ++ List.replicate 16 0

/-- A command entered as if the host had sent it: the state and the status (02 R48, 14 R374, 15 R394). -/
def State.submit (s : State) (q : Nat) (raw : List Byte) : State × W16 :=
  let x := s.queue q
  if s.flt.fenced then (s, Status.moduleFenced)
  else if s.domClosed then (s, Status.domainIncomplete)
  else if !s.qEnabled q then (s, Status.errRange)
  else
    match firstFlaw (s.cmdFlaws (rawCmd raw) raw.length) with
    | some f => (s, f.st)
    | none =>
      if (x.submit - x.doneSeq).toNat + 1 > s.qDepth q then (s, Status.queueFull) else (s.acceptCmd q (rawCmd raw), Status.ok)

/-- The log entry of an action that does nothing (R341). -/
def State.logEvt (s : State) (i : Nat) (e : StepEvt) (st : W16) : State :=
  s.log Cls.notice 0 st (Unit.iod 0x49) (s.host.ident.getD 0)
    (at64 0 8 i ||| at64 8 3 e.action ||| (if e.action = 5 then at64 16 6 e.arg else 0))

/-- The action of entry i (Table 13.11). -/
def State.evtAction (s : State) (i : Nat) (e : StepEvt) : State :=
  match e.action with
  | 1 => s.homeAdd e.arg 1
  | 2 => s.setReg 0x20030 (setFld (s.reg 0x20030) e.arg 1 0)
  | 3 => ((List.range 16).filter (fun c => e.arg.testBit c)).foldl (fun s c => s.askWindow c none) s
  | 4 => if s.trnOn then s.startCompare none else s.logEvt i e Status.errRange
  | 5 =>
    let (s1, st) := s.submit e.arg (commitRaw (s.trnVer + 1))
    if st = Status.ok then s1 else s1.logEvt i e st
  | _ => s

/-- Entry i fires when the step base has reached its target. A module off the base of its set fires none (R338). -/
def State.fireEvt (s : State) (i : Nat) : State :=
  let e := s.evt i
  if s.onBase && s.evtDue e then (s.setEvt i (s.rearm e)).evtAction i e else s

/-- STEP_EVENT_FIRE (R341): the first entry in ascending index whose target the step base has reached. -/
def execStepEventFire (s : State) : Out :=
  match (List.range 256).find? (fun i => s.evtDue (s.evt i)) with
  | some i => .next (s.fireEvt i)
  | none => .next s

/-- A write and a firing in the same cycle: the entries due, up to the one written, fire first, with their old contents (R341). -/
def State.fireFirst (s : State) (i : Nat) : State := (List.range (i + 1)).foldl State.fireEvt s

/-- STB_EVT_WORD1_WRITE (R340, R341). -/
def execStbEvtWord1Write (k : Packet) (s : State) : Out :=
  .next (s.regWrS k (isEvt 8) (fun s o v =>
    let i := (o - 0x21000) / 16
    let s1 := s.fireFirst i
    s1.orRange (s1.writeEvt i (s1.evt i).staged v)))

/-- STEP_EVENT_SET (R343); an entry that is due fires first (R341). -/
def execStepEventSet (q : BitVec 6) (seq : W32) (s : State) : Out :=
  match s.findCmd q.toNat seq with
  | none => .next s
  | some c =>
    if c.phase ≠ .running ∨ Cmd.opcode c ≠ 0x0E then .next s
    else
      let s1 := s.fireFirst (Cmd.opnd c 96 8)
      let st : W64 := BitVec.ofNat 64 (Cmd.opnd c 0 64) + (if Cmd.full c && Cmd.opnd c 136 1 == 1 then s1.stb.step else 0)
      .next (((s1.writeEvt (Cmd.opnd c 96 8) st (eventWord c)).getD s1).endCmd q.toNat seq Status.ok [])

end Sys2Proof.Machine
end

