-- ==== Sys2Proof/Machine/Scalar.lean ====
section
/-! DEFINITION. Scalar instructions (04 R91 to R96, Table 4.4). -/
namespace Sys2Proof.Machine

/-- nop (R92): 1 cycle, no effect. -/
def execNop (t : BitVec 8) (w : W64) (s : State) : Out :=
  .next (s.scalar t.toNat 0x00 w (fun x _ => .ok x (x.pc + 8) 1 none))

/-- add (R92, R93): s[RD] := s[RA] + s[RB], modulo 2^64. -/
def execAdd (t : BitVec 8) (w : W64) (s : State) : Out :=
  .next (s.alu t.toNat 0x01 w (fun a b => a + b))

/-- sub (R92, R93): s[RD] := s[RA] - s[RB], modulo 2^64. -/
def execSub (t : BitVec 8) (w : W64) (s : State) : Out :=
  .next (s.alu t.toNat 0x02 w (fun a b => a - b))

/-- and (R92). -/
def execAnd (t : BitVec 8) (w : W64) (s : State) : Out :=
  .next (s.alu t.toNat 0x03 w (fun a b => a &&& b))

/-- or (R92). -/
def execOr (t : BitVec 8) (w : W64) (s : State) : Out :=
  .next (s.alu t.toNat 0x04 w (fun a b => a ||| b))

/-- xor (R92). -/
def execXor (t : BitVec 8) (w : W64) (s : State) : Out :=
  .next (s.alu t.toNat 0x05 w (fun a b => a ^^^ b))

/-- shl (R92): shift left by s[RB][5:0]. -/
def execShl (t : BitVec 8) (w : W64) (s : State) : Out :=
  .next (s.alu t.toNat 0x06 w (fun a b => a <<< fld b 0 6))

/-- shr (R92): logical shift right by s[RB][5:0]. -/
def execShr (t : BitVec 8) (w : W64) (s : State) : Out :=
  .next (s.alu t.toNat 0x07 w (fun a b => a >>> fld b 0 6))

/-- sra (R92): arithmetic shift right by s[RB][5:0]. -/
def execSra (t : BitVec 8) (w : W64) (s : State) : Out :=
  .next (s.alu t.toNat 0x08 w (fun a b => a.sshiftRight (fld b 0 6)))

/-- mul (R92): low 64 bits of the product. -/
def execMul (t : BitVec 8) (w : W64) (s : State) : Out :=
  .next (s.alu t.toNat 0x09 w (fun a b => a * b))

/-- mulhu (R92): high 64 bits of the unsigned product. -/
def execMulhu (t : BitVec 8) (w : W64) (s : State) : Out :=
  .next (s.alu t.toNat 0x0A w (fun a b => BitVec.ofNat 64 (a.toNat * b.toNat / 2 ^ 64)))

/-- min (R92): signed minimum. -/
def execMin (t : BitVec 8) (w : W64) (s : State) : Out :=
  .next (s.alu t.toNat 0x0B w (fun a b => if a.slt b then a else b))

/-- max (R92): signed maximum. -/
def execMax (t : BitVec 8) (w : W64) (s : State) : Out :=
  .next (s.alu t.toNat 0x0C w (fun a b => if a.slt b then b else a))

/-- minu (R92): unsigned minimum. -/
def execMinu (t : BitVec 8) (w : W64) (s : State) : Out :=
  .next (s.alu t.toNat 0x0D w (fun a b => if a.ult b then a else b))

/-- maxu (R92): unsigned maximum. -/
def execMaxu (t : BitVec 8) (w : W64) (s : State) : Out :=
  .next (s.alu t.toNat 0x0E w (fun a b => if a.ult b then b else a))

/-- slt (R92): 1 if s[RA] < s[RB], signed. -/
def execSlt (t : BitVec 8) (w : W64) (s : State) : Out :=
  .next (s.alu t.toNat 0x0F w (fun a b => if a.slt b then 1 else 0))

/-- sltu (R92): 1 if s[RA] < s[RB], unsigned. -/
def execSltu (t : BitVec 8) (w : W64) (s : State) : Out :=
  .next (s.alu t.toNat 0x10 w (fun a b => if a.ult b then 1 else 0))

/-- seq (R92): 1 if equal. -/
def execSeq (t : BitVec 8) (w : W64) (s : State) : Out :=
  .next (s.alu t.toNat 0x11 w (fun a b => if a = b then 1 else 0))

/-- addi (R92): s[RD] := s[RA] + IMM, sign-extended. -/
def execAddi (t : BitVec 8) (w : W64) (s : State) : Out :=
  .next (s.alui t.toNat 0x20 w (fun a b => a + b))

/-- andi (R92). -/
def execAndi (t : BitVec 8) (w : W64) (s : State) : Out :=
  .next (s.alui t.toNat 0x21 w (fun a b => a &&& b))

/-- ori (R92). -/
def execOri (t : BitVec 8) (w : W64) (s : State) : Out :=
  .next (s.alui t.toNat 0x22 w (fun a b => a ||| b))

/-- xori (R92). -/
def execXori (t : BitVec 8) (w : W64) (s : State) : Out :=
  .next (s.alui t.toNat 0x23 w (fun a b => a ^^^ b))

/-- shli (R92, R93). -/
def execShli (t : BitVec 8) (w : W64) (s : State) : Out :=
  .next (s.shimm t.toNat 0x24 w (fun a n => a <<< n))

/-- shri (R92, R93). -/
def execShri (t : BitVec 8) (w : W64) (s : State) : Out :=
  .next (s.shimm t.toNat 0x25 w (fun a n => a >>> n))

/-- srai (R92, R93). -/
def execSrai (t : BitVec 8) (w : W64) (s : State) : Out :=
  .next (s.shimm t.toNat 0x26 w (fun a n => a.sshiftRight n))

/-- slti (R92): signed compare with IMM. -/
def execSlti (t : BitVec 8) (w : W64) (s : State) : Out :=
  .next (s.alui t.toNat 0x27 w (fun a b => if a.slt b then 1 else 0))

/-- li (R92): s[RD] := IMM sign-extended. -/
def execLi (t : BitVec 8) (w : W64) (s : State) : Out :=
  .next (s.scalar t.toNat 0x28 w (fun x _ => .ok (x.wr (W.rd w) (W.imm w)) (x.pc + 8) 1 none))

/-- lsi (R92): s[RD] := (s[RA] shifted left by 26) or IMM, zero-extended. -/
def execLsi (t : BitVec 8) (w : W64) (s : State) : Out :=
  .next (s.scalar t.toNat 0x29 w (fun x _ =>
    .ok (x.wr (W.rd w) ((x.rd (W.ra w) <<< 26) ||| BitVec.ofNat 64 (fld w 0 26))) (x.pc + 8) 1 none))

/-- ldu1 (R92, R94): load of 1 byte, zero-extended. -/
def execLdu1 (t : BitVec 8) (w : W64) (s : State) : Out :=
  .next (s.load t.toNat 0x30 w 1 false)

/-- ldu2 (R92, R94): load of 2 bytes, zero-extended. -/
def execLdu2 (t : BitVec 8) (w : W64) (s : State) : Out :=
  .next (s.load t.toNat 0x31 w 2 false)

/-- ldu4 (R92, R94): load of 4 bytes, zero-extended. -/
def execLdu4 (t : BitVec 8) (w : W64) (s : State) : Out :=
  .next (s.load t.toNat 0x32 w 4 false)

/-- ld8 (R92, R94): load of 8 bytes, zero-extended. -/
def execLd8 (t : BitVec 8) (w : W64) (s : State) : Out :=
  .next (s.load t.toNat 0x33 w 8 false)

/-- lds1 (R92, R94): load of 1 byte, sign-extended. -/
def execLds1 (t : BitVec 8) (w : W64) (s : State) : Out :=
  .next (s.load t.toNat 0x34 w 1 true)

/-- lds2 (R92, R94): load of 2 bytes, sign-extended. -/
def execLds2 (t : BitVec 8) (w : W64) (s : State) : Out :=
  .next (s.load t.toNat 0x35 w 2 true)

/-- lds4 (R92, R94): load of 4 bytes, sign-extended. -/
def execLds4 (t : BitVec 8) (w : W64) (s : State) : Out :=
  .next (s.load t.toNat 0x36 w 4 true)

/-- st1 (R92, R94): store of the low 1 byte of s[RB]. -/
def execSt1 (t : BitVec 8) (w : W64) (s : State) : Out :=
  .next (s.store t.toNat 0x38 w 1)

/-- st2 (R92, R94): store of the low 2 bytes of s[RB]. -/
def execSt2 (t : BitVec 8) (w : W64) (s : State) : Out :=
  .next (s.store t.toNat 0x39 w 2)

/-- st4 (R92, R94): store of the low 4 bytes of s[RB]. -/
def execSt4 (t : BitVec 8) (w : W64) (s : State) : Out :=
  .next (s.store t.toNat 0x3A w 4)

/-- st8 (R92, R94): store of the low 8 bytes of s[RB]. -/
def execSt8 (t : BitVec 8) (w : W64) (s : State) : Out :=
  .next (s.store t.toNat 0x3B w 8)

/-- beq (R92, R95). -/
def execBeq (t : BitVec 8) (w : W64) (s : State) : Out :=
  .next (s.branch t.toNat 0x40 w (fun a b => a == b))

/-- bne (R92, R95). -/
def execBne (t : BitVec 8) (w : W64) (s : State) : Out :=
  .next (s.branch t.toNat 0x41 w (fun a b => a != b))

/-- blt (R92, R95). -/
def execBlt (t : BitVec 8) (w : W64) (s : State) : Out :=
  .next (s.branch t.toNat 0x42 w (fun a b => a.slt b))

/-- bge (R92, R95). -/
def execBge (t : BitVec 8) (w : W64) (s : State) : Out :=
  .next (s.branch t.toNat 0x43 w (fun a b => !a.slt b))

/-- bltu (R92, R95). -/
def execBltu (t : BitVec 8) (w : W64) (s : State) : Out :=
  .next (s.branch t.toNat 0x44 w (fun a b => a.ult b))

/-- bgeu (R92, R95). -/
def execBgeu (t : BitVec 8) (w : W64) (s : State) : Out :=
  .next (s.branch t.toNat 0x45 w (fun a b => !a.ult b))

/-- jal (R92, R95): s[RD] := PC + 8, branch to PC + 8 × IMM. -/
def execJal (t : BitVec 8) (w : W64) (s : State) : Out :=
  .next (s.scalar t.toNat 0x46 w (fun x l =>
    match branchCheck l (branchTarget x.pc w) with
    | some e => .fault e
    | none => .ok (x.wr (W.rd w) (x.pc + 8)) (branchTarget x.pc w) 3 (some true)))

/-- jalr (R92, R95): s[RD] := PC + 8, branch to s[RA] + 8 × IMM. -/
def execJalr (t : BitVec 8) (w : W64) (s : State) : Out :=
  .next (s.scalar t.toNat 0x47 w (fun x l =>
    let target := branchTarget (x.rd (W.ra w)) w
    match branchCheck l target with
    | some e => .fault e
    | none => .ok (x.wr (W.rd w) (x.pc + 8)) target 3 (some true)))

/-- dbnz (R92, R93): s[RA] := s[RA] - 1, branch to PC + 8 × IMM if the result is not 0; RA = 0 is OPERAND. -/
def execDbnz (t : BitVec 8) (w : W64) (s : State) : Out :=
  .next (s.scalar t.toNat 0x48 w (fun x l =>
    if W.ra w = 0 then .fault { cause := .operand }
    else
      let v := x.rd (W.ra w) - 1
      if v = 0 then .ok (x.wr (W.ra w) v) (x.pc + 8) 1 (some false)
      else match branchCheck l (branchTarget x.pc w) with
        | some e => .fault e
        | none => .ok (x.wr (W.ra w) v) (branchTarget x.pc w) 3 (some true)))

/-- The capability words (Tables 1.2 to 1.5). -/
def capWord : Nat → W64
  | 0 => at64 0 16 0x6448 ||| at64 16 8 0xA1 ||| at64 24 4 1 ||| at64 28 9 256 ||| at64 37 9 256 ||| at64 46 5 31 |||
         at64 51 5 16 ||| at64 56 6 37 ||| at64 62 2 3
  | 1 => at64 0 8 64 ||| at64 8 8 128 ||| at64 16 4 12 ||| at64 20 4 13 ||| at64 24 4 14 ||| at64 28 4 14 |||
         at64 32 3 7 ||| at64 35 1 1 ||| at64 36 4 0xF
  | 2 => at64 0 5 21 ||| at64 5 5 16 ||| at64 10 2 2 ||| at64 12 4 13 ||| at64 16 2 2 ||| at64 18 4 8 |||
         at64 22 8 64 ||| at64 30 7 64 ||| at64 37 5 16 ||| at64 42 5 16 ||| at64 47 3 4 ||| at64 50 3 2
  | 3 => at64 0 4 0xF ||| at64 4 7 64 ||| at64 11 12 2400
  | _ => 0

/-- capr (R92, R93): s[RD] := CAP[IMM]; IMM above 3 is OPERAND. -/
def execCapr (t : BitVec 8) (w : W64) (s : State) : Out :=
  .next (s.scalar t.toNat 0x50 w (fun x _ =>
    if fld w 0 26 > 3 then .fault { cause := .operand }
    else .ok (x.wr (W.rd w) (capWord (fld w 0 26))) (x.pc + 8) 1 none))

/-- eset (R92, R96): event IMM[4:0] := IMM[8:5]. -/
def execEset (t : BitVec 8) (w : W64) (s : State) : Out :=
  .next (s.scalar t.toNat 0x51 w (fun x _ =>
    .ok (x.setEv (fld w 0 5) (BitVec.ofNat 4 (fld w 5 4))) (x.pc + 8) 1 none))

/-- eget (R92): s[RD] := event IMM[4:0]. -/
def execEget (t : BitVec 8) (w : W64) (s : State) : Out :=
  .next (s.scalar t.toNat 0x52 w (fun x _ =>
    .ok (x.wr (W.rd w) ((x.ev (fld w 0 5)).setWidth 64)) (x.pc + 8) 1 none))

/-- ewait (R92, R96): taken at once when the event is 1 or more; otherwise the control core stalls on it. -/
def execEwait (t : BitVec 8) (w : W64) (s : State) : Out :=
  .next (s.scalar t.toNat 0x53 w (fun x _ =>
    let e := fld w 0 5
    if x.ev e = 0 then .ok { x with core := .ewait e } x.pc 1 none
    else .ok (x.setEv e (x.ev e - 1)) (x.pc + 8) 1 none))

/-- EWAIT_MET (R96): the awaited event is 1 or more, is decremented and issue goes on. -/
def execEwaitMet (t : BitVec 8) (s : State) : Out :=
  let x := s.tile t.toNat
  match x.core with
  | .ewait e =>
    if x.ev e = 0 then .next s
    else .next (s.setTile t.toNat { x.setEv e (x.ev e - 1) with core := .run, pc := x.pc + 8 })
  | _ => .next s

/-- blkend (R70, R92, R93): the control core drains; PMODE ≠ 0 is OPERAND. -/
def execBlkend (t : BitVec 8) (w : W64) (s : State) : Out :=
  .next (s.scalar t.toNat 0x54 w (fun x _ => .ok { x with core := .drain false } x.pc 1 none))

/-- halt (R84, R92): the control core drains and ends the program. -/
def execHalt (t : BitVec 8) (w : W64) (s : State) : Out :=
  .next (s.scalar t.toNat 0x55 w (fun x _ => .ok { x with core := .drain true } x.pc 1 none))

end Sys2Proof.Machine
end

