-- ==== Sys2Proof/Machine/Regs.lean ====
section
/-! DEFINITION. Reading and writing the management window: the registers that no other row reads or writes (02 R42, R43, R58 and
Tables 2.11 to 2.18; 00 R8, R9; the register tables of the other chapters). -/
namespace Sys2Proof.Machine

/-! ## Values composed at a read -/

/-- PXL_STATUS of one port (Table 2.13). -/
def Port.pxlField (x : Port) : Nat :=
  x.st.code + 8 * b2n (laneCount x.lanes == 2) + 16 * b2n x.rev + 32 * b2n (laneCount x.lanes == 1)

/-- PXL_STATUS. -/
def State.pxlStatus (s : State) : W64 := at64 0 6 (s.port .pxu).pxlField ||| at64 8 6 (s.port .pxd).pxlField

/-- PXL_ERRCNT (Table 2.14). -/
def State.pxlErrcnt (s : State) : W64 := (List.range 4).foldl (fun w i => w ||| at64 (16 * i) 16 (Tab.get 0 s.host.err i)) 0

/-- Q_STAT[q] (Table 2.17). -/
def State.qStat (s : State) (q : Nat) : W64 := at64 0 32 (s.queue q).submit.toNat ||| at64 32 32 (s.queue q).doneSeq.toNat

/-- RS_STATE[i] (Table 2.18). CSTATUS and RLEN of a slot that is ARMED are not valid: the free value `v` (log 3). -/
def State.rsState (s : State) (i : Nat) (v : W64) : W64 :=
  let x := s.slot i
  at64 0 16 x.gen.toNat ||| at64 16 2 x.st.code ||| at64 18 1 (b2n x.read) |||
  (match x.st with
   | .ready => at64 32 16 x.cstatus.toNat ||| at64 48 11 (ceilDiv x.data.length 32)
   | .armed => at64 32 27 (fld v 0 27)
   | .idle => 0)

/-- PLAN_STAT (Table 9.11). -/
def State.planStat (s : State) : W64 := at64 0 1 (b2n s.mem.planAddr.isSome) ||| at64 16 16 s.mem.planStatus.toNat

/-- VSTAT[i] (Table 9.12). -/
def State.vstat (s : State) (i : Nat) : W64 :=
  let x := s.vaultPhys i
  at64 0 5 (s.vaultPos i) ||| at64 5 2 (s.vaultSt i).remap ||| at64 7 9 x.rows.length |||
  at64 16 16 (min 0xFFFF (x.corr.filter (fun e => decide (s.now - e.1 < 86400000 * msec))).length)

/-- MSA_SQ[i] (Table 9.13). -/
def State.msaSq (s : State) (i : Nat) : W64 :=
  let x := s.sqReg i
  at64 0 36 x.sq.toNat ||| at64 36 1 (b2n x.fin) ||| at64 37 16 x.nxt.toNat

/-- GRP_STAT[g] (Table 11.3). RANK of an enabled group without HAS_RANK is not valid: the free value `v` (log 3). -/
def State.grpStat (s : State) (g : Nat) (v : W64) : W64 :=
  at64 0 32 (Tab.get 0 s.coll.next g).toNat |||
  (if s.grpOn g then
     (if s.hasRank g then at64 32 12 (s.grpRank g) ||| at64 44 1 1 else at64 32 12 (fld v 0 12)) |||
     at64 45 2 (match s.curColl g with
                | none => 1
                | some x => match x.phase with
                  | .hand => 2
                  | .data => 3
                  | .norm => 3) |||
     at64 47 6 ((domainRuns (s.members g)).length - 1)
   else 0)

/-! ## The map -/

/-- The offset lies on a register of a row of n registers. -/
def inRow (off base step n : Nat) : Bool := decide (base ≤ off) && decide (off < base + step * n) && (off - base) % step == 0

/-- RW registers that read as they were written. -/
def isStored (o : Nat) : Bool :=
  [0x60, 0x100, 0x108, 0x20000, 0x20008, 0x20030, 0x30000, 0x40000, 0x40010, 0x40018, 0x50020, 0x50028, 0x50100, 0x60000,
   0x80100, 0x90000, 0xA0000, 0xB0000].contains o ||
  inRow o 0x1000 16 64 || inRow o 0x20100 8 16 || inRow o 0x31000 8 64 || inRow o 0x41000 16 256 || inRow o 0x50220 8 4 ||
  inRow o 0x70000 32 48 || inRow o 0x80000 64 4 || inRow o 0x80008 64 4 || (decide (0xA0000 ≤ o) && isTrnRw (o - 0xA0000)) ||
  inRow o 0xB1000 16 256 || inRow o 0xB1008 16 256 ||
  inRow o 0xC0000 64 48 || inRow o 0xC0008 64 48 || inRow o 0xC0010 64 48 || inRow o 0xC0018 64 48

/-- WO registers, which read as 0 (00 Table 0.3). -/
def isWo (o : Nat) : Bool := [0x40030, 0x50040, 0x50108, 0x50200, 0x90010, 0x90020, 0x90030, 0xB0008].contains o

/-- RC registers, PWR_STAT among them: a read belongs to READ_TO_CLEAR. -/
def isRc (o : Nat) : Bool := [0x48, 0x20028, 0x60008].contains o || inRow o 0x30200 8 16

/-- Registers that show a value the spec does not state: a slot's fields while ARMED, UPD_STAT.PCT while PROGRAM runs, the
coolant temperatures, a measured voltage, RANK without HAS_RANK. -/
def isOpen (o : Nat) : Bool :=
  inRow o 0x10000 8 4096 || [0x50110, 0x60018].contains o || inRow o 0x60100 8 64 || inRow o 0xB2000 8 256

/-- An RO register of the window's first parts (Tables 2.11, 13.5, 13.7). -/
def State.roLow (s : State) (o : Nat) (v : W64) : Option W64 :=
  if inRow o 0 8 4 then some (capWord (o / 8))
  else if o = 0x20 then some (BitVec.ofNat 64 s.modId)
  else if o = 0x40 then some s.pxlStatus
  else if inRow o 0x1008 16 64 then some (s.qStat ((o - 0x1008) / 16))
  else if inRow o 0x10000 8 4096 then some (s.rsState ((o - 0x10000) / 8) v)
  else if o = 0x20010 then some s.stb.step
  else if o = 0x20018 then some (s.stb.latch.setWidth 64)
  else if o = 0x20020 then some s.stbStat
  else if o = 0x20038 then some s.stb.tick
  else if inRow o 0x21000 16 256 then some (s.evt ((o - 0x21000) / 16)).w0
  else if inRow o 0x21008 16 256 then some (s.evt ((o - 0x21008) / 16)).w1
  else if inRow o 0x30100 8 16 then some (s.fabPstat ((o - 0x30100) / 8))
  else none

/-- An RO register of the other parts (Tables 7.2, 8.2, 9.9, 10.1, 11.1, 12.1, 15.14, 16.8). -/
def State.roHigh (s : State) (o : Nat) (v : W64) : Option W64 :=
  if o = 0x50000 then some s.bootStat
  else if o = 0x50008 then some s.flashStat
  else if o = 0x50010 then some Config.deviceNumber
  else if o = 0x50030 then some s.domStat
  else if o = 0x50038 then some s.dom.present
  else if o = 0x50110 then some (s.updStat v)
  else if o = 0x50208 then some s.attStat
  else if o = 0x60018 then some (s.tempStat v)
  else if inRow o 0x60100 8 64 then some (s.pdStat ((o - 0x60100) / 8) v)
  else if inRow o 0x60400 8 16 then some (s.clThr ((o - 0x60400) / 8))
  else if inRow o 0x70008 32 48 then some (s.ctxStat ((o - 0x70008) / 32))
  else if inRow o 0x70010 32 48 then some (s.ctxUse ((o - 0x70010) / 32))
  else if inRow o 0x80010 64 4 then some (s.wrStat ((o - 0x80010) / 64))
  else if o = 0x90018 then some s.mem.dpmResult
  else if o = 0x90038 then some s.planStat
  else if inRow o 0x91000 8 256 then some (s.vstat ((o - 0x91000) / 8))
  else if inRow o 0x92000 8 256 then some (s.msaSq ((o - 0x92000) / 8))
  else if o = 0xA0018 then some s.trnStat
  else if o = 0xA0020 then some s.trnNorm
  else if inRow o 0xA0300 8 4 then some ((s.trn.dig >>> (64 * ((o - 0xA0300) / 8))).setWidth 64)
  else if inRow o 0xB2000 8 256 then some (s.grpStat ((o - 0xB2000) / 8) v)
  else if inRow o 0xC0020 64 48 then some (s.ochStat ((o - 0xC0020) / 64))
  else none

/-- What an implemented register shows, RC registers apart; none at any other offset. -/
def State.regVal (s : State) (o : Nat) (v : W64) : Option W64 :=
  if isStored o then some (s.reg o)
  else if isWo o then some 0
  else if o < 0x40000 then s.roLow o v
  else if o < 0x50000 then s.fltRead o
  else s.roHigh o v

/-! ## REG_RD -/

/-- What a read of a register does. -/
def State.readNow (s : State) (k : Packet) : State :=
  let a := if isOpen (Packet.off k) then s.draw else (0, s)
  match (if regServed s (Packet.off k) then s.regVal (Packet.off k) a.1 else none) with
  | some w => a.2.respond k Status.ok w []
  | none => s.respond k Status.errRange 0 []

/-- REG_RD (R42, R43, R58; 15 R391): the value of a register, or 0 and ERR_RANGE. The offsets of STB_STEP and of the RC
registers have rows of their own. -/
def execRegRd (k : Packet) (s : State) : Out :=
  if Packet.off k = 0x20010 ∨ isRc (Packet.off k) = true then .next s
  else .next (s.pxu k 0x2 (fun s => s.inTurn (.regRd k) false (s.readNow k)))

/-! ## READ_TO_CLEAR (00 R9) -/

/-- The value of an RC register. -/
def State.rcVal (s : State) (o : Nat) : W64 :=
  if o = 0x48 then s.pxlErrcnt
  else if o = 0x20028 then s.stbCnt
  else if o = 0x60008 then s.pwrStat
  else s.fabErrcnt ((o - 0x30200) / 8)

/-- Four 16-bit counts, kept in a table from entry b on, replaced by the fields of `ev`. -/
def setCounts (m : Tab Nat) (b : Nat) (ev : W64) : Tab Nat :=
  (List.range 4).foldl (fun m i => Tab.put 0 m (b + i) (fld ev (16 * i) 16)) m

/-- The register after the clearing read: what happened in its cycle, `ev`, is kept. Of PWR_STAT only PEAK_W clears. -/
def State.rcClear (s : State) (o : Nat) (ev : W64) : State :=
  if o = 0x48 then { s with host := { s.host with err := setCounts s.host.err 0 ev } }
  else if o = 0x20028 then { s with stb := { s.stb with cnt := setCounts s.stb.cnt 0 ev } }
  else if o = 0x60008 then { s with pwr := { s.pwr with peak := fld ev 32 16 } }
  else { s with fab := { s.fab with err := setCounts s.fab.err (4 * ((o - 0x30200) / 8)) ev } }

/-- What a read of an RC register does. -/
def State.clearNow (s : State) (k : Packet) (ev : W64) : State :=
  if regServed s (Packet.off k) then (s.rcClear (Packet.off k) ev).respond k Status.ok (s.rcVal (Packet.off k)) []
  else s.respond k Status.errRange 0 []

/-- READ_TO_CLEAR (R9): a REG_RD of PXL_ERRCNT, STB_CNT, FAB_ERRCNT or PWR_STAT; `ev` holds, by field, the events of the same
cycle. -/
def execReadToClear (k : Packet) (ev : W64) (s : State) : Out :=
  if !isRc (Packet.off k) then .next s
  else .next (s.pxu k 0x2 (fun s => s.inTurn (.readToClear k ev) false (s.clearNow k ev)))

/-! ## REGISTER_WRITE -/

/-- A write to JOB_CFG (R58, Table 2.16). -/
def State.writeJobCfg (s : State) (w : W64) : Option State :=
  let v := at64 0 3 (fld w 0 3) ||| at64 16 32 (fld w 16 32)
  if fld w 16 16 = 0 ∨ (fld v 0 3 ≠ fld (s.reg Reg.jobCfg) 0 3 ∧ s.busy = true) then none else some (s.setReg Reg.jobCfg v)

/-- A write to Q_CFG[q] (R58, Table 2.17). -/
def State.writeQCfg (s : State) (q : Nat) (w : W64) : Option State :=
  let v := at64 0 3 (fld w 0 3) ||| at64 4 4 (fld w 4 4)
  let old := s.reg (Reg.qCfg q)
  if fld v 0 2 = 3 ∨ fld v 4 4 < 4 ∨ 12 < fld v 4 4 then none
  else if (fld v 0 2 ≠ fld old 0 2 ∨ fld v 4 4 ≠ fld old 4 4) ∧ (s.queue q).cmds ≠ [] then none
  else some (s.setReg (Reg.qCfg q) v)

/-- A write to COLL_CFG (Table 11.2). -/
def State.writeCollCfg (s : State) (w : W64) : Option State :=
  if fld w 0 16 = 0 then none else some (s.setReg 0xB0000 (at64 0 16 (fld w 0 16)))

/-- Offsets whose writes have a row of their own: the groups' registers that start an action or that a rule guards. A write to
UPD_CTL or MRG_CLR has one only where its value names a command. -/
def ownWrite (o : Nat) (w : W64) : Bool :=
  [0x20000, 0x20008, 0x20030, 0x30000, 0x40000, 0x50020, 0x50028, 0x50040, 0x50100, 0x50200, 0x60000, 0x80100, 0x90000, 0x90010,
   0x90020, 0x90030, 0xA0000, 0xB0008].contains o ||
  inRow o 0x20100 8 16 || inRow o 0x21000 8 512 || inRow o 0x31000 8 64 || inRow o 0x41000 16 256 || inRow o 0x70000 32 48 ||
  inRow o 0x80000 64 4 || inRow o 0x92000 8 256 || inRow o 0xB1000 16 256 || inRow o 0xC0000 64 48 ||
  (o == 0x40030 && fld w 0 2 != 0) || (o == 0x50108 && decide (1 ≤ w.toNat) && decide (w.toNat ≤ 5))

/-- A write to a register without a row of its own; a write to an RO or RC register is ignored (00 Table 0.3), one at an offset
without a register is rejected (R42). -/
def State.writeOther (s : State) (o : Nat) (w : W64) : Option State :=
  if o = 0x60 then some (s.setReg o (at64 0 6 (fld w 0 6) ||| at64 8 16 (fld w 8 16)))
  else if o = 0x100 then s.writeJobCfg w
  else if o = 0x108 then (if s.busy then none else some (s.setReg o w))
  else if inRow o 0x1000 16 64 then s.writeQCfg ((o - 0x1000) / 16) w
  else if o = 0x40010 then s.writeTstCfg w
  else if o = 0x40018 then s.writeScrubCfg w
  else if o = 0x40030 then s.writeMrgClr w
  else if o = 0x50108 then none
  else if inRow o 0x50220 8 4 then some (s.setReg o w)
  else if inRow o 0x80008 64 4 then some (s.setReg o (at64 0 39 (fld w 0 39)))
  else if decide (0xA0000 ≤ o) && isTrnRw (o - 0xA0000) then s.writeTrn (o - 0xA0000) w
  else if o = 0xB0000 then s.writeCollCfg w
  else if inRow o 0xB1008 16 256 then s.writeGrpList ((o - 0xB1008) / 16) w
  else if isOchOther o then
    (match s.writeOchOther ((o - 0xC0000) / 64) (o % 64) w with
     | (s1, st) => if st = Status.ok then some s1 else none)
  else if isRc o || (s.regVal o 0).isSome then some s
  else none

/-- REGISTER_WRITE (R42, R58; 00 R8, R9). -/
def execRegisterWrite (k : Packet) (s : State) : Out :=
  .next (s.regWr k (fun o => !ownWrite o (Packet.qw k)) (fun s o w => s.writeOther o w))

end Sys2Proof.Machine
end

