-- ==== Sys2Proof/Machine/Tick.lean ====
section
/-! DEFINITION. One reference period, 10 ns, in which no command and no event comes: time goes on, ports send, tiles count their
cycles (log 41). -/
namespace Sys2Proof.Machine

/-- A tile whose core executes counts the cycles of a period at its cluster's delivered clock (03 R72; 16 R430). -/
def State.tickTile (s : State) (t : Nat) : State :=
  let go : Bool := match (s.tile t).core with
    | .run => true
    | .ewait _ => true
    | .drain _ => true
    | _ => false
  if go && !s.tileHeld t then s.updTile t (fun x => { x with active := x.active + BitVec.ofNat 64 (s.clusterMhz (t / 16) / 100) }) else s

/-- When a command became ready at the head of its queue; a held queue's time does not count (02 R51, 13 R342). -/
def State.tickQueue (s : State) (q : Nat) : State :=
  match (s.queue q).head with
  | none => s
  | some c =>
    if s.qHeld q then s.updCmd q c.seq (fun c => { c with headAt := c.headAt.map (· + 1) })
    else if c.readyAt.isNone && (s.depsState c).isSome then s.updCmd q c.seq (fun c => { c with readyAt := some s.now })
    else s

/-! ## Waits (04 R106, R107; 10 R248, R249) -/

/-- The home controllers evaluate a running wait once the signals of a period have been applied (R106). -/
def EInstr.sample (s : State) (i : EInstr) : EInstr :=
  if SyncI.isWait i && i.metAt.isNone && s.syncMet i then { i with metAt := some s.now } else i

/-- The waits of the tiles, and of saved contexts, whose condition has come true (10 R249); and since when a tile is at a sync-wait
yield point (10 R248). -/
def State.sampleWaits (s : State) : State :=
  { s with tl := { s.tl with
      tile := s.tl.tile.map (fun e => (e.1, { e.2.mapWaits (EInstr.sample s) with
        yieldAt := if decide (e.2.core = .syncWait) && e.2.atYield then some (e.2.yieldAt.getD s.now) else none })),
      saved := s.tl.saved.map (fun v => { v with ctx := v.ctx.mapWaits (EInstr.sample s) }) } }

/-! ## Packets that wait (02 R43) -/

/-- The storage that a waiting packet names is still held. -/
def State.lateHeld (s : State) (i : Instr) : Bool :=
  match i with
  | .dataPut k => s.putHeld k
  | .dataGet k _ => s.getHeld k
  | _ => false

/-- What a packet that waited does in its turn. -/
def State.runLate (s : State) (i : Instr) : State :=
  match i with
  | .dataPut k => s.putNow k
  | .dataGet k f => s.getNow k f
  | .cmd k => s.cmdNow k
  | .regRd k => s.readNow k
  | .readToClear k ev => s.clearNow k ev
  | .stbStepRead k => s.stepReadNow k
  | _ => s

/-- Packets that waited, in their order: handled once their storage is free and no earlier DATA_PUT waits. -/
def State.drainLate (s : State) : State :=
  s.host.late.foldl (fun s i => s.inTurn i (s.lateHeld i) (s.runLate i)) { s with host := { s.host with late := [] } }

/-! ## Ports -/

/-- The next packet for PXU: own and relayed packets in turn, at packet boundaries (02 R36). -/
def HostSt.pickUp (h : HostSt) : Option Packet × HostSt :=
  match h.upTx, h.upRelay with
  | k :: l, [] => (some k, { h with upTx := l, relayNext := true })
  | [], k :: r => (some k, { h with upRelay := r, relayNext := false })
  | k :: l, j :: r =>
    if h.relayNext then (some j, { h with upRelay := r, relayNext := false }) else (some k, { h with upTx := l, relayNext := true })
  | [], [] => (none, h)

/-- Packets go to PXU and PXD once the packet before has gone into flits (02 R36, R39). Packets handed to PXD before it left ACTIVE
are kept and go once it is ACTIVE again (DESIGN CHOICE, log 79). -/
def State.tickHost (s : State) : State :=
  let s1 := if (s.port .pxu).txq.isEmpty && decide ((s.port .pxu).st = .active) then
      match s.host.pickUp with
      | (some k, h) => ({ s with host := h } : State).updPort .pxu (fun x => { x with txq := cutPacket .pxu 0 (pktBytes k) })
      | (none, _) => s
    else s
  if (s1.port .pxd).txq.isEmpty && decide ((s1.port .pxd).st = .active) then
    match s1.host.downTx with
    | k :: l => ({ s1 with host := { s1.host with downTx := l } } : State).updPort .pxd (fun x => { x with txq := cutPacket .pxd 0 (pktBytes k) })
    | [] => s1
  else s1

/-- A port that trains or carries traffic sends one flit (02 R29 to R34, 13 R324, R325). -/
def State.tickPort (s : State) (p : PortId) : State :=
  if (s.port p).live && decide ((s.port p).st = .active) && !s.portStopped p then s.updPort p (Port.send p) else s

/-- One reference period. -/
def State.tick (s : State) : State :=
  if !s.boot.released then { s with now := s.now + 1 }
  else
    let s1 := s.sampleWaits
    let s2 : State := { s1 with now := s1.now + 1, stb := { s1.stb with tick := s1.stb.tick + 1 } }
    let s3 := ((s2.tl.tile.map (fun e => e.1)).foldl State.tickTile s2).stopFaulted
    let s4 := (s3.host.queues.map (fun e => e.1)).foldl State.tickQueue s3
    let s5 := s4.drainLate.askAll.collPoke.floodLinks.fabFlush.tickHost
    ([PortId.pxu, PortId.pxd] ++ fabPorts).foldl State.tickPort s5

end Sys2Proof.Machine
end

