-- ==== Sys2Proof/Machine/Dispatch.lean ====
section
/-! DEFINITION. The effect of every command and event: one arm per constructor, each a direct call of its meaning. -/
namespace Sys2Proof.Machine

def exec (i : Instr) (s : State) : Host.Outcome State Fault Refusal :=
  match i with
  | .signalDetect p => Sys2Proof.Machine.execSignalDetect p s
  | .trainingStateDone p r => Sys2Proof.Machine.execTrainingStateDone p r s
  | .trainingBoundExpiry p => Sys2Proof.Machine.execTrainingBoundExpiry p s
  | .downRetryTimer p farChanged => Sys2Proof.Machine.execDownRetryTimer p farChanged s
  | .dataFlitReceive p bytes => Sys2Proof.Machine.execDataFlitReceive p bytes s
  | .ctrlFlitReceive p bytes => Sys2Proof.Machine.execCtrlFlitReceive p bytes s
  | .linkIdleTimeout p => Sys2Proof.Machine.execLinkIdleTimeout p s
  | .pxuPacketRelay k => Sys2Proof.Machine.execPxuPacketRelay k s
  | .pxdPacketRelay k => Sys2Proof.Machine.execPxdPacketRelay k s
  | .enum k => Sys2Proof.Machine.execEnum k s
  | .cmd k => Sys2Proof.Machine.execCmd k s
  | .regRd k => Sys2Proof.Machine.execRegRd k s
  | .registerWrite k => Sys2Proof.Machine.execRegisterWrite k s
  | .readToClear k ev => Sys2Proof.Machine.execReadToClear k ev s
  | .dataPut k => Sys2Proof.Machine.execDataPut k s
  | .dataGet k f => Sys2Proof.Machine.execDataGet k f s
  | .resultRd k => Sys2Proof.Machine.execResultRd k s
  | .time k => Sys2Proof.Machine.execTime k s
  | .timeApply => Sys2Proof.Machine.execTimeApply s
  | .commandDispatch q => Sys2Proof.Machine.execCommandDispatch q s
  | .bulkAgeExpiry q => Sys2Proof.Machine.execBulkAgeExpiry q s
  | .depTimeoutExpiry q => Sys2Proof.Machine.execDepTimeoutExpiry q s
  | .commandComplete q seq => Sys2Proof.Machine.execCommandComplete q seq s
  | .fence q seq => Sys2Proof.Machine.execFence q seq s
  | .launch q seq => Sys2Proof.Machine.execLaunch q seq s
  | .launchClaimTiles q seq => Sys2Proof.Machine.execLaunchClaimTiles q seq s
  | .livePreempt t => Sys2Proof.Machine.execLivePreempt t s
  | .contextMoveComplete t => Sys2Proof.Machine.execContextMoveComplete t s
  | .icacheLineFill t parity => Sys2Proof.Machine.execIcacheLineFill t parity s
  | .engineInstrStart t e => Sys2Proof.Machine.execEngineInstrStart t e s
  | .engineInstrComplete t e f => Sys2Proof.Machine.execEngineInstrComplete t e f s
  | .blkendComplete t mon => Sys2Proof.Machine.execBlkendComplete t mon s
  | .tileHalted t mon f => Sys2Proof.Machine.execTileHalted t mon f s
  | .watchdogFire t => Sys2Proof.Machine.execWatchdogFire t s
  | .nop t w => Sys2Proof.Machine.execNop t w s
  | .add t w => Sys2Proof.Machine.execAdd t w s
  | .sub t w => Sys2Proof.Machine.execSub t w s
  | .and t w => Sys2Proof.Machine.execAnd t w s
  | .or t w => Sys2Proof.Machine.execOr t w s
  | .xor t w => Sys2Proof.Machine.execXor t w s
  | .shl t w => Sys2Proof.Machine.execShl t w s
  | .shr t w => Sys2Proof.Machine.execShr t w s
  | .sra t w => Sys2Proof.Machine.execSra t w s
  | .mul t w => Sys2Proof.Machine.execMul t w s
  | .mulhu t w => Sys2Proof.Machine.execMulhu t w s
  | .min t w => Sys2Proof.Machine.execMin t w s
  | .max t w => Sys2Proof.Machine.execMax t w s
  | .minu t w => Sys2Proof.Machine.execMinu t w s
  | .maxu t w => Sys2Proof.Machine.execMaxu t w s
  | .slt t w => Sys2Proof.Machine.execSlt t w s
  | .sltu t w => Sys2Proof.Machine.execSltu t w s
  | .seq t w => Sys2Proof.Machine.execSeq t w s
  | .addi t w => Sys2Proof.Machine.execAddi t w s
  | .andi t w => Sys2Proof.Machine.execAndi t w s
  | .ori t w => Sys2Proof.Machine.execOri t w s
  | .xori t w => Sys2Proof.Machine.execXori t w s
  | .shli t w => Sys2Proof.Machine.execShli t w s
  | .shri t w => Sys2Proof.Machine.execShri t w s
  | .srai t w => Sys2Proof.Machine.execSrai t w s
  | .slti t w => Sys2Proof.Machine.execSlti t w s
  | .li t w => Sys2Proof.Machine.execLi t w s
  | .lsi t w => Sys2Proof.Machine.execLsi t w s
  | .ldu1 t w => Sys2Proof.Machine.execLdu1 t w s
  | .ldu2 t w => Sys2Proof.Machine.execLdu2 t w s
  | .ldu4 t w => Sys2Proof.Machine.execLdu4 t w s
  | .ld8 t w => Sys2Proof.Machine.execLd8 t w s
  | .lds1 t w => Sys2Proof.Machine.execLds1 t w s
  | .lds2 t w => Sys2Proof.Machine.execLds2 t w s
  | .lds4 t w => Sys2Proof.Machine.execLds4 t w s
  | .st1 t w => Sys2Proof.Machine.execSt1 t w s
  | .st2 t w => Sys2Proof.Machine.execSt2 t w s
  | .st4 t w => Sys2Proof.Machine.execSt4 t w s
  | .st8 t w => Sys2Proof.Machine.execSt8 t w s
  | .beq t w => Sys2Proof.Machine.execBeq t w s
  | .bne t w => Sys2Proof.Machine.execBne t w s
  | .blt t w => Sys2Proof.Machine.execBlt t w s
  | .bge t w => Sys2Proof.Machine.execBge t w s
  | .bltu t w => Sys2Proof.Machine.execBltu t w s
  | .bgeu t w => Sys2Proof.Machine.execBgeu t w s
  | .jal t w => Sys2Proof.Machine.execJal t w s
  | .jalr t w => Sys2Proof.Machine.execJalr t w s
  | .dbnz t w => Sys2Proof.Machine.execDbnz t w s
  | .capr t w => Sys2Proof.Machine.execCapr t w s
  | .eset t w => Sys2Proof.Machine.execEset t w s
  | .eget t w => Sys2Proof.Machine.execEget t w s
  | .ewait t w => Sys2Proof.Machine.execEwait t w s
  | .ewaitMet t => Sys2Proof.Machine.execEwaitMet t s
  | .blkend t w => Sys2Proof.Machine.execBlkend t w s
  | .halt t w => Sys2Proof.Machine.execHalt t w s
  | .dld t w => Sys2Proof.Machine.execDld t w s
  | .dsv t w => Sys2Proof.Machine.execDsv t w s
  | .dwr t w => Sys2Proof.Machine.execDwr t w s
  | .drd t w => Sys2Proof.Machine.execDrd t w s
  | .sld t w => Sys2Proof.Machine.execSld t w s
  | .sst t w => Sys2Proof.Machine.execSst t w s
  | .sacc t w => Sys2Proof.Machine.execSacc t w s
  | .ssig t w => Sys2Proof.Machine.execSsig t w s
  | .swait t w => Sys2Proof.Machine.execSwait t w s
  | .cqput t w => Sys2Proof.Machine.execCqput t w s
  | .cqacq t w => Sys2Proof.Machine.execCqacq t w s
  | .cqget t w => Sys2Proof.Machine.execCqget t w s
  | .cqrel t w => Sys2Proof.Machine.execCqrel t w s
  | .sbrd t w => Sys2Proof.Machine.execSbrd t w s
  | .sbwait t w => Sys2Proof.Machine.execSbwait t w s
  | .ptpin t w => Sys2Proof.Machine.execPtpin t w s
  | .ptrel t w => Sys2Proof.Machine.execPtrel t w s
  | .syncSignalApply obj => Sys2Proof.Machine.execSyncSignalApply obj s
  | .syncWaitMet t => Sys2Proof.Machine.execSyncWaitMet t s
  | .syncWaitTimeout t => Sys2Proof.Machine.execSyncWaitTimeout t s
  | .syncStallBoundExpiry t => Sys2Proof.Machine.execSyncStallBoundExpiry t s
  | .drda t w => Sys2Proof.Machine.execDrda t w s
  | .drbs t w => Sys2Proof.Machine.execDrbs t w s
  | .mmBf16 t w => Sys2Proof.Machine.execMmBf16 t w s
  | .mmF16 t w => Sys2Proof.Machine.execMmF16 t w s
  | .mmF8 t w => Sys2Proof.Machine.execMmF8 t w s
  | .mmF8c t w => Sys2Proof.Machine.execMmF8c t w s
  | .mmMx t w => Sys2Proof.Machine.execMmMx t w s
  | .mmPx t w => Sys2Proof.Machine.execMmPx t w s
  | .mmAtt t w => Sys2Proof.Machine.execMmAtt t w s
  | .mmPark t w => Sys2Proof.Machine.execMmPark t w s
  | .mmUnpark t w => Sys2Proof.Machine.execMmUnpark t w s
  | .vadd t w => Sys2Proof.Machine.execVadd t w s
  | .vsub t w => Sys2Proof.Machine.execVsub t w s
  | .vmul t w => Sys2Proof.Machine.execVmul t w s
  | .vmax t w => Sys2Proof.Machine.execVmax t w s
  | .vmin t w => Sys2Proof.Machine.execVmin t w s
  | .vscale t w => Sys2Proof.Machine.execVscale t w s
  | .vaxpy t w => Sys2Proof.Machine.execVaxpy t w s
  | .vcvt t w => Sys2Proof.Machine.execVcvt t w s
  | .vcmp t w => Sys2Proof.Machine.execVcmp t w s
  | .vcmps t w => Sys2Proof.Machine.execVcmps t w s
  | .vep t w => Sys2Proof.Machine.execVep t w s
  | .vepBias t w => Sys2Proof.Machine.execVepBias t w s
  | .vepAtt t w => Sys2Proof.Machine.execVepAtt t w s
  | .vnorm t w => Sys2Proof.Machine.execVnorm t w s
  | .vrms t w => Sys2Proof.Machine.execVrms t w s
  | .vstk t w => Sys2Proof.Machine.execVstk t w s
  | .mdrExp t w => Sys2Proof.Machine.execMdrExp t w s
  | .mdrLog t w => Sys2Proof.Machine.execMdrLog t w s
  | .mdrRcp t w => Sys2Proof.Machine.execMdrRcp t w s
  | .mdrRsqrt t w => Sys2Proof.Machine.execMdrRsqrt t w s
  | .mdrErf t w => Sys2Proof.Machine.execMdrErf t w s
  | .mdrGelu t w => Sys2Proof.Machine.execMdrGelu t w s
  | .mdrGelut t w => Sys2Proof.Machine.execMdrGelut t w s
  | .mdrSilu t w => Sys2Proof.Machine.execMdrSilu t w s
  | .mdrTab t w => Sys2Proof.Machine.execMdrTab t w s
  | .mdrPexp t w => Sys2Proof.Machine.execMdrPexp t w s
  | .mdrTld t w => Sys2Proof.Machine.execMdrTld t w s
  | .copy q seq f => Sys2Proof.Machine.execCopy q seq f s
  | .fill q seq => Sys2Proof.Machine.execFill q seq s
  | .coll q seq => Sys2Proof.Machine.execColl q seq s
  | .kvAppend q seq f => Sys2Proof.Machine.execKvAppend q seq f s
  | .ptEdit q seq f => Sys2Proof.Machine.execPtEdit q seq f s
  | .ptCommit q seq => Sys2Proof.Machine.execPtCommit q seq s
  | .nextEpochOpen c => Sys2Proof.Machine.execNextEpochOpen c s
  | .code q seq => Sys2Proof.Machine.execCode q seq s
  | .ochreUnitComplete e f => Sys2Proof.Machine.execOchreUnitComplete e f s
  | .digest q seq f => Sys2Proof.Machine.execDigest q seq f s
  | .digestPublishReceive src ver lanes => Sys2Proof.Machine.execDigestPublishReceive src ver lanes s
  | .digestPublishTimeout => Sys2Proof.Machine.execDigestPublishTimeout s
  | .commit q seq => Sys2Proof.Machine.execCommit q seq s
  | .checkpoint q seq f => Sys2Proof.Machine.execCheckpoint q seq f s
  | .syncSignal q seq => Sys2Proof.Machine.execSyncSignal q seq s
  | .syncWait q seq => Sys2Proof.Machine.execSyncWait q seq s
  | .syncWaitCommandTimeout q seq => Sys2Proof.Machine.execSyncWaitCommandTimeout q seq s
  | .stepEventSet q seq => Sys2Proof.Machine.execStepEventSet q seq s
  | .selftest q seq imgs adds => Sys2Proof.Machine.execSelftest q seq imgs adds s
  | .contributionArrive i0 f => Sys2Proof.Machine.execContributionArrive i0 f s
  | .vaultRemapCopyDone v what => Sys2Proof.Machine.execVaultRemapCopyDone v what s
  | .patrolScrubVisit g res => Sys2Proof.Machine.execPatrolScrubVisit g res s
  | .dpmAlloc k => Sys2Proof.Machine.execDpmAlloc k s
  | .dpmFree k => Sys2Proof.Machine.execDpmFree k s
  | .planReq k => Sys2Proof.Machine.execPlanReq k s
  | .planComplete f => Sys2Proof.Machine.execPlanComplete f s
  | .msaSqClr k => Sys2Proof.Machine.execMsaSqClr k s
  | .memCfgWrite k => Sys2Proof.Machine.execMemCfgWrite k s
  | .ctxCfgWrite k => Sys2Proof.Machine.execCtxCfgWrite k s
  | .wrCfgWrite k => Sys2Proof.Machine.execWrCfgWrite k s
  | .parkCfgWrite k => Sys2Proof.Machine.execParkCfgWrite k s
  | .ringHashSend r => Sys2Proof.Machine.execRingHashSend r s
  | .ringHashReceive r src h => Sys2Proof.Machine.execRingHashReceive r src h s
  | .rotationStart r f => Sys2Proof.Machine.execRotationStart r f s
  | .ringBlockLanded r ccw data f => Sys2Proof.Machine.execRingBlockLanded r ccw data f s
  | .ringCreditGrant r ccw => Sys2Proof.Machine.execRingCreditGrant r ccw s
  | .ringGradientForward r f u res => Sys2Proof.Machine.execRingGradientForward r f u res s
  | .rotationEnd r => Sys2Proof.Machine.execRotationEnd r s
  | .ringReform r cfg gbuf => Sys2Proof.Machine.execRingReform r cfg gbuf s
  | .trnEnableSet k => Sys2Proof.Machine.execTrnEnableSet k s
  | .trnEnableClear k => Sys2Proof.Machine.execTrnEnableClear k s
  | .microbatchSwitch xq xseq yq => Sys2Proof.Machine.execMicrobatchSwitch xq xseq yq s
  | .normContribution f => Sys2Proof.Machine.execNormContribution f s
  | .normFoldComplete => Sys2Proof.Machine.execNormFoldComplete s
  | .commitReadySend => Sys2Proof.Machine.execCommitReadySend s
  | .barrierMessageReceive src m => Sys2Proof.Machine.execBarrierMessageReceive src m s
  | .commitTimeout => Sys2Proof.Machine.execCommitTimeout s
  | .flip => Sys2Proof.Machine.execFlip s
  | .mirrorAccepted => Sys2Proof.Machine.execMirrorAccepted s
  | .backupDeadline i0 => Sys2Proof.Machine.execBackupDeadline i0 s
  | .backupSelection i0 => Sys2Proof.Machine.execBackupSelection i0 s
  | .contributionTimeout => Sys2Proof.Machine.execContributionTimeout s
  | .takeoverRestoreComplete hdr w o hasG gr weights => Sys2Proof.Machine.execTakeoverRestoreComplete hdr w o hasG gr weights s
  | .grpCfgWrite k => Sys2Proof.Machine.execGrpCfgWrite k s
  | .collBecomesCurrent g => Sys2Proof.Machine.execCollBecomesCurrent g s
  | .collHandshakeReceive g seq src h d => Sys2Proof.Machine.execCollHandshakeReceive g seq src h d s
  | .collPieceReceive g seq src kind rank off flags sat data f u res => Sys2Proof.Machine.execCollPieceReceive g seq src kind rank off flags sat data f u res s
  | .collTimeoutExpiry g => Sys2Proof.Machine.execCollTimeoutExpiry g s
  | .collTimeoutMessage g seq rank => Sys2Proof.Machine.execCollTimeoutMessage g seq rank s
  | .collAbort k => Sys2Proof.Machine.execCollAbort k s
  | .collAbortMessage g seq cause rank => Sys2Proof.Machine.execCollAbortMessage g seq cause rank s
  | .collResume g r => Sys2Proof.Machine.execCollResume g r s
  | .ochCfgWrite k => Sys2Proof.Machine.execOchCfgWrite k s
  | .fabCfgWrite k => Sys2Proof.Machine.execFabCfgWrite k s
  | .fabXrouteWrite k => Sys2Proof.Machine.execFabXrouteWrite k s
  | .fabData p sl bytes => Sys2Proof.Machine.execFabData p sl bytes s
  | .fabSig p sl bytes => Sys2Proof.Machine.execFabSig p sl bytes s
  | .fabAck p sl bytes => Sys2Proof.Machine.execFabAck p sl bytes s
  | .fabNak p sl bytes => Sys2Proof.Machine.execFabNak p sl bytes s
  | .fabCtl p sl bytes m f => Sys2Proof.Machine.execFabCtl p sl bytes m f s
  | .fabResendTimer => Sys2Proof.Machine.execFabResendTimer s
  | .fabUnreachableTimeout => Sys2Proof.Machine.execFabUnreachableTimeout s
  | .stbCfgWrite k => Sys2Proof.Machine.execStbCfgWrite k s
  | .stbStepRead k => Sys2Proof.Machine.execStbStepRead k s
  | .cadencePulse width take => Sys2Proof.Machine.execCadencePulse width take s
  | .cadenceMiss => Sys2Proof.Machine.execCadenceMiss s
  | .stepChangeEffect => Sys2Proof.Machine.execStepChangeEffect s
  | .masterElection id tick step phase => Sys2Proof.Machine.execMasterElection id tick step phase s
  | .alignmentCheck src off cfg win => Sys2Proof.Machine.execAlignmentCheck src off cfg win s
  | .masterSilence => Sys2Proof.Machine.execMasterSilence s
  | .stbEvtWord0Write k => Sys2Proof.Machine.execStbEvtWord0Write k s
  | .stbEvtWord1Write k => Sys2Proof.Machine.execStbEvtWord1Write k s
  | .stepEventFire => Sys2Proof.Machine.execStepEventFire s
  | .stbQholdWrite k => Sys2Proof.Machine.execStbQholdWrite k s
  | .lgCfgWrite k => Sys2Proof.Machine.execLgCfgWrite k s
  | .lockGroupTick g => Sys2Proof.Machine.execLockGroupTick g s
  | .chkCfgWrite k => Sys2Proof.Machine.execChkCfgWrite k s
  | .checkUnitComplete t sigTile sigChecker => Sys2Proof.Machine.execCheckUnitComplete t sigTile sigChecker s
  | .thirdExecutionComplete t sig => Sys2Proof.Machine.execThirdExecutionComplete t sig s
  | .marginRecordWrite => Sys2Proof.Machine.execMarginRecordWrite s
  | .mrgClrLevels k => Sys2Proof.Machine.execMrgClrLevels k s
  | .mrgClrRetired k => Sys2Proof.Machine.execMrgClrRetired k s
  | .testWindowOpen c => Sys2Proof.Machine.execTestWindowOpen c s
  | .testPositionClear c => Sys2Proof.Machine.execTestPositionClear c s
  | .structuralTestComplete c pass => Sys2Proof.Machine.execStructuralTestComplete c pass s
  | .clockFault c => Sys2Proof.Machine.execClockFault c s
  | .relockTimeout c => Sys2Proof.Machine.execRelockTimeout c s
  | .voltageFault i0 => Sys2Proof.Machine.execVoltageFault i0 s
  | .voltageLossTimeout i0 => Sys2Proof.Machine.execVoltageLossTimeout i0 s
  | .thermalFault k => Sys2Proof.Machine.execThermalFault k s
  | .thermalLossTimeout k => Sys2Proof.Machine.execThermalLossTimeout k s
  | .imageCrcCheck p good => Sys2Proof.Machine.execImageCrcCheck p good s
  | .heartbeatSend => Sys2Proof.Machine.execHeartbeatSend s
  | .heartbeatMiss id => Sys2Proof.Machine.execHeartbeatMiss id s
  | .moduleDeclaration id => Sys2Proof.Machine.execModuleDeclaration id s
  | .masterUnreachable => Sys2Proof.Machine.execMasterUnreachable s
  | .fltTensorWrite k => Sys2Proof.Machine.execFltTensorWrite k s
  | .modPwrEnRise => Sys2Proof.Machine.execModPwrEnRise s
  | .powerGroupInLimits adr => Sys2Proof.Machine.execPowerGroupInLimits adr s
  | .powerGroupTimeout d => Sys2Proof.Machine.execPowerGroupTimeout d s
  | .effectiveRelease => Sys2Proof.Machine.execEffectiveRelease s
  | .modRstNPulse ns take => Sys2Proof.Machine.execModRstNPulse ns take s
  | .modPwrEnFall => Sys2Proof.Machine.execModPwrEnFall s
  | .inputVoltageFault => Sys2Proof.Machine.execInputVoltageFault s
  | .bootStageEnd a b imgs adds bad => Sys2Proof.Machine.execBootStageEnd a b imgs adds bad s
  | .flashReadTimeout d => Sys2Proof.Machine.execFlashReadTimeout d s
  | .domCfgWrite k => Sys2Proof.Machine.execDomCfgWrite k s
  | .domFormGo k => Sys2Proof.Machine.execDomFormGo k s
  | .domainDecision => Sys2Proof.Machine.execDomainDecision s
  | .formTimeout => Sys2Proof.Machine.execFormTimeout s
  | .updSrcWrite k => Sys2Proof.Machine.execUpdSrcWrite k s
  | .program k => Sys2Proof.Machine.execProgram k s
  | .programComplete ok blk => Sys2Proof.Machine.execProgramComplete ok blk s
  | .activate k => Sys2Proof.Machine.execActivate k s
  | .confirm k => Sys2Proof.Machine.execConfirm k s
  | .cancel k => Sys2Proof.Machine.execCancel k s
  | .saveDomain k => Sys2Proof.Machine.execSaveDomain k s
  | .trialTimer => Sys2Proof.Machine.execTrialTimer s
  | .trialFallback => Sys2Proof.Machine.execTrialFallback s
  | .attCtlGo k => Sys2Proof.Machine.execAttCtlGo k s
  | .attReportDone => Sys2Proof.Machine.execAttReportDone s
  | .thermalLoopEval c tj td => Sys2Proof.Machine.execThermalLoopEval c tj td s
  | .powerLoopEval pin vin => Sys2Proof.Machine.execPowerLoopEval pin vin s
  | .powerFastLimit => Sys2Proof.Machine.execPowerFastLimit s
  | .pwrCapWrite k => Sys2Proof.Machine.execPwrCapWrite k s
  | .thermalTrip => Sys2Proof.Machine.execThermalTrip s
  | .smbStatus pec => Sys2Proof.Machine.execSmbStatus pec s
  | .smbAlertCause pec => Sys2Proof.Machine.execSmbAlertCause pec s
  | .smbFailedDomain pec => Sys2Proof.Machine.execSmbFailedDomain pec s
  | .smbBootStat pec => Sys2Proof.Machine.execSmbBootStat pec s
  | .smbVinMv pec => Sys2Proof.Machine.execSmbVinMv pec s
  | .smbPinW pec => Sys2Proof.Machine.execSmbPinW pec s
  | .smbTjMax pec => Sys2Proof.Machine.execSmbTjMax pec s
  | .smbTdMax pec => Sys2Proof.Machine.execSmbTdMax pec s
  | .smbTIn pec => Sys2Proof.Machine.execSmbTIn pec s
  | .smbTOut pec => Sys2Proof.Machine.execSmbTOut pec s
  | .smbDevnum pec => Sys2Proof.Machine.execSmbDevnum pec s
  | .smbModId pec => Sys2Proof.Machine.execSmbModId pec s
  | .smbusSclTimeout => Sys2Proof.Machine.execSmbusSclTimeout s
  | .bypass => Sys2Proof.Machine.execBypass s
  | .idcode => Sys2Proof.Machine.execIdcode s
  | .samplePreload pins load => Sys2Proof.Machine.execSamplePreload pins load s
  | .extest pins load => Sys2Proof.Machine.execExtest pins load s
  | .clamp => Sys2Proof.Machine.execClamp s
  | .highz => Sys2Proof.Machine.execHighz s
  | .extestPulse pins load => Sys2Proof.Machine.execExtestPulse pins load s
  | .extestTrain pins load => Sys2Proof.Machine.execExtestTrain pins load s
  | .optimiserRestoreComplete bytes => Sys2Proof.Machine.execOptimiserRestoreComplete bytes s
  | .pllRelockComplete c => Sys2Proof.Machine.execPllRelockComplete c s
  | .voltageRestored i0 => Sys2Proof.Machine.execVoltageRestored i0 s
  | .thermalLimitCleared k => Sys2Proof.Machine.execThermalLimitCleared k s
  | .refclkFault => Sys2Proof.Machine.execRefclkFault s
  | .inputVoltageInRange => Sys2Proof.Machine.execInputVoltageInRange s
  | .flashWriteTimeout d => Sys2Proof.Machine.execFlashWriteTimeout d s
  | .checkSlotEnd c => Sys2Proof.Machine.execCheckSlotEnd c s

end Sys2Proof.Machine
end

