-- ==== Sys2Proof/Safety.lean ====
section
/-! DEFINITION. What the claims are about beside Memory.wf: runs, what only one tile or one part of the state may have
changed, and the registers that were written. -/
namespace Sys2Proof.Machine

/-- A state reached in some number of steps. -/
inductive Reaches (s : State) : State → Prop where
  | refl : Reaches s s
  | next {t u : State} : Reaches s t → step t = .next u → Reaches s u

/-- Nothing but the context of tile t differs between s and s'. -/
def OnlyTile (t : Nat) (s s' : State) : Prop :=
  (∀ u, u ≠ t → s'.tile u = s.tile u) ∧ s' = { s with tl := { s.tl with tile := s'.tl.tile } }

/-- What a scalar instruction may change of its tile: scalar registers, PC, the block's cycle count and signature, the
order of use of the cached lines. Masks, events, descriptors, scratchpad, accumulators, queues and the rest stay. -/
def ScalarFrame (x y : Tile) : Prop :=
  y = { x with s := y.s, pc := y.pc, active := y.active, atBlk := y.atBlk, sig := y.sig, icache := y.icache }

/-- Every scalar register but r reads in y as in x. -/
def OtherRegs (r : Nat) (x y : Tile) : Prop := ∀ k, k ≠ r → y.rd k = x.rd k

/-- Tile t's next instruction is w, of class c and opcode o, and issues now: its LAUNCH is l. -/
def Issues (s : State) (t : Nat) (c o : Nat) (w : W64) (l : Launch) : Prop :=
  s.gate t c o w = .go l ∧ predicate (s.tile t) w = some true

/-- What the issue of an engine instruction may change of its tile: the queues, PC, the block's cycle count and signature, the
order of use of the cached lines. -/
def IssueFrame (x y : Tile) : Prop :=
  y = { x with q := y.q, pc := y.pc, active := y.active, atBlk := y.atBlk, sig := y.sig, icache := y.icache }

/-- The oldest running instruction i of engine e of tile t ends now and in order: the tile is not held, nobody watches its
results, its event slots name distinct events that are not full, and its LAUNCH has met no fault. -/
def EndsInOrder (s : State) (t : Nat) (e : Eng) (i : EInstr) : Prop :=
  ((s.tile t).running e).head? = some i ∧ s.tileHeld t = false ∧ s.plaus (t / 16) = false ∧ dupEvents i.w = false ∧
  (∀ k ∈ W.sigs i.w, (s.tile t).ev k ≠ 15) ∧ (∀ l, s.launchOf t = some l → l.fault = none)

/-- The codes and the residue checks found nothing while memory was read. -/
def noFind : MemFind := { corr := [], ue := [], res := [] }

/-- The codes and checksums found nothing at a completion. -/
def cleanFind (flag : Bool) : EngFind := { mem := noFind, spadCorr := 0, spadUe := false, flag := flag }

/-- What the end of an arithmetic instruction i of engine e does beside its result: it leaves the engine, adds 1 to each
event it signals and to no other, and touches no other tile, memory, register of the window, sync object, queue or port. -/
def ArithEnd (t : Nat) (e : Eng) (i : EInstr) (s s' : State) : Prop :=
  (∀ u, u ≠ t → s'.tile u = s.tile u) ∧ s'.mem = s.mem ∧ s'.regs = s.regs ∧ s'.sync = s.sync ∧ s'.host = s.host ∧
  s'.ports = s.ports ∧
  (s'.tile t).running e = ((s.tile t).running e).erase i ∧ (s'.tile t).q = (s.tile t).q ∧
  (s'.tile t).pc = (s.tile t).pc ∧ (s'.tile t).d = (s.tile t).d ∧ (s'.tile t).s = (s.tile t).s ∧
  (∀ k, (s'.tile t).ev k = (s.tile t).ev k + (if k ∈ W.sigs i.w then 1 else 0))

/-- A packet of type ty for this module alone that arrives on PXU while packets are served, and is good under R41. -/
def OnPxu (s : State) (k : Packet) (ty : Nat) : Prop :=
  (s.port .pxu).st = .active ∧ s.serving = true ∧ fld k.dw0 0 4 = ty ∧ bit k.dw0 5 = false ∧ s.addressed k = true ∧
  fld k.dw0 12 11 ≠ 2047 ∧ headerFault k = none

/-- One packet r goes up in answer to k: its type, DIR, the module's number, k's TAG, its words and its payload. -/
def Answers (s : State) (k r : Packet) (ty : Nat) (dw1 : W32) (v : W64) (payload : List Byte) : Prop :=
  fld r.dw0 0 4 = ty ∧ bit r.dw0 4 = true ∧ fld r.dw0 6 6 = s.modNumber ∧ fld r.dw0 23 9 = fld k.dw0 23 9 ∧
  r.dw1 = dw1 ∧ r.dw2 = v.setWidth 32 ∧ r.dw3 = (v >>> 32).setWidth 32 ∧ r.payload = padTo 32 payload

/-- s' follows s by the answer alone, beside the ports (from which the packet was taken). -/
def OnlyAnswered (s s' : State) (k : Packet) (ty : Nat) (dw1 : W32) (v : W64) (payload : List Byte) : Prop :=
  ∃ r, Answers s k r ty dw1 v payload ∧
    s' = { s with ports := s'.ports, host := { s.host with upTx := s.host.upTx ++ [r] } }

/-- The packet, taken from its port, waits behind those that wait; nothing else changes (R43). -/
def WaitsBehind (c : Instr) (s : State) : Prop :=
  ∃ s', exec c s = .next s' ∧ s' = { s with ports := s'.ports, host := { s.host with late := s.host.late ++ [c] } }

/-- Every other port is as it was. -/
def OtherPorts (p : PortId) (s s' : State) : Prop := ∀ q, q ≠ p → s'.port q = s.port q

/-- A REG_WR to this module alone that writes w to the register at offset o, outside RECOVERY. -/
def Writes (s : State) (k : Packet) (o : Nat) (w : W64) : Prop :=
  OnPxu s k 0x3 ∧ fld k.dw1 0 20 = o ∧ k.dw3 ++ k.dw2 = w ∧ s.recovery = false

/-- A REG_WR was answered with a status and nothing else went up. -/
def WriteAnswered (s s' : State) (k : Packet) (st : W32) : Prop :=
  ∃ r, Answers s k r 0x3 st 0 [] ∧ s'.host.upTx = s.host.upTx ++ [r]

/-- Every stored register but the one at o reads as before. -/
def OtherRegisters (o : Nat) (s s' : State) : Prop := ∀ x, x ≠ o → s'.reg x = s.reg x

/-- The command n of queue q ends with a status and result data; every other command stays as it is. -/
def Ended (s s' : State) (q : Nat) (n : W32) (st : W16) (data : List Byte) : Prop :=
  (∃ c, s.findCmd q n = some c ∧ s'.findCmd q n = some { c with phase := .ended st, data := data }) ∧
  ∀ (p : Nat) (m : W32), (p, m) ≠ (q, n) → s'.findCmd p m = s.findCmd p m

/-- The command n of queue q ends and nothing but the record of it changes. -/
def OnlyEnded (s s' : State) (q : Nat) (n : W32) (st : W16) (data : List Byte) : Prop :=
  Ended s s' q n st data ∧ s' = { s with host := { s.host with queues := s'.host.queues } }

/-- The command n of queue q is c, dispatched and running, of opcode o. -/
def Runs (s : State) (q : Nat) (n : W32) (o : Nat) (c : Cmd) : Prop :=
  s.findCmd q n = some c ∧ c.phase = .running ∧ Cmd.opcode c = o

/-- n bytes from module address a lie in one tier and no granule of them is uncorrectable. -/
def Whole (s : State) (a n : Nat) : Prop :=
  inOneTier a n = true ∧ ∀ i, i < n → ∀ l, s.addrLoc (a + i) = some l → s.mem.ue.contains (l / 64) = false

/-- Memory from module address a holds the bytes. -/
def Holds (s : State) (a : Nat) (bs : List Byte) : Prop :=
  ∀ (i : Nat) (b : Byte), bs[i]? = some b → ∃ l, s.addrLoc (a + i) = some l ∧ s.memByte l = b

/-- Every byte of memory outside n bytes from module address a reads as before. -/
def BytesOutside (s s' : State) (a n : Nat) : Prop :=
  ∀ l, (∀ i, i < n → s.addrLoc (a + i) ≠ some l) → s'.memByte l = s.memByte l

/-- Every byte of memory reads as before. -/
def SameBytes (s s' : State) : Prop := ∀ l, s'.memByte l = s.memByte l

/-- An operand at bit lo as a module address, outside DPM. -/
def addrOp (c : Cmd) (lo : Nat) : Nat := (BitVec.ofNat 64 (Cmd.opnd c lo 64)).toNat

/-- The update record is written granule by granule and nothing of memory is uncorrectable, so that no write of the protocol's own
meets an error (10 R262). -/
def RecordPlain (s : State) : Prop := s.mem.ue = [] ∧ s.recRef.num % 64 = 0

/-- The granules of n bytes from address a carry no round of contributions: nothing is held for them, and no order count runs. -/
def NoRound (s : State) (a n : Nat) : Prop :=
  ∀ i, i < n → ∀ l, s.addrLoc (a + i) = some l → Tab.get 0 s.mem.ordc (l / 64) = 0 ∧ ∀ x ∈ s.mem.held, x.gran ≠ l / 64

/-- The module hands packets to the fabric, each to its destination, behind those it keeps. -/
def Posted (s s' : State) (l : List (BitVec 12 × FabBody)) : Prop :=
  ∃ ps, s'.fab.sent = s.fab.sent ++ ps ∧ ps.map (fun p => (p.dst, p.body)) = l

/-- A packet of a type for this module arrives in good order at a fabric port that carries traffic. -/
def Arrives (s : State) (p : BitVec 4) (sl : Bool) (b : List Byte) (ty : Nat) : Prop :=
  s.fabUp p.toNat = true ∧ s.portStopped (.fab p) = false ∧ s.flt.fenced = false ∧ s.host.ident = some (Fab.dst b) ∧
  Fab.good sl b = true ∧ Fab.ty b = ty

/-- An answer to a packet of a lane is due: its source, the lane, whether it refuses, the number. -/
def Owes (s s' : State) (b : List Byte) (sl nak : Bool) : Prop :=
  s'.fab.acks = s.fab.acks ++ [(Fab.src b, b2n sl, nak, Fab.eseq b)]

/-- The latest entry of the fault log: its class, reaction and UNIT. -/
def LastLog (s : State) (cls action : Nat) (unit : W16) : Prop :=
  ∃ e, s.flt.log.getLast? = some e ∧ e.seq + 1 = s.flt.next ∧ e.cls = cls ∧ e.action = action ∧ e.unit = unit

/-- The fault counters of a list have risen by one, no other has changed. -/
def Counts (s s' : State) (l : List Nat) : Prop :=
  ∀ k, Tab.get 0 s'.flt.cnt k = Tab.get 0 s.flt.cnt k + (if k ∈ l then 1 else 0)

/-- Nothing but the state of failure handling differs, beside events that go up. -/
def OnlyFault (s s' : State) : Prop := s' = { s with flt := s'.flt, host := { s.host with upTx := s'.host.upTx } }

/-- Nothing but cluster c differs. -/
def OnlyCluster (c : Nat) (s s' : State) : Prop :=
  s' = { s with flt := { s.flt with cluster := s'.flt.cluster } } ∧ ∀ m, m ≠ c → s'.cluster m = s.cluster m

/-- Only the window and the roles of a cluster may have changed, beside when its last window opened and where. -/
def WindowFrame (x y : Cluster) : Prop :=
  y = { x with roles := y.roles, noMordant := y.noMordant, win := y.win, lastWin := y.lastWin, lastPos := y.lastPos }

/-- The module has fenced itself: every command that was queued or running ends with MODULE_FENCED. -/
def Fenced (s s' : State) : Prop :=
  s'.flt.fenced = true ∧ LastLog s' 0x0F 8 0x80FF ∧ s'.mem = s.mem ∧ s'.regs = s.regs ∧ s'.fab.acks = [] ∧ s'.sync.remote = [] ∧
  ∀ (q : Nat) (n : W32) (c : Cmd), q < 64 → s.findCmd q n = some c → (∀ st, c.phase ≠ .done st) → c.phase ≠ .dropped →
    ∃ c', s'.findCmd q n = some c' ∧ c'.phase = .ended 0x0505

/-- Nothing but the supplies' state differs. -/
def OnlyPower (s s' : State) : Prop := s' = { s with pwr := s'.pwr }

/-- Nothing but the state of start-up and update differs. -/
def OnlyBoot (s s' : State) : Prop := s' = { s with boot := s'.boot }

/-- A REG_WR to this module alone that writes w to a register of start-up and update, which RECOVERY serves too. -/
def BootWrites (s : State) (k : Packet) (o : Nat) (w : W64) : Prop :=
  OnPxu s k 0x3 ∧ fld k.dw1 0 20 = o ∧ k.dw3 ++ k.dw2 = w ∧ 0x50000 ≤ o ∧ o < 0x51000

/-- A write is answered OK, and what it does to the state of start-up and update is f of the state as the packet has left its
port; nothing else changes. -/
def BootActs (c : Instr) (s : State) (k : Packet) (f : State → BootSt) : Prop :=
  ∃ s', exec c s = .next s' ∧ WriteAnswered s s' k 0 ∧
    s' = { s with ports := s'.ports, boot := f { s with ports := s'.ports }, host := { s.host with upTx := s'.host.upTx } }

/-- A write is turned away with ERR_RANGE and nothing changes. -/
def TurnedAway (c : Instr) (s : State) (k : Packet) : Prop := ∃ s', exec c s = .next s' ∧ OnlyAnswered s s' k 0x3 0x0202 0 []

/-- The master decides for its domain: COMPLETE, DEGRADED or INCOMPLETE by who is present, and tells the domain. -/
def Decided (s s' : State) : Prop :=
  let e := s.domExpect
  let p := s.presentNow
  let st := if e &&& p = e then 2 else if s.domMin ≤ popcount (e &&& p) then 3 else 4
  s'.dom = { s.dom with st := st, present := p, decided := true, status := if st = 4 then 0x0802 else 0 } ∧
  Posted s s' (((s.stb.known.filter (fun d => domainOf d == domainOf s.ownIdent)).filter (fun d => some d != s.host.ident)).map
    (fun d => (d, .ctl (.domain st p)))) ∧
  (st = 4 → LastLog s' 0x12 0 0x8050) ∧ s'.mem = s.mem ∧ s'.regs = s.regs ∧ s'.tl = s.tl

/-- The units of the module have lost what they held: registers, links, tiles, queues and the rest are as at reset; the flash
devices' bytes, the fuses and the waiting commands stay. -/
def Cleared (s s' : State) : Prop :=
  s'.pending = s.pending ∧ s'.now = s.now ∧ s'.regs = [] ∧ s'.ports = [] ∧ s'.host = {} ∧ s'.tl = {} ∧ s'.sync = {} ∧ s'.cx = {} ∧
  s'.fab = {} ∧ s'.trn = {} ∧ s'.stb = {} ∧ s'.coll = {} ∧ s'.och = {} ∧ s'.ring = [] ∧ s'.dom = {} ∧ s'.mem.byte = [] ∧
  s'.boot.stage = 0 ∧ s'.boot.fl0.byte = s.boot.fl0.byte ∧ s'.boot.fl1.byte = s.boot.fl1.byte ∧
  s'.boot.svnMin = s.boot.svnMin ∧ s'.boot.revoked = s.boot.revoked

/-- The power-up sequence starts: the first group of domains ramps, every other one is off. -/
def PowersUp (s s' : State) : Prop :=
  s'.pwr.groups = 0 ∧ s'.pwr.groupAt = s.now ∧
  ∀ i, i < 64 → Tab.get 2 s'.pwr.pd i = (if i ∈ [61, 62, 63] then 1 else 0)

end Sys2Proof.Machine
end

