-- ==== Sys2Proof/Certificates/Slice0/Obligations.lean ====
section
/-! DEFINITION. The statements. -/
open Sys2Proof

open Sys2Proof.Machine

/-! ## Scalar instructions (04 R91 to R96) -/

/-- R92, R93: a register form writes its result to s[RD] (nothing where RD is s0), moves to the next word and changes nothing
else: no other register, no mask, event, descriptor, scratchpad byte or accumulator, no other tile, no other part of the
module. The Full form runs so when its predicate holds. R92, R93: the same for the immediate forms; a shift has an IMM of 0
to 63 (above, see PredicationAndScalarFaults).
The model's choices in it: log 9. -/
def Obligations.ScalarResult : Prop :=
  (
    ∀ p ∈ ([(Instr.add, 0x01, fun a b => a + b), (Instr.sub, 0x02, fun a b => a - b), (Instr.and, 0x03, fun a b => a &&& b),
        (Instr.or, 0x04, fun a b => a ||| b), (Instr.xor, 0x05, fun a b => a ^^^ b),
        (Instr.shl, 0x06, fun a b => a <<< (b.toNat % 64)), (Instr.shr, 0x07, fun a b => a >>> (b.toNat % 64)),
        (Instr.sra, 0x08, fun a b => a.sshiftRight (b.toNat % 64)),
        (Instr.mul, 0x09, fun a b => BitVec.ofNat 64 (a.toNat * b.toNat)),
        (Instr.mulhu, 0x0A, fun a b => BitVec.ofNat 64 (a.toNat * b.toNat / 2 ^ 64)),
        (Instr.min, 0x0B, fun a b => BitVec.ofInt 64 (min a.toInt b.toInt)),
        (Instr.max, 0x0C, fun a b => BitVec.ofInt 64 (max a.toInt b.toInt)),
        (Instr.minu, 0x0D, fun a b => BitVec.ofNat 64 (min a.toNat b.toNat)),
        (Instr.maxu, 0x0E, fun a b => BitVec.ofNat 64 (max a.toNat b.toNat)),
        (Instr.slt, 0x0F, fun a b => if a.toInt < b.toInt then 1 else 0),
        (Instr.sltu, 0x10, fun a b => if a.toNat < b.toNat then 1 else 0),
        (Instr.seq, 0x11, fun a b => if a = b then 1 else 0)] :
        List ((BitVec 8 → W64 → Instr) × Nat × (W64 → W64 → W64))),
      ∀ (t : BitVec 8) (w : W64) (s : State) (l : Launch), Issues s t.toNat 1 p.2.1 w l →
        ∃ s', exec (p.1 t w) s = .next s' ∧ OnlyTile t.toNat s s' ∧ ScalarFrame (s.tile t.toNat) (s'.tile t.toNat) ∧
          OtherRegs (W.rd w) (s.tile t.toNat) (s'.tile t.toNat) ∧
          (s'.tile t.toNat).rd (W.rd w) =
            (if W.rd w = 0 then 0 else p.2.2 ((s.tile t.toNat).rd (W.ra w)) ((s.tile t.toNat).rd (W.rb w))) ∧
          (s'.tile t.toNat).pc = (s.tile t.toNat).pc + 8 ∧ (s'.tile t.toNat).active = (s.tile t.toNat).active + 1) ∧
  (
    ∀ p ∈ ([(Instr.addi, 0x20, fun a w => a + BitVec.ofInt 64 (sfld w 0 26)),
        (Instr.andi, 0x21, fun a w => a &&& BitVec.ofInt 64 (sfld w 0 26)),
        (Instr.ori, 0x22, fun a w => a ||| BitVec.ofInt 64 (sfld w 0 26)),
        (Instr.xori, 0x23, fun a w => a ^^^ BitVec.ofInt 64 (sfld w 0 26)),
        (Instr.shli, 0x24, fun a w => a <<< fld w 0 6), (Instr.shri, 0x25, fun a w => a >>> fld w 0 6),
        (Instr.srai, 0x26, fun a w => a.sshiftRight (fld w 0 6)),
        (Instr.slti, 0x27, fun a w => if a.toInt < sfld w 0 26 then 1 else 0),
        (Instr.li, 0x28, fun _ w => BitVec.ofInt 64 (sfld w 0 26)),
        (Instr.lsi, 0x29, fun a w => BitVec.ofNat 64 (a.toNat * 2 ^ 26 + fld w 0 26))] :
        List ((BitVec 8 → W64 → Instr) × Nat × (W64 → W64 → W64))),
      ∀ (t : BitVec 8) (w : W64) (s : State) (l : Launch), Issues s t.toNat 1 p.2.1 w l →
        (0x24 ≤ p.2.1 → p.2.1 ≤ 0x26 → fld w 0 26 ≤ 63) →
        ∃ s', exec (p.1 t w) s = .next s' ∧ OnlyTile t.toNat s s' ∧ ScalarFrame (s.tile t.toNat) (s'.tile t.toNat) ∧
          OtherRegs (W.rd w) (s.tile t.toNat) (s'.tile t.toNat) ∧
          (s'.tile t.toNat).rd (W.rd w) = (if W.rd w = 0 then 0 else p.2.2 ((s.tile t.toNat).rd (W.ra w)) w) ∧
          (s'.tile t.toNat).pc = (s.tile t.toNat).pc + 8 ∧ (s'.tile t.toNat).active = (s.tile t.toNat).active + 1)

/-- R94: a load reads N bytes of the tile's scratchpad at s[RA] + IMM, little-endian, zero- or sign-extended. An address that is
no multiple of N, or whose bytes pass the end, is a program fault (see PredicationAndScalarFaults). R94: a store writes the
low N bytes of s[RB] to the scratchpad at s[RA] + IMM, little-endian, and no other byte, no register and nothing else but the
PC, the block's record and the order of the cached lines.
The model's choices in it: log 9. -/
def Obligations.ScalarMemoryResult : Prop :=
  (
    ∀ p ∈ ([(Instr.ldu1, 0x30, 1, false), (Instr.ldu2, 0x31, 2, false), (Instr.ldu4, 0x32, 4, false), (Instr.ld8, 0x33, 8, false),
        (Instr.lds1, 0x34, 1, true), (Instr.lds2, 0x35, 2, true), (Instr.lds4, 0x36, 4, true)] :
        List ((BitVec 8 → W64 → Instr) × Nat × Nat × Bool)),
      ∀ (t : BitVec 8) (w : W64) (s : State) (l : Launch) (a : Nat), Issues s t.toNat 1 p.2.1 w l →
        a = ((s.tile t.toNat).rd (W.ra w) + W.imm w).toNat → a % p.2.2.1 = 0 → a + p.2.2.1 ≤ 0x200000 →
        ∃ s', exec (p.1 t w) s = .next s' ∧ OnlyTile t.toNat s s' ∧ ScalarFrame (s.tile t.toNat) (s'.tile t.toNat) ∧
          OtherRegs (W.rd w) (s.tile t.toNat) (s'.tile t.toNat) ∧ (s'.tile t.toNat).pc = (s.tile t.toNat).pc + 8 ∧
          (W.rd w = 0 → (s'.tile t.toNat).rd 0 = 0) ∧
          (W.rd w ≠ 0 → ∀ i, i < p.2.2.1 →
            fld ((s'.tile t.toNat).rd (W.rd w)) (8 * i) 8 = (Tab.get 0 (s.tile t.toNat).spad (a + i)).toNat) ∧
          (W.rd w ≠ 0 → ∀ b, 8 * p.2.2.1 ≤ b → b < 64 →
            bit ((s'.tile t.toNat).rd (W.rd w)) b =
              (p.2.2.2 && bit ((s'.tile t.toNat).rd (W.rd w)) (8 * p.2.2.1 - 1)))) ∧
  (
    ∀ p ∈ ([(Instr.st1, 0x38, 1), (Instr.st2, 0x39, 2), (Instr.st4, 0x3A, 4), (Instr.st8, 0x3B, 8)] :
        List ((BitVec 8 → W64 → Instr) × Nat × Nat)),
      ∀ (t : BitVec 8) (w : W64) (s : State) (l : Launch) (a : Nat), Issues s t.toNat 1 p.2.1 w l →
        a = ((s.tile t.toNat).rd (W.ra w) + W.imm w).toNat → a % p.2.2 = 0 → a + p.2.2 ≤ 0x200000 →
        ∃ s', exec (p.1 t w) s = .next s' ∧ OnlyTile t.toNat s s' ∧
          ScalarFrame { s.tile t.toNat with spad := (s'.tile t.toNat).spad } (s'.tile t.toNat) ∧
          (∀ k, (s'.tile t.toNat).rd k = (s.tile t.toNat).rd k) ∧ (s'.tile t.toNat).pc = (s.tile t.toNat).pc + 8 ∧
          (∀ i, i < p.2.2 →
            (Tab.get 0 (s'.tile t.toNat).spad (a + i)).toNat = fld ((s.tile t.toNat).rd (W.rb w)) (8 * i) 8) ∧
          (∀ b, b < a ∨ a + p.2.2 ≤ b → Tab.get 0 (s'.tile t.toNat).spad b = Tab.get 0 (s.tile t.toNat).spad b))

/-- R92, R95: a conditional branch goes to PC + 8 × IMM where its comparison holds and the target is a multiple of 8 inside the
image (3 cycles), and to the next word where it does not (1 cycle); it writes no register. R92, R95: jal links the next
word's address in s[RD] and goes to PC + 8 × IMM, jalr to s[RA] + 8 × IMM; dbnz takes 1 from s[RA] and goes to PC + 8 × IMM
unless the result is 0. Each target is a multiple of 8 inside the image.
The model's choices in it: log 9. -/
def Obligations.BranchResult : Prop :=
  (
    ∀ p ∈ ([(Instr.beq, 0x40, fun a b => decide (a = b)), (Instr.bne, 0x41, fun a b => decide (a ≠ b)),
        (Instr.blt, 0x42, fun a b => decide (a.toInt < b.toInt)), (Instr.bge, 0x43, fun a b => decide (b.toInt ≤ a.toInt)),
        (Instr.bltu, 0x44, fun a b => decide (a.toNat < b.toNat)), (Instr.bgeu, 0x45, fun a b => decide (b.toNat ≤ a.toNat))] :
        List ((BitVec 8 → W64 → Instr) × Nat × (W64 → W64 → Bool))),
      ∀ (t : BitVec 8) (w : W64) (s : State) (l : Launch), Issues s t.toNat 1 p.2.1 w l →
        let x := s.tile t.toNat
        let target := x.pc + BitVec.ofInt 64 (8 * sfld w 0 26)
        (p.2.2 (x.rd (W.ra w)) (x.rd (W.rb w)) = true →
          target.toNat % 8 = 0 ∧ (target - BitVec.ofNat 64 l.prog).toNat < l.ilen) →
        ∃ s', exec (p.1 t w) s = .next s' ∧ OnlyTile t.toNat s s' ∧ ScalarFrame x (s'.tile t.toNat) ∧
          (∀ k, (s'.tile t.toNat).rd k = x.rd k) ∧
          (s'.tile t.toNat).pc = (if p.2.2 (x.rd (W.ra w)) (x.rd (W.rb w)) then target else x.pc + 8) ∧
          (s'.tile t.toNat).active = x.active + (if p.2.2 (x.rd (W.ra w)) (x.rd (W.rb w)) then 3 else 1)) ∧
  (
    ∀ (t : BitVec 8) (w : W64) (s : State) (l : Launch),
      let x := s.tile t.toNat
      let disp : W64 := BitVec.ofInt 64 (8 * sfld w 0 26)
      let inImage (a : W64) : Prop := a.toNat % 8 = 0 ∧ (a - BitVec.ofNat 64 l.prog).toNat < l.ilen
      (Issues s t.toNat 1 0x46 w l → inImage (x.pc + disp) →
        ∃ s', exec (.jal t w) s = .next s' ∧ OnlyTile t.toNat s s' ∧ ScalarFrame x (s'.tile t.toNat) ∧
          OtherRegs (W.rd w) x (s'.tile t.toNat) ∧ (s'.tile t.toNat).rd (W.rd w) = (if W.rd w = 0 then 0 else x.pc + 8) ∧
          (s'.tile t.toNat).pc = x.pc + disp ∧ (s'.tile t.toNat).active = x.active + 3) ∧
      (Issues s t.toNat 1 0x47 w l → inImage (x.rd (W.ra w) + disp) →
        ∃ s', exec (.jalr t w) s = .next s' ∧ OnlyTile t.toNat s s' ∧ ScalarFrame x (s'.tile t.toNat) ∧
          OtherRegs (W.rd w) x (s'.tile t.toNat) ∧ (s'.tile t.toNat).rd (W.rd w) = (if W.rd w = 0 then 0 else x.pc + 8) ∧
          (s'.tile t.toNat).pc = x.rd (W.ra w) + disp ∧ (s'.tile t.toNat).active = x.active + 3) ∧
      (Issues s t.toNat 1 0x48 w l → W.ra w ≠ 0 → (x.rd (W.ra w) ≠ 1 → inImage (x.pc + disp)) →
        ∃ s', exec (.dbnz t w) s = .next s' ∧ OnlyTile t.toNat s s' ∧ ScalarFrame x (s'.tile t.toNat) ∧
          OtherRegs (W.ra w) x (s'.tile t.toNat) ∧ (s'.tile t.toNat).rd (W.ra w) = x.rd (W.ra w) - 1 ∧
          (s'.tile t.toNat).pc = (if x.rd (W.ra w) = 1 then x.pc + 8 else x.pc + disp) ∧
          (s'.tile t.toNat).active = x.active + (if x.rd (W.ra w) = 1 then 1 else 3)))

/-- R92, R93, R96: the other control instructions. nop only moves on; capr reads a capability word; eset sets an event to
IMM bits 8:5 and eget reads it; ewait takes 1 from an event that is 1 or more and otherwise stalls on it, and EWAIT_MET
ends that stall; blkend and halt start their drain.
The model's choices in it: log 9. -/
def Obligations.ControlInstructionResult : Prop :=
  ∀ (t : BitVec 8) (w : W64) (s : State) (l : Launch),
    let x := s.tile t.toNat
    let e := fld w 0 5
    let moved (y : Tile) : Prop := y.pc = x.pc + 8 ∧ y.active = x.active + 1
    (Issues s t.toNat 1 0x00 w l →
      ∃ s', exec (.nop t w) s = .next s' ∧ OnlyTile t.toNat s s' ∧ ScalarFrame x (s'.tile t.toNat) ∧
        (∀ k, (s'.tile t.toNat).rd k = x.rd k) ∧ moved (s'.tile t.toNat)) ∧
    (Issues s t.toNat 1 0x50 w l → fld w 0 26 ≤ 3 →
      ∃ s', exec (.capr t w) s = .next s' ∧ OnlyTile t.toNat s s' ∧ ScalarFrame x (s'.tile t.toNat) ∧
        OtherRegs (W.rd w) x (s'.tile t.toNat) ∧
        (s'.tile t.toNat).rd (W.rd w) = (if W.rd w = 0 then 0 else capWord (fld w 0 26)) ∧ moved (s'.tile t.toNat)) ∧
    (Issues s t.toNat 1 0x51 w l →
      ∃ s', exec (.eset t w) s = .next s' ∧ OnlyTile t.toNat s s' ∧
        ScalarFrame { x with e := (s'.tile t.toNat).e } (s'.tile t.toNat) ∧ (∀ k, (s'.tile t.toNat).rd k = x.rd k) ∧
        ((s'.tile t.toNat).ev e).toNat = fld w 5 4 ∧ (∀ k, k ≠ e → (s'.tile t.toNat).ev k = x.ev k) ∧
        moved (s'.tile t.toNat)) ∧
    (Issues s t.toNat 1 0x52 w l →
      ∃ s', exec (.eget t w) s = .next s' ∧ OnlyTile t.toNat s s' ∧ ScalarFrame x (s'.tile t.toNat) ∧
        OtherRegs (W.rd w) x (s'.tile t.toNat) ∧
        ((s'.tile t.toNat).rd (W.rd w)).toNat = (if W.rd w = 0 then 0 else (x.ev e).toNat) ∧ moved (s'.tile t.toNat)) ∧
    (Issues s t.toNat 1 0x53 w l →
      ∃ s', exec (.ewait t w) s = .next s' ∧ OnlyTile t.toNat s s' ∧
        ScalarFrame { x with e := (s'.tile t.toNat).e, core := (s'.tile t.toNat).core } (s'.tile t.toNat) ∧
        (∀ k, (s'.tile t.toNat).rd k = x.rd k) ∧ (∀ k, k ≠ e → (s'.tile t.toNat).ev k = x.ev k) ∧
        (x.ev e ≠ 0 → (s'.tile t.toNat).core = .run ∧ (s'.tile t.toNat).ev e = x.ev e - 1 ∧ moved (s'.tile t.toNat)) ∧
        (x.ev e = 0 → (s'.tile t.toNat).core = .ewait e ∧ (s'.tile t.toNat).ev e = 0 ∧ (s'.tile t.toNat).pc = x.pc)) ∧
    (∀ a, x.core = .ewait a → x.ev a ≠ 0 →
      ∃ s', exec (.ewaitMet t) s = .next s' ∧ OnlyTile t.toNat s s' ∧
        s'.tile t.toNat = { x with core := .run, pc := x.pc + 8, e := (s'.tile t.toNat).e } ∧
        (s'.tile t.toNat).ev a = x.ev a - 1 ∧ (∀ k, k ≠ a → (s'.tile t.toNat).ev k = x.ev k)) ∧
    (Issues s t.toNat 1 0x54 w l →
      ∃ s', exec (.blkend t w) s = .next s' ∧ OnlyTile t.toNat s s' ∧
        ScalarFrame { x with core := .drain false } (s'.tile t.toNat) ∧ (∀ k, (s'.tile t.toNat).rd k = x.rd k) ∧
        (s'.tile t.toNat).pc = x.pc) ∧
    (Issues s t.toNat 1 0x55 w l →
      ∃ s', exec (.halt t w) s = .next s' ∧ OnlyTile t.toNat s s' ∧
        ScalarFrame { x with core := .drain true } (s'.tile t.toNat) ∧ (∀ k, (s'.tile t.toNat).rd k = x.rd k) ∧
        (s'.tile t.toNat).pc = x.pc)

/-- R91: an instruction whose predicate does not hold has no effect but to move to the next word, for every scalar row but
blkend, whose predicate R93 forbids. R93, R85: a shift by an IMM above 63, capr with an IMM above 3, dbnz with RA = 0 and a
Full form with PMODE 3 are OPERAND program faults: the tile stops, its waiting engine instructions are discarded, and the
LAUNCH has the fault recorded, by the lowest tile of those that fault in the earliest period; no register, mask, descriptor or
scratchpad byte of the tile changes, and at the end of the period every tile of a LAUNCH with a fault that holds its context
stops. R94, R61, R89: a load or store at an address that is no multiple of its width, or past the end of the scratchpad, is a
program fault as above: the tile stops and no scratchpad byte and no register changes.
The model's choices in it: log 9, 48, 86. -/
def Obligations.PredicationAndScalarFaults : Prop :=
  (
    ∀ p ∈ ([(Instr.nop, 0x00), (Instr.add, 0x01), (Instr.sub, 0x02), (Instr.and, 0x03), (Instr.or, 0x04), (Instr.xor, 0x05),
        (Instr.shl, 0x06), (Instr.shr, 0x07), (Instr.sra, 0x08), (Instr.mul, 0x09), (Instr.mulhu, 0x0A), (Instr.min,
        0x0B), (Instr.max, 0x0C), (Instr.minu, 0x0D), (Instr.maxu, 0x0E), (Instr.slt, 0x0F), (Instr.sltu, 0x10),
        (Instr.seq, 0x11), (Instr.addi, 0x20), (Instr.andi, 0x21), (Instr.ori, 0x22), (Instr.xori, 0x23), (Instr.shli,
        0x24), (Instr.shri, 0x25), (Instr.srai, 0x26), (Instr.slti, 0x27), (Instr.li, 0x28), (Instr.lsi, 0x29),
        (Instr.ldu1, 0x30), (Instr.ldu2, 0x31), (Instr.ldu4, 0x32), (Instr.ld8, 0x33), (Instr.lds1, 0x34), (Instr.lds2,
        0x35), (Instr.lds4, 0x36), (Instr.st1, 0x38), (Instr.st2, 0x39), (Instr.st4, 0x3A), (Instr.st8, 0x3B),
        (Instr.beq, 0x40), (Instr.bne, 0x41), (Instr.blt, 0x42), (Instr.bge, 0x43), (Instr.bltu, 0x44), (Instr.bgeu,
        0x45), (Instr.jal, 0x46), (Instr.jalr, 0x47), (Instr.dbnz, 0x48), (Instr.capr, 0x50), (Instr.eset, 0x51),
        (Instr.eget, 0x52), (Instr.ewait, 0x53), (Instr.halt, 0x55)] : List ((BitVec 8 → W64 → Instr) × Nat)),
      ∀ (t : BitVec 8) (w : W64) (s : State) (l : Launch), s.gate t.toNat 1 p.2 w = .go l →
        predicate (s.tile t.toNat) w = some false →
        ∃ s', exec (p.1 t w) s = .next s' ∧ OnlyTile t.toNat s s' ∧ ScalarFrame (s.tile t.toNat) (s'.tile t.toNat) ∧
          (∀ k, (s'.tile t.toNat).rd k = (s.tile t.toNat).rd k) ∧ (s'.tile t.toNat).pc = (s.tile t.toNat).pc + 8) ∧
  (
    ∀ p ∈ ([(Instr.shli, 0x24), (Instr.shri, 0x25), (Instr.srai, 0x26), (Instr.capr, 0x50), (Instr.dbnz, 0x48), (Instr.add, 0x01),
        (Instr.st4, 0x3A), (Instr.blkend, 0x54)] : List ((BitVec 8 → W64 → Instr) × Nat)),
      ∀ (t : BitVec 8) (w : W64) (s : State) (l : Launch), s.gate t.toNat 1 p.2 w = .go l →
        ((predicate (s.tile t.toNat) w = some true ∧
            ((0x24 ≤ p.2 ∧ p.2 ≤ 0x26 ∧ 63 < fld w 0 26) ∨ (p.2 = 0x50 ∧ 3 < fld w 0 26) ∨ (p.2 = 0x48 ∧ W.ra w = 0))) ∨
          predicate (s.tile t.toNat) w = none) →
        ∃ s', exec (p.1 t w) s = .next s' ∧
          (s'.tile t.toNat).core = .stopped ∧ (s'.tile t.toNat).q = [] ∧ (∀ u, u ≠ t.toNat → s'.tile u = s.tile u) ∧
          (∀ u, (s'.tile u).s = (s.tile u).s ∧ (s'.tile u).d = (s.tile u).d ∧ (s'.tile u).k = (s.tile u).k ∧
            (s'.tile u).e = (s.tile u).e ∧ (s'.tile u).spad = (s.tile u).spad ∧ (s'.tile u).pc = (s.tile u).pc) ∧
          (l.fault = none → l.faultAt = none →
            ∀ m ∈ s'.tl.launches, m.q = l.q → m.seq = l.seq →
              m.faultAt = some (s.now, t.toNat) ∧ m.fault.map (fun f => f.1) = some Cause.operand.status) ∧
          (∀ a u, l.faultAt = some (a, u) →
            if a = s.now ∧ t.toNat < u then
              ∀ m ∈ s'.tl.launches, m.q = l.q → m.seq = l.seq → m.faultAt = some (s.now, t.toNat)
            else s'.tl.launches = s.tl.launches) ∧
          s'.mem = s.mem ∧ s'.regs = s.regs ∧ s'.sync = s.sync) ∧
  (
    ∀ (s : State) (l : Launch) (u : Nat), l ∈ s.tl.launches → l.fault.isSome = true → u ∈ l.tiles →
      (s.tile u).launch = some (l.q, l.seq) → (s.stopFaulted.tile u).core = .stopped) ∧
  (
    ∀ p ∈ ([(Instr.ldu2, 0x31, 2), (Instr.ldu4, 0x32, 4), (Instr.ld8, 0x33, 8), (Instr.ldu1, 0x30, 1), (Instr.lds1, 0x34, 1),
        (Instr.lds2, 0x35, 2), (Instr.lds4, 0x36, 4), (Instr.st1, 0x38, 1), (Instr.st2, 0x39, 2), (Instr.st4, 0x3A, 4),
        (Instr.st8, 0x3B, 8)] : List ((BitVec 8 → W64 → Instr) × Nat × Nat)),
      ∀ (t : BitVec 8) (w : W64) (s : State) (l : Launch) (a : Nat), Issues s t.toNat 1 p.2.1 w l → t.toNat ∈ l.tiles →
        a = ((s.tile t.toNat).rd (W.ra w) + W.imm w).toNat → a % p.2.2 ≠ 0 ∨ 0x200000 < a + p.2.2 →
        ∃ s', exec (p.1 t w) s = .next s' ∧ (s'.tile t.toNat).core = .stopped ∧
          (∀ u, (s'.tile u).s = (s.tile u).s ∧ (s'.tile u).spad = (s.tile u).spad ∧ (s'.tile u).pc = (s.tile u).pc) ∧
          s'.mem = s.mem)

/-! ## Descriptors and engine instructions (03 R68, R69; 04 R97 to R112; 05 R113 to R136) -/

/-- R99: dld, dsv, dwr and drd, on a descriptor that no transfer names: dld loads its 32 bytes from an aligned scratchpad
address, dsv stores them there and to no other byte, dwr sets one 64-bit word of it and drd reads one. No other
descriptor and no other register changes.
The model's choices in it: log 9. -/
def Obligations.DescriptorInstructionResult : Prop :=
  ∀ (t : BitVec 8) (w : W64) (s : State) (l : Launch) (i a : Nat),
    let x := s.tile t.toNat
    let others (y : Tile) : Prop := ∀ k, k ≠ i → y.desc k = x.desc k
    let moved (s' : State) : Prop := OnlyTile t.toNat s s' ∧ (s'.tile t.toNat).pc = x.pc + 8 ∧
      (s'.tile t.toNat).active = x.active + 1
    i = fld w 0 4 → x.descBusy i = false → a = (x.rd (fld w 4 6)).toNat →
    (s.gate t.toNat 2 1 w = .go l → a % 32 = 0 → a + 32 ≤ 0x200000 →
      ∃ s', exec (.dld t w) s = .next s' ∧ moved s' ∧ others (s'.tile t.toNat) ∧
        ScalarFrame { x with d := (s'.tile t.toNat).d } (s'.tile t.toNat) ∧ (s'.tile t.toNat).s = x.s ∧
        ∀ j, j < 32 → fld ((s'.tile t.toNat).desc i) (8 * j) 8 = (Tab.get 0 x.spad (a + j)).toNat) ∧
    (s.gate t.toNat 2 2 w = .go l → a % 32 = 0 → a + 32 ≤ 0x200000 →
      ∃ s', exec (.dsv t w) s = .next s' ∧ moved s' ∧
        ScalarFrame { x with spad := (s'.tile t.toNat).spad } (s'.tile t.toNat) ∧ (s'.tile t.toNat).s = x.s ∧
        (∀ j, j < 32 → (Tab.get 0 (s'.tile t.toNat).spad (a + j)).toNat = fld (x.desc i) (8 * j) 8) ∧
        (∀ b, b < a ∨ a + 32 ≤ b → Tab.get 0 (s'.tile t.toNat).spad b = Tab.get 0 x.spad b)) ∧
    (s.gate t.toNat 2 3 w = .go l →
      ∃ s', exec (.dwr t w) s = .next s' ∧ moved s' ∧ others (s'.tile t.toNat) ∧
        ScalarFrame { x with d := (s'.tile t.toNat).d } (s'.tile t.toNat) ∧ (s'.tile t.toNat).s = x.s ∧
        ∀ b, b < 256 → bit ((s'.tile t.toNat).desc i) b =
          (if b / 64 = fld w 4 2 then bit (x.rd (fld w 6 6)) (b % 64) else bit (x.desc i) b)) ∧
    (s.gate t.toNat 2 4 w = .go l →
      ∃ s', exec (.drd t w) s = .next s' ∧ moved s' ∧ ScalarFrame x (s'.tile t.toNat) ∧
        OtherRegs (fld w 6 6) x (s'.tile t.toNat) ∧
        ((s'.tile t.toNat).rd (fld w 6 6)).toNat =
          (if fld w 6 6 = 0 then 0 else fld (x.desc i) (64 * fld w 4 2) 64))

/-- R68, R69, Table 3.2: an arithmetic, signalling, step-base, page-table or debug instruction that issues enters the queue of
its engine, if that has room, behind those already there, with its PC and the scalar registers as they stand; the core moves
on and nothing else of the tile or of the module changes. R68, R107: a sync wait enters the sync queue in the same way, and
stalls the control core until it ends.
The model's choices in it: log 9, 11. -/
def Obligations.EngineAndWaitEnter : Prop :=
  (
    ∀ p ∈ ([(Instr.ssig, 3, 0x01, Eng.sync, 4), (Instr.cqput, 3, 0x03, Eng.sync, 4), (Instr.cqrel, 3, 0x06, Eng.sync, 4),
        (Instr.sbrd, 3, 0x07, Eng.sync, 4), (Instr.ptpin, 3, 0x09, Eng.sync, 4), (Instr.ptrel, 3, 0x0A, Eng.sync, 4),
        (Instr.mmBf16, 4, 0x01, Eng.matrix, 4), (Instr.mmF16, 4, 0x02, Eng.matrix, 4), (Instr.mmF8, 4, 0x03, Eng.matrix, 4),
        (Instr.mmF8c, 4, 0x04, Eng.matrix, 4), (Instr.mmMx, 4, 0x05, Eng.matrix, 4), (Instr.mmPx, 4, 0x06, Eng.matrix, 4),
        (Instr.mmAtt, 4, 0x07, Eng.matrix, 4), (Instr.mmPark, 4, 0x08, Eng.matrix, 4), (Instr.mmUnpark, 4, 0x09, Eng.matrix, 4),
        (Instr.vadd, 5, 0x01, Eng.vector, 8), (Instr.vsub, 5, 0x02, Eng.vector, 8), (Instr.vmul, 5, 0x03, Eng.vector, 8),
        (Instr.vmax, 5, 0x04, Eng.vector, 8), (Instr.vmin, 5, 0x05, Eng.vector, 8), (Instr.vscale, 5, 0x06, Eng.vector, 8),
        (Instr.vaxpy, 5, 0x07, Eng.vector, 8), (Instr.vcvt, 5, 0x08, Eng.vector, 8), (Instr.vcmp, 5, 0x09, Eng.vector, 8),
        (Instr.vcmps, 5, 0x0A, Eng.vector, 8), (Instr.vep, 5, 0x10, Eng.vector, 8), (Instr.vepBias, 5, 0x11, Eng.vector, 8),
        (Instr.vepAtt, 5, 0x12, Eng.vector, 8), (Instr.vnorm, 5, 0x18, Eng.vector, 8), (Instr.vrms, 5, 0x19, Eng.vector, 8),
        (Instr.vstk, 5, 0x1F, Eng.vector, 8), (Instr.drda, 7, 0x01, Eng.vector, 8), (Instr.drbs, 7, 0x02, Eng.vector, 8),
        (Instr.mdrExp, 6, 0x01, Eng.madder, 8), (Instr.mdrLog, 6, 0x02, Eng.madder, 8), (Instr.mdrRcp, 6, 0x03, Eng.madder, 8),
        (Instr.mdrRsqrt, 6, 0x04, Eng.madder, 8), (Instr.mdrErf, 6, 0x05, Eng.madder, 8), (Instr.mdrGelu, 6, 0x06, Eng.madder, 8),
        (Instr.mdrGelut, 6, 0x07, Eng.madder, 8), (Instr.mdrSilu, 6, 0x08, Eng.madder, 8), (Instr.mdrTab, 6, 0x09, Eng.madder, 8),
        (Instr.mdrPexp, 6, 0x10, Eng.madder, 8), (Instr.mdrTld, 6, 0x20, Eng.madder, 8)] :
        List ((BitVec 8 → W64 → Instr) × Nat × Nat × Eng × Nat)),
      ∀ (t : BitVec 8) (w : W64) (s : State) (l : Launch), s.gate t.toNat p.2.1 p.2.2.1 w = .go l →
        ((s.tile t.toNat).queue p.2.2.2.1).length < p.2.2.2.2 →
        ∃ s' i, exec (p.1 t w) s = .next s' ∧ OnlyTile t.toNat s s' ∧ IssueFrame (s.tile t.toNat) (s'.tile t.toNat) ∧
          (s'.tile t.toNat).queue p.2.2.2.1 = (s.tile t.toNat).queue p.2.2.2.1 ++ [i] ∧
          i.w = w ∧ i.pc = (s.tile t.toNat).pc ∧ i.sr = (s.tile t.toNat).s ∧
          (∀ e : Eng, e ≠ p.2.2.2.1 → (s'.tile t.toNat).queue e = (s.tile t.toNat).queue e) ∧
          (s'.tile t.toNat).pc = (s.tile t.toNat).pc + 8 ∧ (s'.tile t.toNat).active = (s.tile t.toNat).active + 1) ∧
  (
    ∀ p ∈ ([(Instr.swait, 0x02), (Instr.cqacq, 0x04), (Instr.cqget, 0x05), (Instr.sbwait, 0x08)] :
        List ((BitVec 8 → W64 → Instr) × Nat)),
      ∀ (t : BitVec 8) (w : W64) (s : State) (l : Launch), s.gate t.toNat 3 p.2 w = .go l →
        ((s.tile t.toNat).queue .sync).length < 4 →
        ∃ s' i, exec (p.1 t w) s = .next s' ∧ OnlyTile t.toNat s s' ∧
          IssueFrame { s.tile t.toNat with core := .syncWait } (s'.tile t.toNat) ∧
          (s'.tile t.toNat).queue .sync = (s.tile t.toNat).queue .sync ++ [i] ∧
          i.w = w ∧ i.pc = (s.tile t.toNat).pc ∧ i.sr = (s.tile t.toNat).s ∧
          (∀ e : Eng, e ≠ .sync → (s'.tile t.toNat).queue e = (s.tile t.toNat).queue e) ∧
          (s'.tile t.toNat).pc = (s.tile t.toNat).pc + 8)

/-- R100, R101: a transfer takes the runs POS to POS + n − 1 of its descriptor at issue, POS moves on by n within the
descriptor's total, and the instruction enters its stream's queue; no other bit of the descriptor, no other descriptor
and nothing else changes. A descriptor whose POS is not below its total, or a sacc form with an operation above 1,
is OPERAND (R89).
The model's choices in it: log 9. -/
def Obligations.TransferTakesItsRuns : Prop :=
  ∀ p ∈ ([(Instr.sld, 0x10, rdStream), (Instr.sst, 0x11, wrStream), (Instr.sacc, 0x12, wrStream)] :
      List ((BitVec 8 → W64 → Instr) × Nat × (W64 → Eng))),
    ∀ (t : BitVec 8) (w : W64) (s : State) (l : Launch) (d : BitVec 256) (n : Nat),
      let x := s.tile t.toNat
      s.gate t.toNat 2 p.2.1 w = .go l → (x.queue (p.2.2 w)).length < 4 → d = x.desc (fld w 0 4) →
      (W.full w = true → p.2.1 ≠ 0x10 → fld w 22 2 ≤ 1) →
      fld d 209 36 < fld d 148 12 * fld d 160 12 * fld d 172 12 →
      n = (if W.full w then fld (x.rd (fld w 10 6)) 0 32 else fld d 148 12) →
      ∃ s' i, exec (p.1 t w) s = .next s' ∧ OnlyTile t.toNat s s' ∧
        IssueFrame { x with d := (s'.tile t.toNat).d } (s'.tile t.toNat) ∧
        (s'.tile t.toNat).queue (p.2.2 w) = x.queue (p.2.2 w) ++ [i] ∧
        i.w = w ∧ i.pc = x.pc ∧ i.sr = x.s ∧ i.run0 = fld d 209 36 ∧ i.n = n ∧
        (∀ e : Eng, e ≠ p.2.2 w → (s'.tile t.toNat).queue e = x.queue e) ∧
        (∀ k, k ≠ fld w 0 4 → (s'.tile t.toNat).desc k = x.desc k) ∧
        (∀ b, b < 256 → bit ((s'.tile t.toNat).desc (fld w 0 4)) b =
          (if 209 ≤ b ∧ b < 245 then
            ((fld d 209 36 + n) % (fld d 148 12 * fld d 160 12 * fld d 172 12)).testBit (b - 209)
           else bit d b)) ∧
        (s'.tile t.toNat).pc = x.pc + 8

/-- R69: an arithmetic instruction at the head of its queue, whose waited events are 1 or more and which nothing delays or
faults, starts: it leaves the queue for the engine, takes 1 from each event it waits on and from no other, and a vstk with
its clear bit empties VSTICKY. R357, R358: where it begins a unit on a tile that a checker visits, the unit counts in the slot
and, by RATE every one, every second or every fourth of the slot, is checked; a vector or Madder instruction begins one where the
checker has computed every half it reads. Nothing else changes.
The model's choices in it: log 10, 33. -/
def Obligations.EngineInstructionStarts : Prop :=
  ∀ (t : BitVec 8) (e : Eng) (s : State) (i : EInstr) (r : List EInstr),
    let x := s.tile t.toNat
    x.queue e = i :: r → s.tileHeld t.toNat = false → x.core.isStop = false → x.core ≠ .flowFault →
    (∀ k ∈ W.waits i.w, x.ev k ≠ 0) → startWaits x e i = false → startCheck s t.toNat x i = none →
    W.cls i.w = 4 ∨ W.cls i.w = 5 ∨ W.cls i.w = 6 ∨ W.cls i.w = 7 →
    ∃ s', exec (.engineInstrStart t e) s = .next s' ∧ (∀ u, u ≠ t.toNat → s'.tile u = s.tile u) ∧
      s' = { s with tl := { s.tl with tile := s'.tl.tile }, flt := { s.flt with cluster := s'.flt.cluster } } ∧
      (∀ c, c ≠ t.toNat / 16 → s'.cluster c = s.cluster c) ∧
      (s.checker (t.toNat / 16) (t.toNat % 16) = none → s'.flt = s.flt) ∧
      (∀ k q n, s.checker (t.toNat / 16) (t.toNat % 16) = some k → x.launch = some (q, n) →
        let a := s.cluster (t.toNat / 16)
        let every := if fld (s.reg 0x40000) 2 2 = 2 then 2 else if fld (s.reg 0x40000) 2 2 = 3 then 4 else 1
        let starts : Prop :=
          (W.cls i.w = 4 ∧ W.op i.w < 7 ∧ (W.full i.w = false ∨ bit (i.reg 19) 8 = false)) ∨
          (W.cls i.w = 4 ∧ W.op i.w = 7 ∧ bit (i.reg 19) 53 = false) ∨
          ((W.cls i.w = 5 ∨ W.cls i.w = 6) ∧ ∀ h ∈ halvesRead i, (t.toNat, h) ∈ a.halves)
        let y := s'.cluster (t.toNat / 16)
        y = { a with units := y.units, checks := y.checks, halves := y.halves } ∧
        (¬ starts → y.units = a.units ∧ y.checks = a.checks ∧
          ∀ h, h < 2 → ((t.toNat, h) ∈ y.halves ↔ (t.toNat, h) ∈ a.halves ∧ ¬ (W.cls i.w = 4 ∧ W.op i.w = 9))) ∧
        (starts → y.units = a.units + 1 ∧
          y.checks = a.checks ++ (if a.units % every = 0 then
            [{ tile := t.toNat, pos := s.tilePos t.toNat, checkerPos := k, q := q, seq := n }] else []) ∧
          ∀ h, ((t.toNat, h) ∈ y.halves ↔
            (h ∈ halvesWritten i ∧ a.units % every = 0) ∨ (h ∉ halvesWritten i ∧ (t.toNat, h) ∈ a.halves)))) ∧
      s'.tile t.toNat = { x with q := (s'.tile t.toNat).q, run := (s'.tile t.toNat).run, e := (s'.tile t.toNat).e,
                                 vsticky := (s'.tile t.toNat).vsticky } ∧
      (s'.tile t.toNat).queue e = r ∧ (∀ f : Eng, f ≠ e → (s'.tile t.toNat).queue f = x.queue f) ∧
      (∃ j, (s'.tile t.toNat).running e = x.running e ++ [j] ∧ j.w = i.w ∧ j.pc = i.pc ∧ j.sr = i.sr) ∧
      (∀ f : Eng, f ≠ e → (s'.tile t.toNat).running f = x.running f) ∧
      (∀ k, (s'.tile t.toNat).ev k = x.ev k - (if k ∈ W.waits i.w then 1 else 0)) ∧
      (s'.tile t.toNat).vsticky =
        (if W.cls i.w = 5 ∧ W.op i.w = 0x1F ∧ bit i.w 6 = true then 0 else x.vsticky)

/-- R126, R128, Table 5.10: when an elementwise vector instruction into a format without shared scales ends, element j of the
result is the rounding of the exact sum, difference, product, maximum, minimum, σ·a, σ·a + b or a where its mask bit is 1;
elsewhere it keeps its code, or is zero where MZ is set. No other byte of the scratchpad changes, nor any accumulator or
mask. R129: vcmp and vcmps set bit j of k[K] to the comparison of element j with element j of B, or with σ, for j below N and
to 0 above, and write nothing else: no scratchpad byte, no accumulator, no other mask.
The model's choices in it: log 10. -/
def Obligations.VectorResult : Prop :=
  (
    ∀ p ∈ ([(1, fun _ a b => (a.addX b).1), (2, fun _ a b => (a.addX b.neg).1), (3, fun _ a b => (a.mulX b).1),
        (4, fun _ a b => vMaxNum a b), (5, fun _ a b => vMinNum a b), (6, fun g a _ => (g.mulX a).1),
        (7, fun g a b => ((g.mulX a).1.addX b).1), (8, fun _ a _ => a)] : List (Nat × (Machine.Num → Machine.Num → Machine.Num → Machine.Num))),
      ∀ (t : BitVec 8) (s : State) (i : EInstr) (flag : Bool) (F : Fmt),
        let x := s.tile t.toNat
        let off := (i.reg 0).toNat
        EndsInOrder s t.toNat .vector i → W.cls i.w = 5 → W.op i.w = p.1 → vOfmt i < 4 → fmtOf (vOfmt i) = some F →
        ∃ s', exec (.engineInstrComplete t .vector (cleanFind flag)) s = .next s' ∧ ArithEnd t.toNat .vector i s s' ∧
          (s'.tile t.toNat).acc0 = x.acc0 ∧ (s'.tile t.toNat).acc1 = x.acc1 ∧ (s'.tile t.toNat).k = x.k ∧
          (∀ j, j < vN i → (s'.tile t.toNat).spadCode off (F.bits * j) F.bits =
            (if vMk i = 0 ∨ bit (x.rdK (vMk i)) (j % 256) = true then
              (F.storeQuot (vRounding (s.vEnv t.toNat) i j) s.satPolicy
                (.num (p.2 (vSigmaNum i) (x.elem (vFmt i) (i.reg 6).toNat j) (x.elem (vFmt i) (i.reg 12).toNat j)) false)).1
                  % 2 ^ F.bits
             else if vMz i then 0 else x.spadCode off (F.bits * j) F.bits)) ∧
          (∀ b, b < off ∨ off + vN i * F.bits / 8 ≤ b → Tab.get 0 (s'.tile t.toNat).spad b = Tab.get 0 x.spad b)) ∧
  (
    ∀ (t : BitVec 8) (s : State) (i : EInstr) (flag : Bool),
      let x := s.tile t.toNat
      let b (j : Nat) : Machine.Num := if W.op i.w = 9 then x.elem (vFmt i) (i.reg 12).toNat j else vSigmaNum i
      EndsInOrder s t.toNat .vector i → W.cls i.w = 5 → W.op i.w = 9 ∨ W.op i.w = 0x0A → fld i.w 0 3 ≠ 0 →
      ∃ s', exec (.engineInstrComplete t .vector (cleanFind flag)) s = .next s' ∧ ArithEnd t.toNat .vector i s s' ∧
        (s'.tile t.toNat).acc0 = x.acc0 ∧ (s'.tile t.toNat).acc1 = x.acc1 ∧ (s'.tile t.toNat).spad = x.spad ∧
        (∀ k, k ≠ fld i.w 0 3 → (s'.tile t.toNat).rdK k = x.rdK k) ∧
        (∀ j, j < 256 → bit ((s'.tile t.toNat).rdK (fld i.w 0 3)) j =
          (decide (j < vN i) && condHolds (fld i.w 3 3) (x.elem (vFmt i) (i.reg 6).toNat j) (b j))))

/-- R118, R153: a matrix product without chunks leaves in entry (m, n) of its half the sum, from the entry's old value or
zero, of the K scaled products; the other half, the scratchpad and the masks stay as they are.
The model's choices in it: log 10. -/
def Obligations.MatrixProductResult : Prop :=
  ∀ (t : BitVec 8) (s : State) (i : EInstr) (flag : Bool) (e : Nat),
    let x := s.tile t.toNat
    let h := fld i.w 0 1
    EndsInOrder s t.toNat .matrix i → W.cls i.w = 4 → W.op i.w ≤ 6 → W.op i.w ≠ 4 → e < 8192 →
    ∃ s', exec (.engineInstrComplete t .matrix (cleanFind flag)) s = .next s' ∧ ArithEnd t.toNat .matrix i s s' ∧
      (s'.tile t.toNat).spad = x.spad ∧ (s'.tile t.toNat).k = x.k ∧
      (∀ k, (s'.tile t.toNat).acc (1 - h) k = x.acc (1 - h) k) ∧
      (s'.tile t.toNat).acc h e =
        (sum36 (if (mmOpt i).accum then x.acc h e else a36Zero)
          ((List.range (mmLay i).k).map (fun k => (mmProd x (mmOpt i) (mmLay i) (e / 128) (e % 128) k).1))).1

/-! ## Events of a tile (03 R66 to R85, 04 R105 to R109) -/

/-- R66: a line that arrives with good parity is cached, the miss ends, and no other line of the tile becomes cached; one with
bad parity is only counted and awaited again, and a cached line that shows bad parity as it is used leaves the cache and is
fetched again. R70, R71, R73, R345: a blkend whose engine instructions have all completed ends
its block where the monitor's signature is the block's own: the core runs on at the next word, the block number rises by 1
and cycle count and signature start again at 0; under a lock it waits for its group's tick instead.
The model's choices in it: log 12, 13. -/
def Obligations.LineFillAndBlockEndResult : Prop :=
  (
    ∀ (t : BitVec 8) (s : State) (line : Nat),
      let x := s.tile t.toNat
      x.imiss = some line →
      (∃ s', exec (.icacheLineFill t false) s = .next s' ∧ OnlyTile t.toNat s s' ∧
        s'.tile t.toNat = { x with imiss := none, icache := (s'.tile t.toNat).icache } ∧
        (s'.tile t.toNat).cached line = true ∧
        (∀ m, m ≠ line → (s'.tile t.toNat).cached m = true → x.cached m = true) ∧
        (∀ m, m % 128 ≠ line % 128 → (s'.tile t.toNat).cached m = x.cached m) ∧
        (∀ m, (Tab.get [] x.icache (line % 128)).length < 4 → x.cached m = true → (s'.tile t.toNat).cached m = true)) ∧
      (∃ s', exec (.icacheLineFill t true) s = .next s' ∧ (∀ u, s'.tile u = s.tile u) ∧ s'.tl = s.tl ∧ s'.mem = s.mem ∧
        Counts s s' [4])) ∧
  (
    ∀ (t : BitVec 8) (s : State) (l : Launch) (line : Nat),
      let x := s.tile t.toNat
      x.imiss = none → s.launchOf t.toNat = some l → line = (x.pc - BitVec.ofNat 64 l.prog).toNat / 128 →
      (x.core = .run → x.cached line = true →
        ∃ s', exec (.icacheLineFill t true) s = .next s' ∧
          s'.tile t.toNat = { x with imiss := some line, icache := (s'.tile t.toNat).icache } ∧
          (s'.tile t.toNat).cached line = false ∧ (∀ m, m ≠ line → (s'.tile t.toNat).cached m = x.cached m) ∧
          (∀ u, u ≠ t.toNat → s'.tile u = s.tile u) ∧ s'.mem = s.mem ∧ Counts s s' [4]) ∧
      exec (.icacheLineFill t false) s = .next s) ∧
  (
    ∀ (t : BitVec 8) (s : State) (l : Launch),
      let x := s.tile t.toNat
      s.launchOf t.toNat = some l → x.core = .drain false → x.drained = true → s.tileHeld t.toNat = false →
      (∀ f ∈ l.fires, f.1 = t.toNat → f.2.1 ≠ x.block) →
      ∃ s', exec (.blkendComplete t x.sig) s = .next s' ∧ OnlyTile t.toNat s s' ∧
        s'.tile t.toNat =
          (if l.lock.isSome then { x with core := .lockWait, pc := x.pc + 8 }
           else { x with core := .run, pc := x.pc + 8, active := 0, block := x.block + 1, sig := 0, blkAt := s.now, atBlk := true }))

/-- R83, R84: a halt whose engine instructions have all completed halts the tile; when it is the last of its set and the command
names no result slot, the LAUNCH's effect ends with PEER_LOST, RANGE_GUARD, STAGE_STALL or OK. R72, R74, R365: the watchdog
acts on a block above 48,000 active cycles only. Its first firing for the block stops the tile at a fault stop point, takes a
margin step of the position (here the first, of the clock) and moves the context away; a later firing for the same block is the
program fault WATCHDOG and withdraws the margin step that the first one took, whichever it was.
The model's choices in it: log 12, 50, 51. -/
def Obligations.TileHaltAndWatchdogResult : Prop :=
  (
    ∀ (t : BitVec 8) (s : State) (l : Launch) (c : Cmd),
      let x := s.tile t.toNat
      s.launchOf t.toNat = some l → x.core = .drain true → x.drained = true → s.tileHeld t.toNat = false →
      (∀ f ∈ l.fires, f.1 = t.toNat → f.2.1 ≠ x.block) → s.awaiter t.toNat = none → l.awaiting = [] →
      s.findCmd l.q l.seq = some c → Cmd.slot? c = none →
      ∃ s', exec (.tileHalted t x.sig { corr := [], ue := [], res := [] }) s = .next s' ∧
        s'.tile t.toNat = { x with core := .halted, sig := 0, active := 0 } ∧ (∀ u, u ≠ t.toNat → s'.tile u = s.tile u) ∧
        (∃ m, s'.launchOf t.toNat = some m ∧ m.halted = l.halted ++ [t.toNat]) ∧ s'.mem = s.mem ∧ s'.sync = s.sync ∧
        ((∀ u ∈ l.tiles, u = t.toNat ∨ u ∈ l.halted) →
          ∃ d, s'.findCmd l.q l.seq = some d ∧
            d.phase = .ended (if l.peerLost then Status.peerLost else if l.rangeGuard || x.fl.range then Status.rangeGuard
              else if l.stageStall then Status.stageStall else Status.ok)) ∧
        (¬ (∀ u ∈ l.tiles, u = t.toNat ∨ u ∈ l.halted) → s'.findCmd l.q l.seq = some c)) ∧
  (
    ∀ (t : BitVec 8) (s : State) (l : Launch),
      let x := s.tile t.toNat
      let c := t.toNat / 16
      let p := s.tilePos t.toNat
      s.launchOf t.toNat = some l → s.tileHeld t.toNat = false →
      (x.active.toNat ≤ 48000 → exec (.watchdogFire t) s = .next s) ∧
      (48000 < x.active.toNat → x.core = .run → (∀ f ∈ l.fires, f.1 = t.toNat → f.2.1 ≠ x.block) →
        (s.cluster c).levels[p]? = some 0 → (s.cluster c).fsteps < 4 → s.tl.moves = [] →
        ∃ s' m, exec (.watchdogFire t) s = .next s' ∧ s'.tile t.toNat = { x with core := .stopPoint .run } ∧
          (∀ u, u ≠ t.toNat → s'.tile u = s.tile u) ∧ s'.tl.moves = [m] ∧ m.tile = t.toNat ∧ m.begun = false ∧
          (s'.cluster c).fsteps = (s.cluster c).fsteps + 1 ∧ (s'.cluster c).levels = (s.cluster c).levels.set p 1 ∧
          (s'.cluster c).relockAt = some s.now ∧ s'.mem = s.mem ∧ s'.sync = s.sync) ∧
      (∀ a b r k, 48000 < x.active.toNat → x.core = .run → l.fires = a ++ (t.toNat, x.block, r, k) :: b →
        (∀ f ∈ a, ¬ (f.1 = t.toNat ∧ f.2.1 = x.block)) → (s.cluster c).levels.length = 18 → (s.cluster c).roles.length = 18 → r < 18 →
        ∃ s', exec (.watchdogFire t) s = .next s' ∧ (s'.tile t.toNat).core = .stopped ∧
          (∀ u, u ≠ t.toNat → s'.tile u = s.tile u) ∧ s'.mem = s.mem ∧ s'.flt.marginDue = true ∧
          (s'.cluster c).levels = (s.cluster c).levels.set r ((s.cluster c).levels.getD r 0 - 1) ∧
          (s'.cluster c).fsteps = (s.cluster c).fsteps - (if k = .clock then 1 else 0) ∧
          (s'.cluster c).vsteps = (s.cluster c).vsteps - (if k = .volt then 1 else 0) ∧
          ((s.cluster c).role r = .retired → k = .toSpare → (s'.cluster c).role r = .spare) ∧
          ((s.cluster c).role r = .retired → k = .toMordant → (s'.cluster c).role r = .mordant ∧ (s'.cluster c).noMordant = false)))

/-- R16, R106: the home controller applies the oldest signal on its way to an object: the object's value rises by the signal's,
modulo 2^32, that signal is gone, and no other object changes; a home that its cluster controller's supply has stopped applies
none. R107, R109, R110, Table 4.10: a wait whose condition held first at a time within the microsecond of its timeout ends with
outcome 0 within its stall bound and 1 after it, one whose timeout has passed without it ends with outcome 2: the outcome is
written, the port is free, the signalled events rise and the core runs on. A cqacq that outlasts its bound, running or in a
saved context, raises STAGE_STALL for its LAUNCH, once. R105, R106, R108: a signal or credit-queue instruction at the head of the
sync queue starts: one to an object of this module puts a signal of its value on its way to that object, a cqput to TAIL and a
cqrel to HEAD of its credit queue, and the instruction runs; the Full form's peer, where it has not failed, is sent the same
signal in a SIG packet that is held until it is acknowledged.
The model's choices in it: log 69, 82. -/
def Obligations.SyncResult : Prop :=
  (
    ∀ (o : BitVec 14) (s : State) (g : Signal) (l r : List Signal),
      s.sync.sigs = l ++ g :: r → g.obj = o.toNat → (∀ h ∈ l, h.obj ≠ o.toNat) →
      (s.homeStopped o.toNat = true → exec (.syncSignalApply o) s = .next s) ∧
      (s.homeStopped o.toNat = false → ∃ s', exec (.syncSignalApply o) s = .next s' ∧ s'.sync.sigs = l ++ r ∧ s'.obj o.toNat = s.obj o.toNat + g.add ∧
        (∀ k, k ≠ o.toNat → s'.obj k = s.obj k) ∧ s'.sync.remote = s.sync.remote ∧
        s' = { s with sync := s'.sync })) ∧
  (
    ∀ (t : BitVec 8) (s : State) (i : EInstr) (r : List EInstr) (l : Launch),
      let x := s.tile t.toNat
      let ro := (i.reg 0).toNat
      let rv : W32 := (i.reg 6).setWidth 32
      let met : Prop :=
        (W.op i.w = 2 ∧ s.homeStopped ro = false ∧ 0 ≤ (s.obj ro - rv).toInt) ∨
        (W.op i.w = 4 ∧ s.homeStopped (2 * ro) = false ∧ (s.obj (2 * ro) - s.obj (2 * ro + 1)).toNat < rv.toNat) ∨
        (W.op i.w = 5 ∧ s.homeStopped (2 * ro) = false ∧ s.obj (2 * ro) ≠ s.obj (2 * ro + 1)) ∨
        (W.op i.w = 8 ∧ ((i.reg 6).toNat < s.stb.step.toNat ∨
          (i.reg 6 = s.stb.step ∧ ((i.reg 0).setWidth 32 : W32).toNat ≤ s.phase.toNat)))
      let since (m : Nat) : Prop := i.metAt = some m ∨ (i.metAt = none ∧ met ∧ m = s.now)
      let expiry : Nat := (i.t0 + i.n + (usec - 1)) / usec * usec
      let ends (o : W64) (s' : State) : Prop :=
        OnlyTile t.toNat s s' ∧ (s'.tile t.toNat).running .sync = r ∧
        (s'.tile t.toNat).core = (if x.core = .syncWait then .run else x.core) ∧
        (s'.tile t.toNat).rd (fld i.w 12 6) = (if fld i.w 12 6 = 0 then 0 else o) ∧
        OtherRegs (fld i.w 12 6) x (s'.tile t.toNat) ∧ (s'.tile t.toNat).pc = x.pc ∧
        (∀ k, (s'.tile t.toNat).ev k = x.ev k + (if k ∈ W.sigs i.w then 1 else 0))
      x.running .sync = i :: r → W.op i.w = 2 ∨ W.op i.w = 4 ∨ W.op i.w = 5 ∨ W.op i.w = 8 →
      dupEvents i.w = false → (∀ k ∈ W.sigs i.w, x.ev k ≠ 15) → s.launchOf t.toNat = some l → l.fault = none →
      (∀ m, since m → m ≤ expiry →
        ∃ s', exec (.syncWaitMet t) s = .next s' ∧ ends (if m - i.t0 ≤ SyncI.bound i then 0 else 1) s') ∧
      ((∀ m, since m → expiry < m) → exec (.syncWaitMet t) s = .next s ∧
        (i.n ≤ s.now - i.t0 → ∃ s', exec (.syncWaitTimeout t) s = .next s' ∧ ends 2 s')) ∧
      (W.op i.w = 4 → i.stalled = false → SyncI.bound i < s.now - i.t0 → SyncI.bound i < expiry - i.t0 →
        (∀ m, i.metAt = some m → SyncI.bound i < m - i.t0) →
        ∃ s' m, exec (.syncStallBoundExpiry t) s = .next s' ∧ s'.launchOf t.toNat = some m ∧ m.stageStall = true ∧
          ((s'.tile t.toNat).running .sync).head? = some { i with stalled := true } ∧
          (∀ k, (s'.tile t.toNat).rd k = x.rd k) ∧ s'.sync = s.sync ∧ s'.mem = s.mem)) ∧
  (
    ∀ (t : BitVec 8) (s : State) (v : Saved) (a b : List Saved) (i : EInstr) (q : Nat) (n : W32),
      s.tl.saved = a ++ v :: b → v.tile = t.toNat → (∀ u ∈ a, u.tile ≠ t.toNat) → (s.tile t.toNat).running .sync = [] →
      v.ctx.running .sync = [i] → v.ctx.launch = some (q, n) → W.op i.w = 4 → i.metAt = none → i.stalled = false →
      SyncI.bound i < s.now - i.t0 → SyncI.bound i < (i.t0 + i.n + (usec - 1)) / usec * usec - i.t0 →
      ∃ s' w, exec (.syncStallBoundExpiry t) s = .next s' ∧ s'.tl.saved[a.length]? = some w ∧ w.tile = v.tile ∧
        w.ctx.running .sync = [{ i with stalled := true }] ∧ s'.tl.tile = s.tl.tile ∧ s'.sync = s.sync ∧ s'.mem = s.mem ∧
        ∀ l ∈ s'.tl.launches, l.q = q → l.seq = n → l.stageStall = true) ∧
  (
    ∀ p ∈ ([(1, fun ro => ro), (3, fun ro => 2 * ro), (6, fun ro => 2 * ro + 1)] : List (Nat × (Nat → Nat))),
      ∀ (t : BitVec 8) (s : State) (i : EInstr) (r : List EInstr),
        let x := s.tile t.toNat
        x.queue .sync = i :: r → x.running .sync = [] → W.cls i.w = 3 → W.op i.w = p.1 → W.full i.w = false →
        s.tileHeld t.toNat = false → x.core.isStop = false → x.core ≠ .flowFault → (∀ k ∈ W.waits i.w, x.ev k ≠ 0) →
        startWaits x .sync i = false → startCheck s t.toNat x i = none →
        ∃ s', exec (.engineInstrStart t .sync) s = .next s' ∧
          s'.sync.sigs = s.sync.sigs ++
            [{ src := some t.toNat, obj := p.2 (i.reg 0).toNat, add := if p.1 = 1 then (i.reg 6).setWidth 32 else 1 }] ∧
          s'.sync.obj = s.sync.obj ∧ s'.sync.remote = s.sync.remote ∧ (s'.tile t.toNat).queue .sync = r ∧
          ((s'.tile t.toNat).running .sync).map (fun j => j.w) = [i.w] ∧
          (∀ u, u ≠ t.toNat → s'.tile u = s.tile u) ∧ s'.mem = s.mem ∧ s'.regs = s.regs) ∧
  (
    ∀ p ∈ ([(1, fun ro => ro), (3, fun ro => 2 * ro), (6, fun ro => 2 * ro + 1)] : List (Nat × (Nat → Nat))),
      ∀ (t : BitVec 8) (s : State) (i : EInstr) (r : List EInstr) (m d : BitVec 12),
        let x := s.tile t.toNat
        x.queue .sync = i :: r → x.running .sync = [] → W.cls i.w = 3 → W.op i.w = p.1 → W.full i.w = true →
        m = BitVec.ofNat 12 (fld (i.reg 18) 0 12) → d = s.holderOf m → s.host.ident ≠ some m → s.host.ident ≠ some d →
        s.isFailed d = false → s.tileHeld t.toNat = false → x.core.isStop = false → x.core ≠ .flowFault →
        (∀ k ∈ W.waits i.w, x.ev k ≠ 0) → startWaits x .sync i = false → startCheck s t.toNat x i = none →
        ∃ s' e, exec (.engineInstrStart t .sync) s = .next s' ∧
          s'.sync.remote = s.sync.remote ++
            [{ owner := .tile t.toNat, peer := d, eseq := e, obj := p.2 (i.reg 0).toNat, add := (i.reg 6).setWidth 32 }] ∧
          s'.sync.sigs = s.sync.sigs ++ (if p.1 = 1 then [] else
            [{ src := some t.toNat, obj := p.2 (i.reg 0).toNat, add := (i.reg 6).setWidth 32 }]) ∧
          Posted s s' [(d, .sig (BitVec.ofNat 14 (p.2 (i.reg 0).toNat)) ((i.reg 6).setWidth 32))] ∧
          (s'.tile t.toNat).queue .sync = r ∧ (∀ u, u ≠ t.toNat → s'.tile u = s.tile u) ∧ s'.mem = s.mem ∧ s'.regs = s.regs)

/-- R79 to R82: a dispatched LAUNCH is set up with its image, arguments, class and bound version; it claims its tiles in one step,
and where no LIVE claim has contexts to save, each starts at the entry point with s1 to s7 as Table 3.6 gives them, all
other registers 0, its scratchpad and accumulators as they were.
The model's choices in it: log 28, 68. -/
def Obligations.LaunchStarts : Prop :=
  ∀ (q : BitVec 6) (n : W32) (s : State) (c : Cmd),
    s.findCmd q.toNat n = some c →
    (c.phase = .running → Cmd.opcode c = 0x01 → s.findLaunch q.toNat n = none → s.dpm = false →
      ∃ s' l, exec (.launch q n) s = .next s' ∧ s' = { s with tl := { s.tl with launches := s.tl.launches ++ [l] } } ∧
        l.q = q.toNat ∧ l.seq = c.seq ∧ l.cls = s.qClass q.toNat ∧ l.ver = c.ver ∧ l.tiles = [] ∧ l.fault = none ∧
        l.prog = bitsAt c.raw 320 64 ∧ l.args.toNat = bitsAt c.raw 384 64 ∧
        l.ilen = (if bitsAt c.raw 8 1 = 1 then bitsAt c.raw 736 21 else 65536) ∧
        l.entry = (if bitsAt c.raw 8 1 = 1 then bitsAt c.raw 716 20 else 0)) ∧
    (∀ (l : Launch) (ts : List Nat), s.findLaunch q.toNat n = some l → l.tiles = [] → l.fault = none →
      s.claim q.toNat c = some ts → ts.Nodup → (l.cls = 0 → ∀ u ∈ ts, (s.tile u).hasContext = false) →
      ∃ s', exec (.launchClaimTiles q n) s = .next s' ∧ (∀ u, u ∉ ts → s'.tile u = s.tile u) ∧
        (∃ m, s'.findLaunch q.toNat n = some m ∧ m.tiles = ts ∧ m.started = true) ∧ s'.mem = s.mem ∧ s'.sync = s.sync ∧
        ∀ (j u : Nat), ts[j]? = some u →
          let y := s'.tile u
          y.launch = some (l.q, l.seq) ∧ y.core = .run ∧ y.pc = BitVec.ofNat 64 (l.prog + l.entry) ∧
          y.rd 1 = l.args ∧ y.rd 2 = BitVec.ofNat 64 u ∧ y.rd 3 = BitVec.ofNat 64 j ∧ y.rd 4 = BitVec.ofNat 64 ts.length ∧
          y.rd 5 = BitVec.ofNat 64 (l.q * 2 ^ 32 + l.seq.toNat) ∧ y.rd 6 = l.ver ∧
          y.rd 7 = (s.host.ident.getD 0).setWidth 64 ∧ (∀ k, 7 < k → y.rd k = 0) ∧ y.d = [] ∧ y.k = [] ∧ y.e = [] ∧
          y.q = [] ∧ y.run = [] ∧ y.active = 0 ∧ y.block = 0 ∧ y.sig = 0 ∧ y.vsticky = 0 ∧ y.spad = (s.tile u).spad ∧
          y.acc0 = (s.tile u).acc0 ∧ y.acc1 = (s.tile u).acc1)

/-- R75, R76, R82; 14 R359, R363: a tile at a yield point that a LIVE LAUNCH awaits starts to be saved, after a test of its position
that waits for it; one that no LAUNCH awaits does so for a third execution of its cluster that has no unit; when the copy ends its context is kept
and its position free; a restore brings a saved context back as it was, with the instruction cache loaded afresh; a move
gives the tile's role to another position and the context goes with it.
The model's choices in it: log 68. -/
def Obligations.ContextSaveAndRestore : Prop :=
  ∀ (t : BitVec 8) (s : State),
    let n := t.toNat
    let x := s.tile n
    (∀ w, s.awaiter n = some w → (∀ m ∈ s.tl.moves, m.tile ≠ n) → x.hasContext = true →
      (x.atYield = false ∨ s.tileHeld n = true ∨ s.testWaits n = true → exec (.livePreempt t) s = .next s) ∧
      (x.atYield = true → s.tileHeld n = false → s.testWaits n = false →
        exec (.livePreempt t) s =
          .next { s with tl := { s.tl with moves := s.tl.moves ++ [{ tile := n, kind := .save w.q w.seq }] } })) ∧
    (∀ a l, s.awaiter n = none → s.flt.arbs = [a] → a.tile / 16 = n / 16 → s.launchOf n = some l →
      (a.third ≠ .waits ∨ l.cls = 0 ∨ s.mayGive n = false → exec (.livePreempt t) s = .next s) ∧
      (a.third = .waits → l.cls ≠ 0 → s.mayGive n = true → (∀ v ∈ s.tl.saved, v.tile ≠ n) → s.pickThird (n / 16) = .waits →
        exec (.livePreempt t) s =
          .next { s with flt := { s.flt with arbs := [{ a with third := .tile n }] },
                         tl := { s.tl with moves := s.tl.moves ++ [{ tile := n, kind := .save a.q a.seq }] } })) ∧
    ((s.cluster (n / 16)).relockDue = false →
      (∀ q seq w u, s.tl.moves = [{ tile := n, kind := .save q seq }] → s.findLaunch q seq = some w → u ∈ w.awaiting → u ≠ n →
        ∃ s', exec (.contextMoveComplete t) s = .next s' ∧ s'.tl.saved = s.tl.saved ++ [{ tile := n, ctx := x }] ∧
          s'.tl.moves = [] ∧ s'.tile n = x.freed ∧ (∀ v, v ≠ n → s'.tile v = s.tile v) ∧ s'.mem = s.mem) ∧
      (∀ (v : Saved) (a b : List Saved) (l : Launch), s.tl.moves = [{ tile := n, kind := .restore }] →
        s.tl.saved = a ++ v :: b → v.tile = n → (∀ w ∈ a ++ b, w.tile ≠ n) → v.ctx.launch = some (l.q, l.seq) →
        s.findLaunch l.q l.seq = some l → l.fault = none →
        ∃ s', exec (.contextMoveComplete t) s = .next s' ∧
          s'.tile n = { v.ctx with icache := preload l.ilen, imiss := none, yieldAt := none } ∧ s'.tl.saved = a ++ b ∧ s'.tl.moves = [] ∧
          (∀ u, u ≠ n → s'.tile u = s.tile u) ∧ s'.mem = s.mem) ∧
      (∀ k leave l, s.tl.moves = [{ tile := n, kind := .toPos k leave }] → k < 18 → (s.cluster (n / 16)).roles.length = 18 →
        s.tilePos n < 18 → s.tilePos n ≠ k → leave ≠ .testing → leave ≠ .work (n % 16) → x.core = .run →
        s.launchOf n = some l →
        ∃ s', exec (.contextMoveComplete t) s = .next s' ∧
          (s'.cluster (n / 16)).role k = .work (n % 16) ∧ (s'.cluster (n / 16)).role (s.tilePos n) = leave ∧
          s'.tile n = { x with icache := preload l.ilen, imiss := none } ∧ s'.tl.moves = [] ∧
          (∀ u, u ≠ n → s'.tile u = s.tile u) ∧ s'.mem = s.mem))

/-- R248: when every tile of a STEP LAUNCH has waited for the switch time at sync waits and the head of another STEP queue is a
LAUNCH that may run on its tiles, that one is dispatched in its place: a context save begins on each tile of the first,
which is remembered as set aside.
The model's choices in it: log 37. -/
def Obligations.MicrobatchSwitchResult : Prop :=
  ∀ (xq yq : BitVec 6) (xn : W32) (s : State) (x : Launch) (c : Cmd) (ts : List Nat),
    s.findLaunch xq.toNat xn = some x → (s.queue yq.toNat).head = some c → s.switchTime ≠ 0 → x.cls = 1 →
    x.started = true → x.fault = none → x.aside = none → (∀ u ∈ x.tiles, s.waitsLong u = true) →
    (∀ v ∈ s.tl.saved, v.tile ∉ x.tiles) → (∀ m ∈ s.tl.moves, m.tile ∉ x.tiles) → (∀ u ∈ x.tiles, s.awaiter u = none) →
    (∀ u ∈ x.tiles, s.testWaits u = false) → s.qClass yq.toNat = 1 → Cmd.opcode c = 0x01 → s.depsState c = some true → s.qHeld yq.toNat = false →
    s.fenceAhead yq.toNat = false → s.flt.fenced = false → s.trn.st ≠ 5 → s.switchSet x yq.toNat c = some ts → s.findCmd yq.toNat c.seq = some c →
    ∃ s' l, exec (.microbatchSwitch xq xn yq) s = .next s' ∧ s'.tl.launches = s.tl.launches ++ [l] ∧
      l.q = yq.toNat ∧ l.seq = c.seq ∧ l.tiles = ts ∧ l.awaiting = x.tiles ∧ l.aside = some (x.q, x.seq) ∧
      s'.tl.moves = s.tl.moves ++ x.tiles.map (fun u => { tile := u, kind := .save yq.toNat c.seq }) ∧
      s'.tl.tile = s.tl.tile ∧ (∃ d, s'.findCmd yq.toNat c.seq = some d ∧ d.phase = .running) ∧ s'.mem = s.mem

/-! ## Links and packets (02 R26 to R43, R54; 13 R323, R326) -/

/-- R26 to R28, R323: the training of a port. A signal starts EQ; EQ, ALIGN and CONFIG lead to the next state (with the lanes
EQ chose, the lane order ALIGN found) and to ACTIVE with sequence numbers and buffers as new, or after a RETRAIN with the
flits not yet acknowledged due again; a far end other than the one a fabric port should have leads to DOWN; a bound passed
counts a failure, the third in succession leads to DOWN and fewer to DETECT; a DOWN port tries again 100 ms later; 10 ms
without a good flit lead an ACTIVE port to RETRAIN.
The model's choices in it: log 6, 16, 75. -/
def Obligations.LinkTrainingResult : Prop :=
  ∀ (p : PortId) (r : TrainReport) (s : State) (l : BitVec 4),
    let x := s.port p
    let at_ (s' : State) (y : Port) : Prop := s' = { s with ports := s'.ports } ∧ s'.port p = y ∧ OtherPorts p s s'
    let carries (s' : State) : Prop :=
      s' = { s with ports := s'.ports, fab := s'.fab } ∧ (PortId.isFab p = false → s'.fab = s.fab) ∧ OtherPorts p s s'
    (x.live = true → s.portUsed p = true → x.st = .detect →
      ∃ s', exec (.signalDetect p) s = .next s' ∧ at_ s' { x with st := .eq, sub := .eq, since := s.now, subSince := s.now }) ∧
    (x.st = .eq → laneChoice r.good = some l →
      ∃ s', exec (.trainingStateDone p r) s = .next s' ∧
        at_ s' { x with lanes := l, st := .align, sub := .align, since := s.now, subSince := s.now }) ∧
    (x.st = .align →
      ∃ s', exec (.trainingStateDone p r) s = .next s' ∧
        at_ s' { x with rev := r.rev, st := .config, sub := .config, since := s.now, subSince := s.now }) ∧
    (x.st = .config → s.miswire p r = false → agreed p x r = true →
      ∃ s', exec (.trainingStateDone p r) s = .next s' ∧ carries s' ∧
        (s'.port p).st = .active ∧ (s'.port p).rxSeq = 0 ∧ (s'.port p).ackSeq = 0xFFF ∧ (s'.port p).txSeq = 0 ∧
        (s'.port p).replay = [] ∧ (s'.port p).resend = [] ∧ (s'.port p).rx = [] ∧ (s'.port p).fails = 0 ∧
        (s'.port p).lanes = x.lanes ∧ (s'.port p).credit = classTab r.credit ∧ (s'.port p).share = classTab r.share) ∧
    (x.st = .retrain → x.sub = .config → s.miswire p r = false → agreed p x r = true →
      ∃ s', exec (.trainingStateDone p r) s = .next s' ∧ carries s' ∧
        (s'.port p).st = .active ∧ (s'.port p).rxSeq = x.rxSeq ∧ (s'.port p).txSeq = x.txSeq ∧
        (s'.port p).replay.map (fun f => f.fseq) = x.replay.map (fun f => f.fseq) ∧
        (s'.port p).resend = (s'.port p).replay ∧ (∀ f ∈ (s'.port p).resend, f.paid = false) ∧ (s'.port p).rx = x.rx ∧
        (s'.port p).credit = classTab r.credit ∧ (s'.port p).fails = 0) ∧
    (x.training = .config → s.miswire p r = false → agreed p x r = false → exec (.trainingStateDone p r) s = .next s) ∧
    (x.training = .config → s.miswire p r = true →
      ∃ s', exec (.trainingStateDone p r) s = .next s' ∧ (s'.port p).st = .down ∧ (s'.port p).miswired = true ∧
        (s'.port p).replay = [] ∧ OtherPorts p s s' ∧ s'.mem = s.mem ∧ s'.tl = s.tl) ∧
    (x.st = .eq ∨ x.st = .align ∨ x.st = .config → trainBound p x.st * 100000 < s.now - x.subSince → x.fails < 2 →
      ∃ s', exec (.trainingBoundExpiry p) s = .next s' ∧
        at_ s' { x with fails := x.fails + 1, st := .detect, sub := .detect, since := s.now, subSince := s.now }) ∧
    (x.st = .eq ∨ x.st = .align ∨ x.st = .config → trainBound p x.st * 100000 < s.now - x.subSince → 2 ≤ x.fails →
      ∃ s', exec (.trainingBoundExpiry p) s = .next s' ∧ (s'.port p).st = .down ∧ (s'.port p).replay = [] ∧
        OtherPorts p s s' ∧ s'.mem = s.mem ∧ s'.tl = s.tl) ∧
    (x.live = true → x.st = .down → x.sub = .down ∨ x.sub = .detect → 10000000 ≤ s.now - x.subSince → x.miswired = false →
      ∃ s', exec (.downRetryTimer p false) s = .next s' ∧ at_ s' { x with sub := .detect, subSince := s.now }) ∧
    (x.st = .active → 1000000 ≤ s.now - x.lastGood →
      ∃ s', exec (.linkIdleTimeout p) s = .next s' ∧ (s'.port p).st = .retrain ∧ (s'.port p).replay = x.replay ∧
        OtherPorts p s s' ∧ s'.mem = s.mem ∧ s'.tl = s.tl)

/-- R31, R32, R34, R40: what an ACTIVE port makes of a flit. A DATA flit with the expected FSEQ and room in the receive buffer is
taken: it joins the received flits of its class and FSEQ and ACKSEQ advance; while data is discarded up to the next packet
start, a flit without one is freed at once. Out of order it is dropped and answered with one NAK, as is one that does not
decode. A CTRL flit adds its credit by class, and its NAK makes every unacknowledged flit due again. R31, R32: an ACKSEQ that
names a flit of the replay buffer frees that flit and all before it, and no other.
The model's choices in it: log 16, 18, 75. -/
def Obligations.FlitAndAcknowledgementResult : Prop :=
  (
    ∀ (p : PortId) (bytes c : List Byte) (n : Nat) (s : State) (f : Flit),
      let x := s.port p
      let room : Prop := (Tab.get [] x.rx f.cls).length < Tab.get 0 x.share f.cls
      let accepts (s' : State) (l : List RxFlit) (freed : Nat) : Prop :=
        exec (.dataFlitReceive p bytes) s = .next s' ∧ OtherPorts p s s' ∧
          (s'.port p).rxSeq = x.rxSeq + 1 ∧ (s'.port p).ackSeq = f.fseq ∧ (s'.port p).lastGood = s.now ∧
          (s'.port p).waiting = false ∧ Tab.get [] (s'.port p).rx f.cls = Tab.get [] x.rx f.cls ++ l ∧
          (∀ k, k ≠ f.cls → Tab.get [] (s'.port p).rx k = Tab.get [] x.rx k) ∧
          Tab.get 0 (s'.port p).freed f.cls = Tab.get 0 x.freed f.cls + freed ∧ s'.mem = s.mem ∧ s'.tl = s.tl
      x.st = .active → s.portStopped p = false → rsCorrect bytes = some (c, n) → f = readFlit p c → f.valid p = true →
      (f.ftype = 0 → f.fseq = x.rxSeq → room → x.resync = false → ∃ s', accepts s' [{ sop := f.sop, data := f.data }] 0) ∧
      (f.ftype = 0 → f.fseq = x.rxSeq → room → x.resync = true → f.sop = 63 → ∃ s', accepts s' [] 1) ∧
      (f.ftype = 0 → f.fseq = x.rxSeq → room → x.resync = true → f.sop ≠ 63 →
        ∃ s', accepts s' [{ sop := f.sop, data := f.data.drop (4 * f.sop) }] 0 ∧ (s'.port p).resync = false) ∧
      (f.ftype = 0 → f.fseq ≠ x.rxSeq →
        ∃ s', exec (.dataFlitReceive p bytes) s = .next s' ∧ OtherPorts p s s' ∧ (s'.port p).rxSeq = x.rxSeq ∧
          (s'.port p).rx = x.rx ∧ (s'.port p).nakDue = (x.nakDue || !x.waiting) ∧ (s'.port p).waiting = true ∧
          s'.mem = s.mem ∧ s'.tl = s.tl) ∧
      (f.ftype = 2 → (bitsAt f.data 0 1 = 1 → x.nakCnt = 0) →
        ∃ s', exec (.ctrlFlitReceive p bytes) s = .next s' ∧ OtherPorts p s s' ∧ (s'.port p).st = .active ∧
          (PortId.isFab p = false → Tab.get 0 (s'.port p).credit 0 = Tab.get 0 x.credit 0 + leAt f.data 2 2) ∧
          (PortId.isFab p = true → ∀ k, k < 32 →
            Tab.get 0 (s'.port p).credit k = Tab.get 0 x.credit k + leAt f.data (2 + 2 * k) 2) ∧ (s'.port p).lastGood = s.now ∧
          (s'.port p).rx = x.rx ∧ (s'.port p).rxSeq = x.rxSeq ∧
          (bitsAt f.data 0 1 = 1 → (s'.port p).resend = (s'.port p).replay) ∧ s'.mem = s.mem ∧ s'.tl = s.tl)) ∧
  (
    ∀ (p : PortId) (bytes : List Byte) (s : State),
      (s.port p).st = .active → s.portStopped p = false → rsCorrect bytes = none →
      ∃ s', exec (.dataFlitReceive p bytes) s = .next s' ∧ OtherPorts p s s' ∧
        s'.port p = { s.port p with nakDue := true, waiting := true } ∧ s'.mem = s.mem ∧ s'.tl = s.tl ∧ s'.regs = s.regs) ∧
  (
    ∀ (x : Port) (a : BitVec 12) (l r : List SentFlit) (f : SentFlit),
      x.replay = l ++ f :: r → f.fseq = a → (∀ g ∈ l, g.fseq ≠ a) →
      (x.take a).replay = r ∧ (∀ g ∈ (x.take a).resend, g ∈ x.resend ∧ ∃ h ∈ r, h.fseq = g.fseq) ∧
      x.take a = { x with replay := (x.take a).replay, resend := (x.take a).resend })

/-- R35, R37: an enumerated module passes a good packet for a later module of its chain on to an ACTIVE PXD and drops and counts
one for no module beyond; from PXD it passes on to PXU what is bound for the host and drops the rest. R38: an ENUM with HOP 0
gives a module without identity its identity, answered with OK; a second one changes nothing and is answered OK only where it
repeats the identity; one with a higher HOP goes on to PXD with HOP less by 1.
The model's choices in it: log 17, 18, 65. -/
def Obligations.RelayAndEnumerationResult : Prop :=
  (
    ∀ (k : Packet) (s : State),
      s.serving = true → fld k.dw0 12 11 ≠ 2047 →
      ((s.port .pxu).st = .active → s.addressed k = false → s.host.ident ≠ none → bit k.dw0 4 = false →
        (fld k.dw0 6 6 / 8 = s.modNumber / 8 → s.modNumber < fld k.dw0 6 6 → (s.port .pxd).st = .active →
          ∃ s', exec (.pxuPacketRelay k) s = .next s' ∧
            s' = { s with ports := s'.ports, host := { s.host with downTx := s.host.downTx ++ [k] } }) ∧
        (¬ (fld k.dw0 6 6 / 8 = s.modNumber / 8 ∧ s.modNumber < fld k.dw0 6 6) →
          ∃ s', exec (.pxuPacketRelay k) s = .next s' ∧ s' = { s with ports := s'.ports, host := { s.host with err := s'.host.err } } ∧
            Tab.get 0 s'.host.err 3 = min 0xFFFF (Tab.get 0 s.host.err 3 + 1))) ∧
      ((s.port .pxd).st = .active →
        (bit k.dw0 4 = true →
          ∃ s', exec (.pxdPacketRelay k) s = .next s' ∧
            s' = { s with ports := s'.ports, host := { s.host with upRelay := s.host.upRelay ++ [k] } }) ∧
        (bit k.dw0 4 = false →
          ∃ s', exec (.pxdPacketRelay k) s = .next s' ∧ s' = { s with ports := s'.ports, host := { s.host with err := s'.host.err } } ∧
            Tab.get 0 s'.host.err 3 = min 0xFFFF (Tab.get 0 s.host.err 3 + 1)))) ∧
  (
    ∀ (k : Packet) (s : State), OnPxu s k 0x9 →
      let id : BitVec 12 := BitVec.ofNat 12 (fld k.dw1 3 12)
      (fld k.dw1 0 3 = 0 → s.host.ident = none →
        ∃ s', exec (.enum k) s = .next s' ∧ s'.host.ident = some id ∧ (∀ u, s'.tile u = s.tile u) ∧ s'.mem = s.mem ∧
          s'.regs = s.regs ∧ s'.dom.st = (if fld (s.reg 0x30000) 0 2 = 0 then 2 else 1)) ∧
      (∀ old, fld k.dw1 0 3 = 0 → s.host.ident = some old →
        ∃ s', exec (.enum k) s = .next s' ∧
          OnlyAnswered s s' k 0x9 (if old = id then 0 else 0x0202) Config.deviceNumber []) ∧
      (0 < fld k.dw1 0 3 → (s.port .pxd).st = .active →
        ∃ s' j, exec (.enum k) s = .next s' ∧ s' = { s with ports := s'.ports, host := { s.host with downTx := s.host.downTx ++ [j] } } ∧
          j.dw0 = k.dw0 ∧ j.payload = k.payload ∧ fld j.dw1 0 3 = fld k.dw1 0 3 - 1 ∧ fld j.dw1 3 12 = fld k.dw1 3 12))

/-- R54, Table 2.8: a RESULT_RD is answered by the slot: its status, data, command and completion status where the generation
is the slot's and it is READY (with REPEAT from the second read on), NOT_READY while it is ARMED, STALE where it is older by
up to 32,767 or the slot is idle, ERR_RANGE otherwise. Only the mark of having been read can change.
The model's choices in it: log 3, 18. -/
def Obligations.ResultReadAnswer : Prop :=
  ∀ (k : Packet) (s : State), OnPxu s k 0x6 →
    let i := fld k.dw1 0 12
    let x := s.slot i
    let d := (x.gen - BitVec.ofNat 16 (fld k.dw1 12 16)).toNat
    (d = 0 → x.st = .ready →
      ∃ s' r, exec (.resultRd k) s = .next s' ∧ s'.host.upTx = s.host.upTx ++ [r] ∧
        Answers s k r 0x7 (BitVec.ofNat 32 (b2n x.read * 2 ^ 16 + i * 2 ^ 17)) (x.seq ++ (x.cstatus ++ x.gen)) x.data ∧
        s'.slot i = { x with read := true } ∧ (∀ j, j ≠ i → s'.slot j = s.slot j) ∧ s'.mem = s.mem ∧ s'.tl = s.tl) ∧
    (∀ st, (d = 0 ∧ x.st = .armed ∧ st = 0x0101) ∨ (d = 0 ∧ x.st = .idle ∧ st = 0x0102) ∨ (1 ≤ d ∧ d ≤ 32767 ∧ st = 0x0102) ∨
        (32767 < d ∧ st = 0x0202) →
      ∃ s' r, exec (.resultRd k) s = .next s' ∧ s'.host.upTx = s.host.upTx ++ [r] ∧ fld r.dw1 0 16 = st ∧
        fld r.dw0 0 4 = 0x7 ∧ r.payload = [] ∧ (∀ j, s'.slot j = s.slot j) ∧ s'.mem = s.mem ∧ s'.tl = s.tl)

/-- R42, R43: a read of an implemented register is answered with OK and its value, one at an offset without a register with
ERR_RANGE and 0; nothing else changes. While a DATA_PUT waits, a read waits behind it. R9: a read of PXL_ERRCNT returns the four counts and leaves of them
what was counted in its own cycle; a read of STB_CNT, FAB_ERRCNT and PWR_STAT's peak does the same. R332: a read of STB_STEP
returns STEP and latches PHASE for STB_PHASE.
The model's choices in it: log 3, 15, 76. -/
def Obligations.RegisterReadResult : Prop :=
  (
    ∀ (k : Packet) (s : State) (o : Nat), OnPxu s k 0x2 → o = fld k.dw1 0 20 → o ≠ 0x20010 → isRc o = false →
      (s.putWaits = true → WaitsBehind (.regRd k) s) ∧
      (s.putWaits = false → s.recovery = false →
        (isOpen o = false → ∀ v, s.regVal o 0 = some v →
          ∃ s', exec (.regRd k) s = .next s' ∧ OnlyAnswered s s' k 0x2 0 v []) ∧
        (isOpen o = true → ∀ v, s.regVal o s.draw.1 = some v →
          ∃ s' r, exec (.regRd k) s = .next s' ∧ Answers s k r 0x2 0 v [] ∧
            s' = { s with ports := s'.ports, drawn := s'.drawn, host := { s.host with upTx := s.host.upTx ++ [r] } }) ∧
        (isOpen o = false → s.regVal o 0 = none →
          ∃ s', exec (.regRd k) s = .next s' ∧ OnlyAnswered s s' k 0x2 0x0202 0 []))) ∧
  (
    ∀ (k : Packet) (s : State) (ev : W64), OnPxu s k 0x2 → s.putWaits = false → s.recovery = false →
      (fld k.dw1 0 20 = 0x48 →
        ∃ s' r, exec (.readToClear k ev) s = .next s' ∧ s'.host.upTx = s.host.upTx ++ [r] ∧ Answers s k r 0x2 0 s.pxlErrcnt [] ∧
          (∀ i, i < 4 → Tab.get 0 s'.host.err i = fld ev (16 * i) 16) ∧ s' = { s with ports := s'.ports, host := s'.host }) ∧
      (fld k.dw1 0 20 = 0x20028 →
        ∃ s' r, exec (.readToClear k ev) s = .next s' ∧ s'.host.upTx = s.host.upTx ++ [r] ∧ Answers s k r 0x2 0 s.stbCnt [] ∧
          (∀ i, i < 4 → Tab.get 0 s'.stb.cnt i = fld ev (16 * i) 16) ∧ s'.stb = { s.stb with cnt := s'.stb.cnt }) ∧
      (∀ p, p < 16 → fld k.dw1 0 20 = 0x30200 + 8 * p →
        ∃ s' r, exec (.readToClear k ev) s = .next s' ∧ s'.host.upTx = s.host.upTx ++ [r] ∧ Answers s k r 0x2 0 (s.fabErrcnt p) [] ∧
          (∀ i, i < 4 → Tab.get 0 s'.fab.err (4 * p + i) = fld ev (16 * i) 16) ∧
          (∀ j, j < 4 * p ∨ 4 * p + 4 ≤ j → Tab.get 0 s'.fab.err j = Tab.get 0 s.fab.err j)) ∧
      (fld k.dw1 0 20 = 0x60008 →
        ∃ s' r, exec (.readToClear k ev) s = .next s' ∧ s'.host.upTx = s.host.upTx ++ [r] ∧ Answers s k r 0x2 0 s.pwrStat [] ∧
          s'.pwr = { s.pwr with peak := fld ev 32 16 })) ∧
  (
    ∀ (k : Packet) (s : State), OnPxu s k 0x2 → fld k.dw1 0 20 = 0x20010 → s.putWaits = false → s.recovery = false →
      ∃ s' r, exec (.stbStepRead k) s = .next s' ∧ s'.host.upTx = s.host.upTx ++ [r] ∧ Answers s k r 0x2 0 s.stb.step [] ∧
        s'.stb = { s.stb with latch := s.phase } ∧ s'.regs = s.regs ∧ s'.mem = s.mem)

/-! ## Register writes (02 R42, R58 and the register tables of the chapters) -/

/-- R42, R58 and the rules of the registers: a write that a register's rule accepts stores the register's defined bits, is
answered OK and changes nothing else; one it does not accept is answered ERR_RANGE and changes nothing. MEM_CFG, PARK_CFG,
FAB_CFG and CHK_CFG ask that no command is queued or running; FAB_XROUTE that the domain is another; DOM_EXPECT and DOM_CFG
that the domain is not formed; PWR_CAP a cap of 1,200 to 2,400 W; UPD_SRC an aligned address while IDLE or STAGED; STB_WIN a
window whose least is neither 0 nor above its greatest.
The model's choices in it: log 15. -/
def Obligations.RegisterWriteStoresOrRejects : Prop :=
  ∀ (d : Nat), d < 64 →
  ∀ p ∈ ([(Instr.memCfgWrite, 0x90000, 2, fun s w => fld w 0 2 ≠ 3 ∧ (fld w 0 2 = fld (s.reg 0x90000) 0 2 ∨ s.busy = false)),
      (Instr.parkCfgWrite, 0x80100, 43, fun s w =>
        s.busy = false ∧ fld w 0 31 % 4096 = 0 ∧ fld w 0 31 + 73728 * fld w 31 12 ≤ 2 ^ 31),
      (Instr.fabCfgWrite, 0x30000, 2, fun s w =>
        s.busy = false ∧ (fld w 0 2 = 0 ∨ s.modNumber < 16 * (2 ^ (fld w 0 2 - 1)))),
      (Instr.fabXrouteWrite, 0x31000 + 8 * d, 9, fun s _ => d ≠ domainOf (s.host.ident.getD 0)),
      (Instr.stbQholdWrite, 0x20030, 64, fun _ _ => True),
      (Instr.stbCfgWrite, 0x20008, 64, fun _ w => fld w 0 32 ≠ 0 ∧ fld w 0 32 ≤ fld w 32 32),
      (Instr.chkCfgWrite, 0x40000, 5, fun s w => s.busy = false ∧ fld w 0 2 ≠ 3),
      (Instr.domCfgWrite, 0x50028, 64, fun s _ => s.dom.st ≤ 1),
      (Instr.domCfgWrite, 0x50020, 23, fun s w => s.dom.st ≤ 1 ∧ 1 ≤ fld w 0 7 ∧ fld w 0 7 ≤ 64 ∧ fld w 7 16 ≠ 0),
      (Instr.updSrcWrite, 0x50100, 42, fun s w =>
        (s.boot.upd = 0 ∨ s.boot.upd = 2) ∧ fld w 0 42 % 4096 = 0 ∧ inOneTier (fld w 0 42) (5 * 4096) = true),
      (Instr.pwrCapWrite, 0x60000, 12, fun _ w => 1200 ≤ fld w 0 12 ∧ fld w 0 12 ≤ 2400),
      (Instr.registerWrite, 0x108, 64, fun s _ => s.busy = false)] :
      List ((Packet → Instr) × Nat × Nat × (State → W64 → Prop))),
    ∀ (k : Packet) (s : State) (w : W64), Writes s k p.2.1 w →
      (p.2.2.2 s w → ∃ s', exec (p.1 k) s = .next s' ∧ s'.reg p.2.1 = BitVec.ofNat 64 (fld w 0 p.2.2.1) ∧
        OtherRegisters p.2.1 s s' ∧ WriteAnswered s s' k 0 ∧
        s' = { s with ports := s'.ports, regs := s'.regs, host := { s.host with upTx := s'.host.upTx } }) ∧
      (¬ p.2.2.2 s w → ∃ s', exec (p.1 k) s = .next s' ∧ OnlyAnswered s s' k 0x3 0x0202 0 [])

/-- R332, R344, R340: STB_CFG with a new source or phase unit starts the cadence or the phase count over; LG_CFG sets a group's
period, its next tick counted from now; word 0 of a step-event entry is only staged, and word 1 takes both words or neither.
R377, R367: a change of a tensor slot's identifier or validity starts its count at 0; MRG_CLR.LEVELS takes every cluster's
margin levels and steps back to 0, MRG_CLR.RETIRED makes every retired position one that returns after a test, and the margin
record is due.
The model's choices in it: log 27. -/
def Obligations.StepBaseAndFaultRegisterWrites : Prop :=
  (
    ∀ (k : Packet) (s : State) (w : W64) (i : Nat),
      let v := w &&& 0x3FFFFF#64
      let old := s.reg 0x20000
      (Writes s k 0x20000 w → fld w 0 2 ≠ 3 → s.busy = false → (∀ e ∈ s.stb.evt, e.2.armed = false) →
        ∃ s', exec (.stbCfgWrite k) s = .next s' ∧ s'.reg 0x20000 = v ∧ OtherRegisters 0x20000 s s' ∧ WriteAnswered s s' k 0 ∧
          s'.stb.step = s.stb.step ∧ s'.stb.tick = s.stb.tick ∧
          (fld v 2 4 ≠ fld old 2 4 → s'.stb.phase0 = s.phase ∧ s'.stb.phaseAt = s.stb.tick) ∧
          (fld v 0 2 ≠ fld old 0 2 → s'.stb.cad = 1 ∧ s'.stb.r = none ∧ s'.stb.ivals = [] ∧ s'.stb.run = 0 ∧ s'.stb.miss = 0) ∧
          (fld v 0 2 = fld old 0 2 → s'.stb.cad = s.stb.cad ∧ s'.stb.r = s.stb.r) ∧ s'.mem = s.mem ∧ s'.tl = s.tl) ∧
      (i < 16 → Writes s k (0x20100 + 8 * i) w → fld w 1 24 ≠ 0 → (∀ c ∈ s.liveCmds, launchLock c.2 ≠ some i) →
        ∃ s', exec (.lgCfgWrite k) s = .next s' ∧ s'.reg (0x20100 + 8 * i) = w &&& 0x1FFFFFF#64 ∧
          OtherRegisters (0x20100 + 8 * i) s s' ∧ WriteAnswered s s' k 0 ∧
          Tab.get (0, 0) s'.stb.lgAt i = (s.stb.step, s.phase) ∧ s'.stb = { s.stb with lgAt := s'.stb.lgAt } ∧ s'.tl = s.tl) ∧
      (i < 256 → Writes s k (0x21000 + 16 * i) w →
        ∃ s', exec (.stbEvtWord0Write k) s = .next s' ∧ s'.evt i = { s.evt i with staged := w } ∧
          (∀ j, j ≠ i → s'.evt j = s.evt j) ∧ WriteAnswered s s' k 0 ∧ s'.regs = s.regs ∧ s'.mem = s.mem) ∧
      (i < 256 → Writes s k (0x21008 + 16 * i) w →
        (∀ j, j ≤ i → s.evtDue (s.evt j) = false) →
        ((bit w 35 = true → fld w 32 3 ≤ 5) → argOk (fld w 32 3) (fld w 48 16) = true →
          ∃ s', exec (.stbEvtWord1Write k) s = .next s' ∧ s'.evt i = { s.evt i with w0 := (s.evt i).staged, w1 := w } ∧
            (∀ j, j ≠ i → s'.evt j = s.evt j) ∧ WriteAnswered s s' k 0) ∧
        ((bit w 35 = true ∧ 5 < fld w 32 3) ∨ argOk (fld w 32 3) (fld w 48 16) = false →
          ∃ s', exec (.stbEvtWord1Write k) s = .next s' ∧ OnlyAnswered s s' k 0x3 0x0202 0 []))) ∧
  (
    ∀ (k : Packet) (s : State) (w : W64) (i : Nat),
      (i < 256 → Writes s k (0x41000 + 16 * i) w → envOk (fld w 25 16) = true →
        (∀ j, j < 256 → j ≠ i → bit (s.reg (0x41000 + 16 * j)) 24 = true → fld (s.reg (0x41000 + 16 * j)) 0 24 ≠ fld w 0 24) →
        ∃ s', exec (.fltTensorWrite k) s = .next s' ∧ s'.reg (0x41000 + 16 * i) = w &&& 0x1FFFFFFFFFF#64 ∧
          OtherRegisters (0x41000 + 16 * i) s s' ∧
          Tab.get 0 s'.flt.tcnt i =
            (if fld w 0 25 = fld (s.reg (0x41000 + 16 * i)) 0 25 then Tab.get 0 s.flt.tcnt i else 0) ∧
          (∀ j, j ≠ i → Tab.get 0 s'.flt.tcnt j = Tab.get 0 s.flt.tcnt j) ∧ WriteAnswered s s' k 0 ∧ s'.mem = s.mem) ∧
      (Writes s k 0x40030 w → fld w 2 62 = 0 → s.busy = false → s.trnOn = false →
        (bit w 0 = true →
          ∃ s', exec (.mrgClrLevels k) s = .next s' ∧ s'.flt.marginDue = true ∧ WriteAnswered s s' k 0 ∧
            ∀ c, c < 16 → (s'.cluster c).levels = List.replicate 18 0 ∧ (s'.cluster c).fsteps = 0 ∧ (s'.cluster c).vsteps = 0) ∧
        (bit w 0 = false → bit w 1 = true →
          ∃ s', exec (.mrgClrRetired k) s = .next s' ∧ s'.flt.marginDue = true ∧ WriteAnswered s s' k 0 ∧
            ∀ c, c < 16 → (s'.cluster c).roles =
              (s.cluster c).roles.map (fun r => if r = .retired then .returned else r) ∧
              (s'.cluster c).levels = (s.cluster c).levels)))

/-- R181, R202: enabling a sequence context under its conditions stores CTX_CFG, zeroes its 512 KiB page-table region, starts its
epochs at 0 and opens the next; enabling a Woad ring that fits stores WR_CFG and makes the ring FORMING; a disabled one is
IDLE again. Changing an enabled one's settings is ERR_RANGE. R273, R299: enabling a collective group reads its member list
and keeps it, its holders and its hash; enabling an Ochre stream whose settings and pool fit starts it at frame 0 with no
buffer in use.
The model's choices in it: log 58, 70. -/
def Obligations.BlockConfigurationResult : Prop :=
  (
    ∀ (k : Packet) (s : State) (w : W64) (i : Nat),
      let u := s.takeRx .pxu k
      (i < 48 → Writes s k (0x70000 + 32 * i) w →
        (bit (s.reg (0x70000 + 32 * i)) 0 = false → bit w 0 = true → fld w 5 2 ≠ 3 → fld w 8 3 ≤ 4 → 1 ≤ fld w 48 15 →
          fld w 48 15 ≤ 16384 → s.dpm = false →
          (∀ d, d < 48 → d ≠ i → s.ctxEnabled d = true → s.ctxTable d ≠ fld w 16 20 * 524288) →
          ∃ s', exec (.ctxCfgWrite k) s = .next s' ∧ s'.reg (0x70000 + 32 * i) = w &&& ctxCfgMask ∧
            OtherRegisters (0x70000 + 32 * i) s s' ∧ s'.ctx i = { nextOpen := true } ∧ (∀ j, j ≠ i → s'.ctx j = s.ctx j) ∧
            s'.mem = ((u.setReg (0x70000 + 32 * i) (w &&& ctxCfgMask)).zeroRange (fld w 16 20 * 524288) 524288).mem ∧
            WriteAnswered s s' k 0) ∧
        (bit (s.reg (0x70000 + 32 * i)) 0 = true → bit w 0 = true → w &&& ctxCfgMask ≠ s.reg (0x70000 + 32 * i) →
          ∃ s', exec (.ctxCfgWrite k) s = .next s' ∧ OnlyAnswered s s' k 0x3 0x0202 0 [])) ∧
      (i < 4 → Writes s k (0x80000 + 64 * i) w →
        (bit (s.reg (0x80000 + 64 * i)) 0 = false → bit w 0 = true →
          (u.setReg (0x80000 + 64 * i) (w &&& wrCfgMask w)).ringOk i = true →
          ∃ s', exec (.wrCfgWrite k) s = .next s' ∧ s'.reg (0x80000 + 64 * i) = w &&& wrCfgMask w ∧
            OtherRegisters (0x80000 + 64 * i) s s' ∧ s'.ringOf i = { st := 1 } ∧ (∀ j, j ≠ i → s'.ringOf j = s.ringOf j) ∧
            WriteAnswered s s' k 0 ∧ s'.mem = s.mem) ∧
        (bit (s.reg (0x80000 + 64 * i)) 0 = true → bit w 0 = false → (s.ringOf i).on = false →
          ∃ s', exec (.wrCfgWrite k) s = .next s' ∧ s'.reg (0x80000 + 64 * i) = w &&& wrCfgMask w ∧ s'.ringOf i = {} ∧
            WriteAnswered s s' k 0 ∧ s'.mem = s.mem) ∧
        (bit (s.reg (0x80000 + 64 * i)) 0 = true → bit w 0 = true → w &&& wrCfgMask w ≠ s.reg (0x80000 + 64 * i) →
          ∃ s', exec (.wrCfgWrite k) s = .next s' ∧ OnlyAnswered s s' k 0x3 0x0202 0 []))) ∧
  (
    ∀ (k : Packet) (s : State) (w : W64) (i : Nat),
      let u := s.takeRx .pxu k
      (∀ (l : List (BitVec 12)) (a : Nat), i < 256 → Writes s k (0xB1000 + 16 * i) w → bit (s.reg (0xB1000 + 16 * i)) 0 = false →
        bit w 0 = true → 2 ≤ fld w 13 4 → a = fld (s.reg (0xB1008 + 16 * i)) 0 42 → a % 32 = 0 → inTier a = true →
        inOneTier a (2 * (fld w 1 12 + 1)) = true → (u.readList a (fld w 1 12 + 1)).2 = some l → l.Nodup → domainsOk l = true →
        s.ownIdent ∈ l →
        ∃ s', exec (.grpCfgWrite k) s = .next s' ∧ s'.reg (0xB1000 + 16 * i) = BitVec.ofNat 64 (fld w 0 17) ∧
          OtherRegisters (0xB1000 + 16 * i) s s' ∧ Tab.get [] s'.coll.list i = l ∧ Tab.get [] s'.coll.holder i = l ∧
          Tab.get 0 s'.coll.ghash i = crc64 (l.flatMap (fun d => toBytesLE 2 d.toNat)) ∧
          Tab.get 0 s'.coll.next i = Tab.get 0 s.coll.next i ∧ s'.tl = s.tl) ∧
      (i < 48 → Writes s k (0xC0000 + 64 * i) w → bit (s.reg (0xC0000 + 64 * i)) 0 = false → bit w 0 = true → bit w 4 = true →
        ochOk (w &&& 0x3FFFFFFFFFF#64) (s.reg (0xC0008 + 64 * i)) (s.reg (0xC0018 + 64 * i)) (fld (s.reg (0xC0010 + 64 * i)) 0 42)
          = true →
        ∃ s', exec (.ochCfgWrite k) s = .next s' ∧ s'.reg (0xC0000 + 64 * i) = w &&& 0x3FFFFFFFFFF#64 ∧
          OtherRegisters (0xC0000 + 64 * i) s s' ∧ (s'.ochStream i).fnum = 0 ∧ (s'.ochStream i).vecs = [] ∧
          (s'.ochStream i).entry = none ∧ (∀ b ∈ (s'.ochStream i).bufs, b = (0, 0)) ∧
          (∀ j, j ≠ i → s'.ochStream j = s.ochStream j) ∧ WriteAnswered s s' k 0 ∧ s'.mem = s.mem))

/-- R233, R241, R242: MSA_SQ.CLR empties a vault's SQ register and drops the SQACC contributions held for it; DPM_ALLOC places a
buffer or records in DPM_RESULT why not; DPM_FREE ends a handle, whose storage waits for the commands accepted before;
PLAN_REQ starts a plan, whose completion decides every layer and clears BUSY.
The model's choices in it: log 22, 54. -/
def Obligations.MemoryRegisterCommands : Prop :=
  ∀ (k : Packet) (s : State) (w : W64) (i : Nat),
    let u := s.takeRx .pxu k
    (i < 256 → Writes s k (0x92000 + 8 * i) w → bit w 53 = true →
      ∃ s', exec (.msaSqClr k) s = .next s' ∧ s'.sqReg i = {} ∧ (∀ j, j ≠ i → s'.sqReg j = s.sqReg j) ∧
        (∀ c ∈ s'.mem.held, ¬ (fld c.ctl 0 2 = 2 ∧ locVault (64 * c.gran) = i)) ∧
        (∀ c ∈ s.mem.held, ¬ (fld c.ctl 0 2 = 2 ∧ locVault (64 * c.gran) = i) → c ∈ s'.mem.held) ∧
        s'.mem.byte = s.mem.byte ∧ WriteAnswered s s' k 0 ∧ s'.regs = s.regs) ∧
    (∀ b h, Writes s k 0x90010 w → fld w 36 28 = 0 → s.dpm = true → fld w 0 32 ≠ 0 → fld w 0 32 ≠ 0xFFFFFFFF → fld w 32 4 = 5 →
      u.placeOuter 5 (fld w 0 32 * 4096) = some b → (u.addBuf b).2 = h → 0 < h → h < 2 ^ 32 →
      ∃ s', exec (.dpmAlloc k) s = .next s' ∧ fld s'.mem.dpmResult 0 32 = h ∧ fld s'.mem.dpmResult 32 16 = 0 ∧
        fld s'.mem.dpmResult 48 1 = 1 ∧ Tab.get none s'.mem.dpm (h % 2 ^ 16) = some { b with gen := h / 2 ^ 16 } ∧
        s'.mem.byte = s.mem.byte ∧ WriteAnswered s s' k 0) ∧
    (Writes s k 0x90010 w → fld w 47 17 = 0 → 5 < fld w 32 4 →
      ∃ s', exec (.dpmAlloc k) s = .next s' ∧ fld s'.mem.dpmResult 0 32 = 0 ∧ fld s'.mem.dpmResult 32 16 = 0x0202 ∧
        s'.mem.dpm = s.mem.dpm ∧ s'.mem.byte = s.mem.byte ∧ WriteAnswered s s' k 0) ∧
    (∀ b, Writes s k 0x90020 w → fld w 32 32 = 0 → s.dpmBuf (fld w 0 32) = some b → b.live = true →
      ∃ s', exec (.dpmFree k) s = .next s' ∧
        Tab.get none s'.mem.dpm (fld w 0 16) = some { b with live := false, waits := s.liveCmds.map (fun c => (c.1, c.2.seq)) } ∧
        (∀ j, j ≠ fld w 0 16 → Tab.get none s'.mem.dpm j = Tab.get none s.mem.dpm j) ∧ WriteAnswered s s' k 0 ∧
        s'.mem.byte = s.mem.byte) ∧
    (Writes s k 0x90030 w → fld w 42 22 = 0 → s.mem.planAddr = none →
      ∃ s', exec (.planReq k) s = .next s' ∧ s'.mem = { s.mem with planAddr := some (fld w 0 42) } ∧ WriteAnswered s s' k 0) ∧
    (∀ a h, s.mem.planAddr = some a → a % 32 = 0 → inTier a = true → inOneTier a 32 = true → h = (s.readRef (.addr a) 32).1 →
      planFault h a = none →
      ∃ s' p, exec (.planComplete noFind) s = .next s' ∧ s'.mem.planAddr = none ∧ s'.mem.planStatus = 0 ∧ s'.mem.plan = some p ∧
        p.dec.length = leAt h 0 2 ∧ (∀ x ∈ p.dec, x ≤ 2) ∧ p.ratio = leAt h 3 1 ∧
        (p.dec.getLast? = some 0 ↔ ∃ n, p.sizes.getLast? = some n ∧ leAt h 2 1 * n ≤ leAt h 8 4 * 2 ^ 20))

/-! ## Commands of the host (02 R42 to R53) -/

/-- R44, R45, R48: a CMD packet with one 64-byte command that passes every check enters it at the end of its queue under the next
sequence number, arms its result slot with the next generation and answers OK with that number; one that a check rejects,
that finds its queue full or disabled, or that meets a fenced module, enters nothing and is answered with the status. R43: while
a DATA_PUT waits, a CMD waits behind it.
The model's choices in it: log 48, 76, 78. -/
def Obligations.CommandAcceptance : Prop :=
  ∀ (k : Packet) (s : State), OnPxu s k 0x1 → fld k.dw0 12 11 = 2 →
    let q := fld k.dw1 0 6
    let c := rawCmd (Packet.data k)
    let x := s.queue q
    let refused (st : W16) : Prop :=
      ∃ s' r, exec (.cmd k) s = .next s' ∧ s'.host.upTx = s.host.upTx ++ [r] ∧ fld r.dw0 0 4 = 0x1 ∧
        fld r.dw0 23 9 = fld k.dw0 23 9 ∧ fld r.dw1 0 16 = st.toNat ∧ s'.host.queues = s.host.queues ∧
        s'.host.slots = s.host.slots ∧ s'.mem = s.mem ∧ s'.tl = s.tl ∧ s'.regs = s.regs ∧ s'.cx = s.cx
    (s.putWaits = true → WaitsBehind (.cmd k) s) ∧
    (s.putWaits = false → s.flt.fenced = true → refused 0x0505) ∧
    (s.putWaits = false → s.flt.fenced = false → s.recovery = false → s.domClosed = true → refused 0x0802) ∧
    (s.putWaits = false → s.flt.fenced = false → s.recovery = false → s.domClosed = false →
      (s.qEnabled q = false → refused 0x0202) ∧
      (s.qEnabled q = true →
        (∀ f, firstFlaw (s.cmdFlaws c 64) = some f → refused f.st) ∧
        (s.cmdFlaws c 64 = [] → s.qDepth q < (x.submit - x.doneSeq).toNat + 1 → refused 0x0205) ∧
        (s.cmdFlaws c 64 = [] → (x.submit - x.doneSeq).toNat + 1 ≤ s.qDepth q →
          ∃ s' d r, exec (.cmd k) s = .next s' ∧ s'.queue q = { x with cmds := x.cmds ++ [d], submit := x.submit + 1 } ∧
            d.raw = Packet.data k ∧ d.seq = x.submit ∧ d.phase = .queued ∧
            d.depTo = (if Cmd.full c = true ∧ bitsAt c.raw 28 16 ≠ 0 then bitsAt c.raw 28 16 else s.depToDef) ∧
            (∀ p, p ≠ q → s'.queue p = s.queue p) ∧
            (∀ i, s'.slot i = (if Cmd.slot? c = some i then { gen := (s.slot i).gen + 1, st := .armed } else s.slot i)) ∧
            s'.host.upTx = s.host.upTx ++ [r] ∧ fld r.dw0 0 4 = 0x1 ∧ fld r.dw0 23 9 = fld k.dw0 23 9 ∧ fld r.dw1 0 16 = 0 ∧
            r.dw2 = x.submit ∧ s'.mem = s.mem ∧ s'.tl = s.tl ∧ s'.regs = s.regs ∧ s'.sync = s.sync)))

/-- R42, R43, R247: a DATA_PUT of an aligned range in one tier that nothing protects or holds writes its payload there and
nothing else, and is answered OK; where storage still in use holds the range, it waits, and what comes after waits behind it. A
DATA_GET is answered with the bytes and changes nothing; one that is misaligned or leaves its tier is answered ERR_RANGE
without effect.
The model's choices in it: log 18, 46, 76, 77. -/
def Obligations.HostDataResult : Prop :=
  ∀ (k : Packet) (s : State), s.recovery = false → bit k.dw1 0 = false →
    let a := (k.dw3 ++ k.dw2).toNat
    let n := 32 * fld k.dw0 12 11
    let g := 32 * fld k.dw1 1 11
    (OnPxu s k 0x4 → a % 32 = 0 → inOneTier a n = true → s.refAny (.addr a) n s.denyWrite = false →
      s.writeHeld (.addr a) n = true → WaitsBehind (.dataPut k) s) ∧
    (OnPxu s k 0x4 → s.putWaits = true → WaitsBehind (.dataPut k) s) ∧
    (∀ f, OnPxu s k 0x5 → s.putWaits = true → WaitsBehind (.dataGet k f) s) ∧
    (s.putWaits = false → OnPxu s k 0x4 → a % 32 = 0 → Whole s a n → s.refAny (.addr a) n s.denyWrite = false →
      s.writeHeld (.addr a) n = false →
      ∃ s' r, exec (.dataPut k) s = .next s' ∧ Answers s k r 0x4 0 0 [] ∧ s'.host.upTx = s.host.upTx ++ [r] ∧
        Holds s' a (Packet.data k) ∧ BytesOutside s s' a n ∧ s'.regs = s.regs ∧ s'.tl = s.tl ∧ s'.sync = s.sync) ∧
    (s.putWaits = false → OnPxu s k 0x4 → a % 32 ≠ 0 ∨ inOneTier a n = false →
      ∃ s', exec (.dataPut k) s = .next s' ∧ OnlyAnswered s s' k 0x4 0x0202 0 []) ∧
    (s.putWaits = false → OnPxu s k 0x5 → 0 < g → g ≤ 32 * 2046 → a % 32 = 0 → Whole s a g → s.refAny (.addr a) g s.denyRead = false →
      s.readHeld (.addr a) g = false →
      ∃ s', exec (.dataGet k noFind) s = .next s' ∧ OnlyAnswered s s' k 0x5 0 0 (s.peek a g)) ∧
    (s.putWaits = false → OnPxu s k 0x5 → g = 0 ∨ 32 * 2046 < g ∨ a % 32 ≠ 0 ∨ inOneTier a g = false →
      ∃ s', exec (.dataGet k noFind) s = .next s' ∧ OnlyAnswered s s' k 0x5 0x0202 0 [])

/-- R46, R47, R50, R51, R24, 10 R267: the head of the queue with the next dispatch slot is dispatched with its time, weight version,
STEP and PHASE where its dependencies are met, and ends DEP_FAILED where one has failed or EXPELLED in an expelled module;
the head of a BULK queue that waited ready longer than BULK_AGE is aged; a head whose dependencies stay open for DEP_TO
ends DEP_TIMEOUT. No other queue changes. (COLL and COMMIT that end so do more: see their rules.)
The model's choices in it: log 28, 29. -/
def Obligations.CommandDispatchResult : Prop :=
  ∀ (q : BitVec 6) (s : State) (c : Cmd),
    let n := q.toNat
    let frame (s' : State) : Prop :=
      (∀ p, p ≠ n → s'.queue p = s.queue p) ∧ s'.mem = s.mem ∧ s'.tl = s.tl ∧ s'.regs = s.regs ∧ s'.host.slots = s.host.slots
    (s.queue n).head = some c → s.findCmd n c.seq = some c →
    (s.nextQueue = some n →
      (s.depsState c = some false → Cmd.opcode c ≠ 0x04 → Cmd.opcode c ≠ 0x0A →
        ∃ s', exec (.commandDispatch q) s = .next s' ∧ frame s' ∧
          s'.findCmd n c.seq = some { c with phase := .ended 0x0302, data := [] }) ∧
      (s.depsState c = some true → s.trn.st = 5 → expelledOp (Cmd.opcode c) = true → Cmd.opcode c ≠ 0x04 → Cmd.opcode c ≠ 0x0A →
        ∃ s', exec (.commandDispatch q) s = .next s' ∧ frame s' ∧
          s'.findCmd n c.seq = some { c with phase := .ended 0x0704, data := [] }) ∧
      (s.depsState c = some true → s.trn.st ≠ 5 →
        ∃ s', exec (.commandDispatch q) s = .next s' ∧ frame s' ∧
          s'.findCmd n c.seq = some { c with
            phase := .running, runAt := s.now, disp := s.host.dispatched, ver := s.reg 0xA0010,
            stepAt := s.stb.step, phaseAt := s.phase, headAt := c.headAt.map (· + (s.now - c.readyAt.getD s.now)) } ∧
          Tab.get 63 s'.host.served (s.qClass n) = n)) ∧
    (s.nextQueue ≠ some n → exec (.commandDispatch q) s = .next s) ∧
    (∀ t, c.readyAt = some t → s.qClass n = 2 → s.bulkAge * 100 < s.now - t → s.host.aged.contains n = false →
      exec (.bulkAgeExpiry q) s = .next { s with host := { s.host with aged := s.host.aged ++ [n] } }) ∧
    (∀ t rest, (s.queue n).cmds = c :: rest → s.depsState c = none → c.headAt = some t → c.depTo * 100000 ≤ s.now - t →
      Cmd.opcode c ≠ 0x04 → Cmd.opcode c ≠ 0x0A →
      ∃ s', exec (.depTimeoutExpiry q) s = .next s' ∧ frame s' ∧
        s'.findCmd n c.seq = some { c with phase := .ended 0x0301, data := [] })

/-- R46, R49, R52 to R54, R56: a FENCE ends with OK once every command accepted before it in its queue, and every command of its mask
accepted before it, is gone. The oldest command of a queue whose effect has ended completes: its slot is READY with status,
number and data, DONE_SEQ rises by 1, every dependency on it is resolved, and a failure without a slot is told by an
EVENT.
The model's choices in it: log 20, 29. -/
def Obligations.CommandCompletionResult : Prop :=
  ∀ (q : BitVec 6) (n : W32) (s : State) (c : Cmd),
    let x := s.queue q.toNat
    let gone (d : Cmd) : Prop := d.phase = .dropped ∨ ∃ st, d.phase = .done st
    (Runs s q.toNat n 0x0F c → (∀ d ∈ x.cmds, d.acc < c.acc → gone d) →
      (∀ m ∈ c.snap, ∀ d ∈ (s.queue m.1).cmds, d.acc ≠ c.acc → 0 < (m.2 - d.seq).toInt → gone d) →
      ∃ s', exec (.fence q n) s = .next s' ∧ OnlyEnded s s' q.toNat n 0 []) ∧
    (Runs s q.toNat n 0x0F c → (∃ d ∈ x.cmds, d.acc < c.acc ∧ ¬ gone d) → exec (.fence q n) s = .next s) ∧
    (∀ st rest, x.cmds = c :: rest → c.seq = n → c.phase = .ended st → (∀ d ∈ rest, d.seq ≠ n) →
      (∀ d, rest.head? = some d → ¬ gone d) →
      ∃ s', exec (.commandComplete q n) s = .next s' ∧ s'.mem = s.mem ∧ s'.regs = s.regs ∧
        (s'.queue q.toNat).doneSeq = x.doneSeq + 1 ∧ (s'.queue q.toNat).submit = x.submit ∧
        (s'.queue q.toNat).cmds.map (fun d => (d.seq, d.phase)) = rest.map (fun d => (d.seq, d.phase)) ∧
        ((x.submit - n).toNat ≤ 4096 → (s'.queue q.toNat).hist.head? = some (n, st)) ∧
        (∀ p, p ≠ q.toNat → (s'.queue p).doneSeq = (s.queue p).doneSeq) ∧
        (∀ p, ∀ d ∈ (s'.queue p).cmds, ∀ e ∈ d.deps, e.kind = 2 → e.ref = q.toNat → e.val = n → e.res ≠ none) ∧
        (∀ i, s'.slot i = (if Cmd.slot? c = some i
          then { s.slot i with st := .ready, cstatus := st, seq := n, data := padTo 32 c.data } else s.slot i)) ∧
        (Cmd.slot? c = none → Status.success st = false → bit (s.reg 0x60) 2 = true →
          ∃ r, s'.host.upTx = s.host.upTx ++ [r] ∧ fld r.dw0 0 4 = 0x8 ∧ fld r.dw1 0 8 = 3 ∧ fld r.dw1 16 16 = st.toNat ∧
            r.dw2 = q.zeroExtend 32 ∧ r.dw3 = n))

/-! ## Memory commands and memory-side units (07 R184 to R197; 09 R222 to R240; 14 R370) -/

/-- R237 to R240: a COPY outside DPM whose source and destination are whole writes the bytes the source held before its first
write, and no others; with OP = 1 a granule becomes the sum of the contribution's rule R228; a FILL repeats its pattern.
Each ends with OK and the number of bytes. A range still in use holds either back; a range that may no longer be written ends
it with ERR_RANGE and nothing written.
The model's choices in it: log 67, 89. -/
def Obligations.CopyAndFillResult : Prop :=
  ∀ (q : BitVec 6) (n : W32) (s : State) (c : Cmd), s.dpm = false →
    let a := addrOp c 0
    let b := addrOp c 64
    let len := Cmd.opnd c 128 32 * 32
    let done (k : Nat) : List Byte := toBytesLE 8 k ++ toBytesLE 8 0 ++ List.replicate 16 0
    let rest (s' : State) : Prop := s'.regs = s.regs ∧ s'.tl = s.tl ∧ s'.sync = s.sync ∧ s'.cx = s.cx
    (Runs s q.toNat n 0x02 c → s.writeHeld (.addr b) len = true ∨ s.readHeld (.addr a) len = true →
      exec (.copy q n noFind) s = .next s) ∧
    (Runs s q.toNat n 0x02 c → s.writeHeld (.addr b) len = false → s.readHeld (.addr a) len = false →
      s.writeDenied (.addr b) len = true →
      ∃ s', exec (.copy q n noFind) s = .next s' ∧ OnlyEnded s s' q.toNat n 0x0202 (done 0)) ∧
    (Runs s q.toNat n 0x02 c → copyOp c = 0 → Whole s a len → Whole s b len → s.writeHeld (.addr b) len = false →
      s.writeDenied (.addr b) len = false → s.readHeld (.addr a) len = false →
      ∃ s', exec (.copy q n noFind) s = .next s' ∧ Ended s s' q.toNat n 0 (done len) ∧ Holds s' b (s.peek a len) ∧
        BytesOutside s s' b len ∧ rest s') ∧
    (∀ lb, Runs s q.toNat n 0x02 c → copyOp c = 1 → len = 64 → a % 64 = 0 → b % 64 = 0 → inNear b = true → Whole s a 64 →
      Whole s b 64 → NoRound s b 64 → s.writeHeld (.addr b) 64 = false → s.writeDenied (.addr b) 64 = false →
      s.readHeld (.addr a) 64 = false → s.addrLoc b = some lb →
      ∃ s', exec (.copy q n noFind) s = .next s' ∧ Ended s s' q.toNat n 0 (done 64) ∧
        Holds s' b (accGranule s { src := .fabric, gran := lb / 64, ctl := copyCtl c, data := s.peek a 64, ver := c.ver, step := s.isStep q.toNat }
          (s.peek b 64)).1 ∧
        BytesOutside s s' b 64 ∧ rest s') ∧
    (let k := Cmd.opnd c 64 32 * 32
     (Runs s q.toNat n 0x03 c → s.writeHeld (.addr a) k = true → exec (.fill q n) s = .next s) ∧
     (Runs s q.toNat n 0x03 c → s.writeHeld (.addr a) k = false → s.writeDenied (.addr a) k = true →
      ∃ s', exec (.fill q n) s = .next s' ∧ OnlyEnded s s' q.toNat n 0x0202 (done 0)) ∧
     (Runs s q.toNat n 0x03 c → Whole s a k → s.writeHeld (.addr a) k = false → s.writeDenied (.addr a) k = false →
      ∃ s', exec (.fill q n) s = .next s' ∧ Ended s s' q.toNat n 0 (done k) ∧
        Holds s' a (List.replicate (k / 8)
          (if Cmd.full c then toBytesLE 8 (Cmd.opnd c 96 64) else toBytesLE 4 (Cmd.opnd c 96 32) ++ toBytesLE 4 (Cmd.opnd c 96 32))).flatten ∧
        BytesOutside s s' a k ∧ rest s'))

/-- R184, R188 to R192: the next epoch of a context opens with a copy of the current table once no pin holds epoch N − 4. A
PT_EDIT whose entries all pass writes them into the open epoch's table and nothing else, one with a bad entry writes
nothing; a PT_COMMIT makes the open epoch current and answers with its number and the frames it released.
The model's choices in it: log 6. -/
def Obligations.PageTableResult : Prop :=
  (∀ (c : BitVec 6) (s : State),
    let x := s.ctx c.toNat
    let a := s.ctxBuf c.toNat x.epoch
    let b := s.ctxBuf c.toNat (x.epoch + 1)
    Memory.wf s.mem = true → s.ctxEnabled c.toNat = true → x.nextOpen = false →
    ((∀ p ∈ s.cx.pins, p.ctx = c.toNat → p.epoch ≠ x.epoch + 1 - 4) →
      ∃ s', exec (.nextEpochOpen c) s = .next s' ∧ s'.ctx c.toNat = { x with nextOpen := true } ∧
        (∀ d, d ≠ c.toNat → s'.ctx d = s.ctx d) ∧ Holds s' b (s.peek a 131072) ∧ BytesOutside s s' b 131072 ∧
        s'.regs = s.regs ∧ s'.host = s.host) ∧
    ((∃ p ∈ s.cx.pins, p.ctx = c.toNat ∧ p.epoch = x.epoch + 1 - 4) → exec (.nextEpochOpen c) s = .next s)) ∧
  (∀ (q : BitVec 6) (n : W32) (s : State) (c : Cmd),
    let k := Cmd.opnd c 93 6
    let m := Cmd.opnd c 78 15
    let mode := if Cmd.full c then Cmd.opnd c 99 2 else 0
    let src := Cmd.opnd c 0 64
    let b := s.ctxBuf k ((s.ctx k).epoch + 1) + 8 * Cmd.opnd c 64 14
    let e : W64 := BitVec.ofNat 64 (Cmd.opnd c 128 64)
    let sp := 2 ^ Cmd.opnd c 192 4
    let es : List W64 :=
      if mode = 0 then (List.range m).map (fun i => BitVec.ofNat 64 (leAt (s.peek src (8 * m)) (8 * i) 8))
      else if mode = 1 then List.replicate m 0
      else (List.range m).map (fun i => at64 0 1 1 ||| at64 4 8 ((fld e 4 8 + i % sp) % 256) |||
        BitVec.ofNat 64 ((fld e 12 19 + i / sp * s.frameUnits k) * 4096))
    Runs s q.toNat n 0x06 c → (s.ctx k).nextOpen = true → s.memStopped = false →
    (∀ x ∈ s.liveCmds, x.2.acc < c.acc → Cmd.opcode x.2 = 0x06 → Cmd.ctx? x.2 = some k → ∃ st, x.2.phase = .ended st) →
    Cmd.opnd c 64 14 + m ≤ 16384 → Whole s b (8 * m) → (mode = 0 → Whole s src (8 * m)) →
    ((∀ x ∈ es, s.entryFault k (mode == 2) x = none) →
      ∃ s', exec (.ptEdit q n noFind) s = .next s' ∧ Ended s s' q.toNat n 0 [] ∧ Holds s' b (es.flatMap (fun x => toBytesLE 8 x.toNat)) ∧
        BytesOutside s s' b (8 * m) ∧ s'.cx = s.cx ∧ s'.regs = s.regs) ∧
    ((∃ x ∈ es, s.entryFault k (mode == 2) x ≠ none) →
      ∃ s' st, exec (.ptEdit q n noFind) s = .next s' ∧ (st = 0x0202 ∨ st = 0x0203) ∧ OnlyEnded s s' q.toNat n st [])) ∧
  (∀ (q : BitVec 6) (n : W32) (s : State) (c : Cmd),
    let k := Cmd.opnd c 0 6
    let x := s.ctx k
    let freed := ((List.range (s.ctxPages k)).filter (fun p =>
      bit (s.pageEntry k x.epoch p) 0 && s.pageEntry k x.epoch p != s.pageEntry k (x.epoch + 1) p)).length
    Runs s q.toNat n 0x07 c → x.nextOpen = true →
    (∀ y ∈ s.liveCmds, y.2.phase = .running → y.2.disp < c.disp → Cmd.opcode y.2 = 0x06 → Cmd.ctx? y.2 ≠ some k) →
    ∃ s', exec (.ptCommit q n) s = .next s' ∧
      Ended s s' q.toNat n 0 (toBytesLE 4 (x.epoch + 1).toNat ++ toBytesLE 2 freed ++ List.replicate 26 0) ∧
      (s'.ctx k).epoch = x.epoch + 1 ∧ (s'.ctx k).nextOpen = false ∧ (s'.ctx k).len = x.len ∧
      (∀ d, d ≠ k → s'.ctx d = s.ctx d) ∧ s'.cx.pins = s.cx.pins ∧ s'.mem = s.mem ∧ s'.regs = s.regs)

/-- R193 to R197: a KV_APPEND whose turn has come and whose pages are valid in the epoch it pinned, with no uncorrectable
granule, ends with OK and its first position and count; into an invalid page it ends with ERR_RANGE and writes nothing. One
position of a BF16 context with one head and one copy moves its K row and its V row to their rows of the page, and nothing
else. -/
def Obligations.KvAppendResult : Prop :=
  ∀ (q : BitVec 6) (n : W32) (s : State) (c : Cmd) (pin : Pin),
    let a := s.kvArgs c
    let ok (nf : Nat) : List Byte := toBytesLE 4 c.pos ++ toBytesLE 4 a.count ++ toBytesLE 4 nf ++ List.replicate 20 0
    let entry (p : Nat) : W64 := s.pageEntry a.ctx pin.epoch p
    Runs s q.toNat n 0x05 c → s.memStopped = false → s.cx.pins.find? (fun p => p.holder == .append q.toNat n) = some pin →
    (∀ x ∈ s.liveCmds, x.2.acc < c.acc → Cmd.opcode x.2 = 0x05 → kvOverlap s c x.2 = true → ∃ st, x.2.phase = .ended st) →
    1 ≤ a.count →
    ((∀ p, c.pos / 256 ≤ p → p ≤ (c.pos + a.count - 1) / 256 → bit (entry p) 0 = true) → s.mem.ue = [] →
      (∀ t h kv, t < a.count → h < s.ctxHkv a.ctx → kv < 2 → inOneTier (a.row (!Cmd.full c) t h kv) 256 = true) →
      ∃ s' nf, exec (.kvAppend q n noFind) s = .next s' ∧ Ended s s' q.toNat n 0 (ok nf) ∧ s'.regs = s.regs ∧ s'.tl = s.tl) ∧
    ((∃ p, c.pos / 256 ≤ p ∧ p ≤ (c.pos + a.count - 1) / 256 ∧ bit (entry p) 0 = false) →
      ∃ s', exec (.kvAppend q n noFind) s = .next s' ∧ Ended s s' q.toNat n 0x0202 [] ∧ s'.mem = s.mem ∧ s'.regs = s.regs) ∧
    (let src := addrOp c 0
     let base := vaultLoc (fld (entry (c.pos / 256)) 4 8) (fld (entry (c.pos / 256)) 12 19 * 4096) + 256 * (c.pos % 256)
     let dst (l : Nat) : Prop := (base ≤ l ∧ l < base + 256) ∨ (base + 65536 ≤ l ∧ l < base + 65536 + 256)
     Cmd.full c = false → a.count = 1 → s.ctxHkv a.ctx = 1 → s.ctxKvf a.ctx = 0 → s.ctxCopiesLog2 a.ctx = 0 →
      bit (entry (c.pos / 256)) 0 = true → src < 2 ^ 63 → Whole s src 512 → (∀ l, dst l → s.mem.ue.contains (l / 64) = false) →
      (∀ i, i < 512 → ∀ l, s.addrLoc (src + i) = some l → ¬ dst l) →
      (∀ i, i < 8 → ∀ l, s.addrLoc (s.ctxBuf a.ctx pin.epoch + 8 * (c.pos / 256)) = some l → ¬ dst (l + i)) →
      ∃ s', exec (.kvAppend q n noFind) s = .next s' ∧ Ended s s' q.toNat n 0 (ok 0) ∧
        (∀ j l, j < 256 → s.addrLoc (src + j) = some l → s'.memByte (base + j) = s.memByte l) ∧
        (∀ j l, j < 256 → s.addrLoc (src + 256 + j) = some l → s'.memByte (base + 65536 + j) = s.memByte l) ∧
        (∀ l, ¬ dst l → s'.memByte l = s.memByte l))

/-- R228, R229, R231, R233: a contribution that reaches its vault with TOKEN equal to the order count is applied and advances the
count, or ends the round with LAST: ACC and SACC change their granule alone, with its
mirror copy where a buffer has one (Table 9.7), SQACC the vault's SQ register alone. One with
a later TOKEN is held, or waits on its way while the hold store is full; one with an earlier TOKEN is discarded.
The model's choices in it: log 53. -/
def Obligations.ContributionResult : Prop :=
  ∀ (i : Nat) (s : State) (c : Contrib), s.mem.fly[i]? = some c → s.locStopped (64 * c.gran) = false →
    s.mem.ue.contains c.gran = false → c.data.length = 64 → (∀ h ∈ s.mem.held, h.target ≠ c.target) →
    let gone (s' : State) : Prop := s'.mem.fly = s.mem.fly.eraseIdx i ∧ s'.regs = s.regs ∧ s'.sync = s.sync ∧ s'.host.queues = s.host.queues
    let cnt := Tab.get 0 s.mem.ordc c.gran
    (c.op < 2 → c.token = cnt.toNat →
      ∃ s', exec (.contributionArrive i noFind) s = .next s' ∧ gone s' ∧ s'.mem.held = s.mem.held ∧ s'.tl = s.tl ∧
        s'.locBytes (64 * c.gran) 64 = (accGranule s c (s.locBytes (64 * c.gran) 64)).1 ∧
        (∀ m, s.mirrorOf (64 * c.gran) = some m →
          s'.locBytes m 64 = (accGranule s c (s.locBytes (64 * c.gran) 64)).1) ∧
        (∀ l, l / 64 ≠ c.gran → (∀ m, s.mirrorOf (64 * c.gran) = some m → l < m ∨ m + 64 ≤ l) → s'.memByte l = s.memByte l) ∧
        Tab.get 0 s'.mem.ordc c.gran = (if c.last then 0 else cnt + 1) ∧
        (∀ g, g ≠ c.gran → Tab.get 0 s'.mem.ordc g = Tab.get 0 s.mem.ordc g) ∧ s'.mem.sq = s.mem.sq) ∧
    (let v := locVault (64 * c.gran)
     let r := s.sqReg v
     let old := if c.token = 0 ∧ r.fin = true then a36Zero else r.sq
     c.op = 2 → c.token = r.nxt.toNat →
      ∃ s', exec (.contributionArrive i noFind) s = .next s' ∧ gone s' ∧ s'.mem.held = s.mem.held ∧ s'.tl = s.tl ∧ SameBytes s s' ∧
        (s'.sqReg v).sq = (a36Add old (sqGranule (msaFmt c.dfmt) c.data).1).1 ∧
        (s'.sqReg v).nxt = (if c.last then 0 else r.nxt + 1) ∧ (∀ w, w ≠ v → s'.sqReg w = s.sqReg w)) ∧
    (c.op < 2 → cnt.toNat < c.token →
      (s.mem.held.filter (fun h => locVault (64 * h.gran) == locVault (64 * c.gran))).length < 524288 →
      ∃ s', exec (.contributionArrive i noFind) s = .next s' ∧ gone s' ∧ s'.mem.held = s.mem.held ++ [c] ∧ SameBytes s s' ∧ s'.tl = s.tl) ∧
    (c.op < 2 → cnt.toNat < c.token →
      524288 ≤ (s.mem.held.filter (fun h => locVault (64 * h.gran) == locVault (64 * c.gran))).length →
      exec (.contributionArrive i noFind) s = .next s) ∧
    (c.op < 2 → c.token < cnt.toNat → c.src = .fabric →
      ∃ s', exec (.contributionArrive i noFind) s = .next s' ∧ gone s' ∧ s'.mem.held = s.mem.held ∧ SameBytes s s' ∧ s'.tl = s.tl)

/-- R224, R225, R370: a vault whose bond path fails starts to be copied to the reserve of its cluster, which it then holds; a
finished copy moves the vault there with every byte as it was; one that cannot be read any more moves at once with every
granule uncorrectable. A system vault moves alike. The patrol scrub leaves a good granule alone, and marks one that no copy
can repair uncorrectable, its bytes as they were; the highest granule ends a pass.
The model's choices in it: log 19, 88, 94. -/
def Obligations.VaultAndScrubResult : Prop :=
  (∀ (v : BitVec 9) (s : State), v.toNat < 256 →
    let n := v.toNat
    let res := Tab.get 0 s.mem.reserve (n / 16)
    let others (s' : State) : Prop := (∀ w, w ≠ n → s'.vaultSt w = s.vaultSt w) ∧ SameBytes s s' ∧ s'.flt.repairDue = true ∧ s'.tl = s.tl
    ((s.vaultSt n).remap ≠ 1 → res = 0 →
      ∃ s', exec (.vaultRemapCopyDone v 1) s = .next s' ∧ (s'.vaultSt n).remap = 1 ∧ (s'.vaultSt n).phys = (s.vaultSt n).phys ∧
        Tab.get 0 s'.mem.reserve (n / 16) = 1 + n % 16 ∧ others s' ∧ s'.mem.ue = s.mem.ue) ∧
    ((s.vaultSt n).remap ≠ 1 → res ≠ 0 →
      ∃ s', exec (.vaultRemapCopyDone v 1) s = .next s' ∧ s'.flt.fenced = true) ∧
    ((s.vaultSt n).remap = 1 → exec (.vaultRemapCopyDone v 1) s = .next s) ∧
    ((s.vaultSt n).remap = 1 →
      ∃ s', exec (.vaultRemapCopyDone v 0) s = .next s' ∧ (s'.vaultSt n).phys = some 16 ∧ (s'.vaultSt n).remap = 2 ∧
        s'.mem.pv = s.mem.pv ∧ others s' ∧ s'.mem.ue = s.mem.ue) ∧
    ((s.vaultSt n).remap ≠ 1 → exec (.vaultRemapCopyDone v 0) s = .next s) ∧
    ((s.vaultSt n).remap = 1 ∨ res = 0 →
      ∃ s', exec (.vaultRemapCopyDone v 2) s = .next s' ∧ (s'.vaultSt n).phys = some 16 ∧ (s'.vaultSt n).remap = 3 ∧ others s' ∧
        (∀ g, g / 33554432 = n → s'.mem.ue.contains g = true) ∧
        (∀ g, g / 33554432 ≠ n → s'.mem.ue.contains g = s.mem.ue.contains g))) ∧
  (∀ (v : BitVec 9) (s : State) (k : Nat), v.toNat = 272 + k → k < 16 →
    (Tab.get 0 s.mem.sysRemap k ≠ 1 → Tab.get 0 s.mem.reserve k = 0 →
      ∃ s', exec (.vaultRemapCopyDone v 1) s = .next s' ∧ Tab.get 0 s'.mem.sysRemap k = 1 ∧ Tab.get 0 s'.mem.reserve k = 17 ∧
        SameBytes s s' ∧ s'.flt.repairDue = true ∧ s'.tl = s.tl) ∧
    (Tab.get 0 s.mem.sysRemap k = 1 →
      ∃ s', exec (.vaultRemapCopyDone v 0) s = .next s' ∧ Tab.get 0 s'.mem.sysRemap k = 2 ∧ s'.memPos (272 + k) = some (k, 16) ∧
        SameBytes s s' ∧ s'.flt.repairDue = true ∧ s'.tl = s.tl)) ∧
  (∀ (g : Nat) (s : State), g ≠ lastGranule →
    (∀ c p, s.memPos (locVault (64 * g)) = some (c, p) → Tab.get 0 s.mem.reserve c = 0) →
    exec (.patrolScrubVisit g 0) s = .next s ∧
    (∃ s', exec (.patrolScrubVisit g 1) s = .next s' ∧ SameBytes s s' ∧ s'.mem.ue = s.mem.ue ∧ s'.tl = s.tl ∧ s'.regs = s.regs) ∧
    (s.otherCopies (64 * g) = [] →
      ∃ s', exec (.patrolScrubVisit g 2) s = .next s' ∧ SameBytes s s' ∧ s'.mem.ue.contains g = true ∧
        (∀ h, h ≠ g → s'.mem.ue.contains h = s.mem.ue.contains h) ∧ s'.tl = s.tl ∧ s'.regs = s.regs)) ∧
  (∀ (s : State), ∃ s', exec (.patrolScrubVisit lastGranule 0) s = .next s' ∧ Counts s s' [Cnt.scrubPasses] ∧ s'.mem = s.mem ∧
    s'.tl = s.tl ∧ s'.regs = s.regs)

/-- R311, R316: a CODE with both engines busy waits as a job of one unit for each 256 blocks; an engine that ends a unit which is
not the job's last leaves the job one unit fewer; a decode whose source does not begin with the stream's header ends with
CODE_CORRUPT, and the buffer its record would have stored into is UNUSED.
The model's choices in it: log 6, 31. -/
def Obligations.CodeResult : Prop :=
  ∀ (q : BitVec 6) (n : W32) (s : State) (c : Cmd), Runs s q.toNat n 0x08 c →
    let i := codeStream c
    ((∀ j ∈ s.och.jobs, (j.q, j.seq) ≠ (q.toNat, n)) → s.och.eng0 ≠ none → s.och.eng1 ≠ none →
      exec (.code q n) s = .next { s with och := { s.och with
        jobs := s.och.jobs ++ [{ q := q.toNat, seq := n, eng := none, left := ceilDiv (s.ochDesc i).blocks 256 }] } }) ∧
    (∀ (e : BitVec 1) (l r : List OchJob) (j : OchJob), (if e = 0 then s.och.eng0 else s.och.eng1) = some (q.toNat, n) →
      s.och.jobs = l ++ j :: r → j.q = q.toNat → j.seq = n → (∀ k ∈ l ++ r, (k.q, k.seq) ≠ (q.toNat, n)) →
      s.domBad 60 = false → s.memStopped = false →
      (1 < j.left →
        ∃ s', exec (.ochreUnitComplete e noFind) s = .next s' ∧
          s'.och.jobs.map (fun k => (k.q, k.seq, k.left)) =
            l.map (fun k => (k.q, k.seq, k.left)) ++ (q.toNat, n, j.left - 1) :: r.map (fun k => (k.q, k.seq, k.left)) ∧
          s'.host = s.host ∧ s'.mem = s.mem ∧ s'.och.stream = s.och.stream) ∧
      (j.left ≤ 1 → s.codeHeld c = false → s.ochDecode i = true → s.dpm = false → Whole s (addrOp c 0) 128 →
        (s.peek (addrOp c 0) 128).take 64 ≠ streamHeader (s.ochDesc i) → Cmd.full c = false →
        let h := (s.peek (addrOp c 0) 128).drop 64
        let b := bitsAt h 74 4
        let old := (s.ochStream i).bufs
        ∃ s' d, exec (.ochreUnitComplete e noFind) s = .next s' ∧ Ended s s' q.toNat n 0x0B02 d ∧
          s'.och.jobs.map (fun k => (k.q, k.seq)) = (l ++ r).map (fun k => (k.q, k.seq)) ∧ s'.mem = s.mem ∧
          (s'.ochStream i).bufs =
            (if bitsAt h 73 1 = 1 ∧ b < (s.ochDesc i).nbuf then old.set b (0, (old.getD b (0, 0)).2) else old) ∧
          (s'.ochStream i).fnum = (s.ochStream i).fnum ∧
          (∀ k, k ≠ i → s'.ochStream k = s.ochStream k)))

/-! ## Sync commands, ring, collectives, fabric (08; 11; 13 R326, R340 to R349) -/

/-- R343, R347 to R349: a SYNC_SIGNAL to an object of this module adds to it and ends with OK, one to a peer leaves as a SIG packet
and ends when that is acknowledged; the holder of a failed peer's role takes its place, and where nobody holds it the command
ends with PEER_LOST; a SYNC_WAIT ends with OK once its condition holds and with DEP_TIMEOUT after its timeout; a
STEP_EVENT_SET writes its entry where none up to it is due. A home controller that is stopped applies and meets nothing.
The model's choices in it: log 69. -/
def Obligations.SyncCommandResult : Prop :=
  ∀ (q : BitVec 6) (n : W32) (s : State) (c : Cmd),
    let o := Cmd.opnd c 0 14
    let v : W32 := BitVec.ofNat 32 (Cmd.opnd c 32 32)
    let far : Prop := Cmd.full c = true ∧ Cmd.opnd c 76 1 = 1 ∧ s.host.ident ≠ some (BitVec.ofNat 12 (Cmd.opnd c 64 12))
    let peer := s.holderOf (BitVec.ofNat 12 (Cmd.opnd c 64 12))
    let to_ := (if Cmd.full c = true ∧ Cmd.opnd c 64 16 ≠ 0 then Cmd.opnd c 64 16 else c.pos) * 100000
    let met : Prop := s.homeStopped o = false ∧ 0 ≤ (s.obj o - v).toInt
    (Runs s q.toNat n 0x0C c → ¬ far → s.homeStopped o = true → exec (.syncSignal q n) s = .next s) ∧
    (Runs s q.toNat n 0x0C c → (∀ g ∈ s.sync.remote, g.owner ≠ .cmd q.toNat n) → far → s.isFailed peer = true →
      ∃ s', exec (.syncSignal q n) s = .next s' ∧ OnlyEnded s s' q.toNat n 0x0A02 []) ∧
    (Runs s q.toNat n 0x0C c → (∀ g ∈ s.sync.remote, g.owner ≠ .cmd q.toNat n) → far → s.isFailed peer = false →
      s.host.ident = some peer → s.homeStopped o = false →
      ∃ s', exec (.syncSignal q n) s = .next s' ∧ Ended s s' q.toNat n 0 [] ∧ s'.obj o = s.obj o + v ∧
        (∀ k, k ≠ o → s'.obj k = s.obj k) ∧ s'.mem = s.mem ∧ s'.fab = s.fab) ∧
    (Runs s q.toNat n 0x0C c → (∀ g ∈ s.sync.remote, g.owner ≠ .cmd q.toNat n) → ¬ far → s.homeStopped o = false →
      ∃ s', exec (.syncSignal q n) s = .next s' ∧ Ended s s' q.toNat n 0 [] ∧ s'.obj o = s.obj o + v ∧
        (∀ k, k ≠ o → s'.obj k = s.obj k) ∧ s'.mem = s.mem ∧ s'.tl = s.tl ∧ s'.fab = s.fab) ∧
    (Runs s q.toNat n 0x0C c → (∀ g ∈ s.sync.remote, g.owner ≠ .cmd q.toNat n) → far → s.isFailed peer = false →
      s.host.ident ≠ some peer →
      ∃ s' g, exec (.syncSignal q n) s = .next s' ∧ s'.sync.remote = s.sync.remote ++ [g] ∧ g.owner = .cmd q.toNat n ∧
        g.peer = peer ∧ g.obj = o ∧ g.add = v ∧ Posted s s' [(peer, .sig (BitVec.ofNat 14 o) v)] ∧ s'.sync.obj = s.sync.obj ∧
        s'.host = s.host ∧ s'.mem = s.mem) ∧
    (Runs s q.toNat n 0x0D c → met → ∃ s', exec (.syncWait q n) s = .next s' ∧ OnlyEnded s s' q.toNat n 0 []) ∧
    (Runs s q.toNat n 0x0D c → ¬ met → exec (.syncWait q n) s = .next s) ∧
    (Runs s q.toNat n 0x0D c → ¬ met → to_ ≤ s.now - c.runAt →
      ∃ s', exec (.syncWaitCommandTimeout q n) s = .next s' ∧ OnlyEnded s s' q.toNat n 0x0301 []) ∧
    (let i := Cmd.opnd c 96 8
     let act := Cmd.opnd c 104 3
     let rel := Cmd.full c = true ∧ Cmd.opnd c 136 1 = 1
     Runs s q.toNat n 0x0E c → (∀ j, j ≤ i → s.evtDue (s.evt j) = false) → act ≤ 5 → argOk act (Cmd.opnd c 108 16) = true →
      ∃ s', exec (.stepEventSet q n) s = .next s' ∧ Ended s s' q.toNat n 0 [] ∧
        (s'.evt i).w0 = (if rel then BitVec.ofNat 64 (Cmd.opnd c 0 64) + s.stb.step else BitVec.ofNat 64 (Cmd.opnd c 0 64)) ∧
        (s'.evt i).phase = Cmd.opnd c 64 32 ∧ (s'.evt i).action = act ∧ (s'.evt i).armed = decide (act ≠ 0) ∧
        (s'.evt i).rpt = (if Cmd.full c then Cmd.opnd c 124 12 else 0) ∧ (s'.evt i).arg = Cmd.opnd c 108 16 ∧
        (∀ k, k ≠ i → s'.evt k = s.evt k) ∧ s'.mem = s.mem ∧ s'.stb.step = s.stb.step)

/-- R203, R205 to R208, R212, R214: what the rows of a Woad ring do. Hashes go to both neighbours each 1 ms while it forms, and two
equal ones make it ready, a different one an error; a rotation starts on its object with the context's current epoch pinned
and the block count signalled; a block lands in every copy of its pages and is signalled, one without a place lands nowhere; a
credit is granted for a use of the running rotation whose slot is over; the sum of a gradient goes on, unless its third residue
miss gives it up; a rotation that is done ends; a suspended ring whose positions are held again forms anew with its objects at
0, and so does that of a spare which is given its configuration.
The model's choices in it: log 3, 21, 23, 90, 91. -/
def Obligations.RingResult : Prop :=
  ∀ (r : BitVec 2) (s : State),
    let n := r.toNat
    let x := s.ringOf n
    let e := (s.ctx (s.wrCtx n)).epoch
    let others (s' : State) : Prop := (∀ k, k ≠ n → s'.ringOf k = s.ringOf k) ∧ s'.regs = s.regs ∧ s'.host = s.host ∧ s'.tl = s.tl
    let sig (o k : Nat) : Signal := { src := none, obj := s.wrObj n + o, add := BitVec.ofNat 32 k }
    (x.st = 1 ∨ x.st = 2 → (∀ t, x.hashAt = some t → 100000 ≤ s.now - t) →
      ∃ s', exec (.ringHashSend r) s = .next s' ∧ s'.ringOf n = { x with hashAt := some s.now } ∧ others s' ∧ s'.mem = s.mem ∧
        Posted s s' [(s.wrNext n, .ctl (.ringHash r (s.wrHash n))), (s.wrPrev n, .ctl (.ringHash r (s.wrHash n)))]) ∧
    (∀ (src : BitVec 12) (h : W64), x.st = 1 → x.err ≠ 1 → src = s.wrNext n ∨ src = s.wrPrev n →
      let ph := if src = s.wrPrev n then some h else x.prevHash
      let nh := if src = s.wrNext n then some h else x.nextHash
      (h ≠ s.wrHash n → ∃ s', exec (.ringHashReceive r src h) s = .next s' ∧ s'.ringOf n = { x with err := 1 } ∧
        (∀ k, k ≠ n → s'.ringOf k = s.ringOf k) ∧ s'.regs = s.regs ∧ s'.mem = s.mem ∧ s'.tl = s.tl) ∧
      (h = s.wrHash n → ∃ s', exec (.ringHashReceive r src h) s = .next s' ∧ others s' ∧ s'.mem = s.mem ∧
        s'.ringOf n = { x with prevHash := ph, nextHash := nh, st := if ph = some h ∧ nh = some h then 2 else 1 })) ∧
    (x.st = 2 → x.on = false → x.badEpoch ≠ some e → s.homeStopped (s.wrObj n) = false →
      0 ≤ (s.obj (s.wrObj n) - BitVec.ofNat 32 ((x.rot.toNat + 1) * s.wrNsig n)).toInt →
      (s.ringPages n e = true → s.mem.ue = [] →
        ∃ s', exec (.rotationStart r noFind) s = .next s' ∧ others s' ∧ (s'.ringOf n).on = true ∧ (s'.ringOf n).rot = x.rot ∧
          (s'.ringOf n).gsent = 0 ∧ (s'.ringOf n).gin = 0 ∧ (s'.ringOf n).cw.got = 0 ∧ (s'.ringOf n).ccw.got = 0 ∧
          s'.cx.pins = s.cx.pins ++ [{ ctx := s.wrCtx n, epoch := e, holder := .ring n }] ∧ s'.cx.ctx = s.cx.ctx ∧
          s'.sync.sigs = s.sync.sigs ++ [sig 4 (s.wrBps n)] ∧ (s.wrGrad n = false → s'.mem = s.mem)) ∧
      (s.ringPages n e = false →
        ∃ s', exec (.rotationStart r noFind) s = .next s' ∧ s' = { s with ring := s'.ring } ∧ others s' ∧
          s'.ringOf n = { x with err := 3, badEpoch := some e })) ∧
    (∀ (ccw : Bool) (data : List Byte) (pin : Pin),
      let c := s.wrCtx n
      let d := x.dir ccw
      let k := s.wrSlot n ccw (d.got / s.wrBps n + 1)
      let pb := s.wrPageBytes n
      let cs : List (Nat × Nat) := (List.range (s.wrBlkpg n)).flatMap (fun i =>
        (s.pageCopies c (s.pageEntry c pin.epoch (k * s.wrPps n + d.got % s.wrBps n * s.wrBlkpg n + i))).map (fun l => (l, i)))
      s.ringPin n = some pin → x.on = true → x.st = 2 → d.got < s.wrSteps n ccw * s.wrBps n → s.wrGrad n = false → s.mem.ue = [] →
      k * s.wrPps n + (d.got % s.wrBps n + 1) * s.wrBlkpg n ≤ 16384 → data.length = s.wrBlkpg n * pb → cs.Pairwise (fun u v => u.1 + pb ≤ v.1 ∨ v.1 + pb ≤ u.1) →
      (∀ u ∈ cs, ∀ j, j < 524288 → ∀ t, s.addrLoc (s.ctxTable c + j) = some t → t < u.1 ∨ u.1 + pb ≤ t) →
      ∃ s', exec (.ringBlockLanded r ccw data noFind) s = .next s' ∧ others s' ∧ ((s'.ringOf n).dir ccw).got = d.got + 1 ∧
        s'.sync.sigs = s.sync.sigs ++ [sig (4 + 4 * k) 1] ∧ s'.cx = s.cx ∧
        (∀ u ∈ cs, ∀ j, j < pb → data[pb * u.2 + j]? = some (s'.memByte (u.1 + j))) ∧
        (∀ l, (∀ u ∈ cs, l < u.1 ∨ u.1 + pb ≤ l) → s'.memByte l = s.memByte l)) ∧
    (∀ (ccw : Bool) (data : List Byte), s.ringTakes n ccw = false → exec (.ringBlockLanded r ccw data noFind) s = .next s) ∧
    (∀ (ccw : Bool),
      let d := x.dir ccw
      let k := s.wrSteps n ccw
      x.st = 2 → x.on = true → d.grant < (x.rot.toNat + 1) * k → s.slotOver n ccw (d.grant - x.rot.toNat * k + 1) = true →
      ∃ s', exec (.ringCreditGrant r ccw) s = .next s' ∧ others s' ∧ s'.ringOf n = x.setDir ccw { d with grant := d.grant + 1 } ∧
        Posted s s' [(if ccw then s.wrNext n else s.wrPrev n, .ctl (.ringCredit r ccw))] ∧ s'.mem = s.mem ∧ s'.sync = s.sync) ∧
    (let st := x.gsent
     let k := s.wrSlot n false st
     let uses := if st = 0 then x.rot.toNat + 1 else s.wrUses n false x.rot.toNat st + 1
     let inn := if st = 0 then List.replicate (s.wrRegion n) 0 else s.peek (s.wrIn n k) (s.wrRegion n)
     x.st = 2 → x.on = true → s.wrGrad n = true → st < s.wrSize n → st ≤ x.gin →
      st + 1 = s.wrSize n ∨ x.rot.toNat * s.wrSteps n false + st < x.cw.credit →
      s.homeStopped (s.wrObj n + 6 + 4 * k) = false →
      0 ≤ (s.obj (s.wrObj n + 6 + 4 * k) - BitVec.ofNat 32 (uses * s.wrNsig n)).toInt →
      (Whole s (s.wrSum n k) (s.wrRegion n) → (st ≠ 0 → Whole s (s.wrIn n k) (s.wrRegion n)) →
        let out := (ringSum s.satPolicy (s.peek (s.wrSum n k) (s.wrRegion n)) inn).1
        ∀ u : BitVec 2, ∃ s', exec (.ringGradientForward r noFind u 0) s = .next s' ∧ others s' ∧
          s'.ringOf n = { x with gsent := st + 1 } ∧
          Posted s s' ((List.range (bulkParts out.length)).map (fun i => (s.wrNext n, .bulk (.ringPartial r out) i))) ∧
          s'.mem = s.mem ∧ s'.sync = s.sync) ∧
      (∀ u : BitVec 2, ∃ s', exec (.ringGradientForward r noFind u 3) s = .next s' ∧ s'.ring = s.ring ∧ s'.fab = s.fab ∧
        s'.mem = s.mem ∧ s'.sync = s.sync)) ∧
    (x.st = 2 → x.on = true → s.wrGrad n = false ∨ (s.wrSize n ≤ x.gsent ∧ s.wrSize n ≤ x.gin) → s.ringInFlight n = false →
      (∀ ccw, s.wrSteps n ccw * s.wrBps n ≤ (x.dir ccw).got ∧ s.wrSteps n ccw * s.wrBps n ≤ (x.dir ccw).fwd) →
      ∃ s' l, exec (.rotationEnd r) s = .next s' ∧ others s' ∧ s'.ringOf n = { x with on := false, rot := x.rot + 1 } ∧
        s'.sync.sigs = s.sync.sigs ++ l ++ [sig 1 1] ∧ (∀ p, s.ringPin n = some p → s'.cx.pins = s.cx.pins.erase p) ∧ s'.mem = s.mem) ∧
    (x.st = 3 → (∀ p, p < s.wrSize n → s.holderOf (s.wrRole n p) ∉ s.flt.failed) →
      ∀ cfg gbuf, ∃ s', exec (.ringReform r cfg gbuf) s = .next s' ∧ others s' ∧ s'.ringOf n = { st := 1 } ∧
        (∀ i, i < 64 → s'.obj (s.wrObj n + i) = 0) ∧
        (∀ o, o < s.wrObj n ∨ s.wrObj n + 64 ≤ o → s'.obj o = s.obj o) ∧ s'.mem = s.mem) ∧
    (∀ cfg gbuf : W64, x.st = 0 → s.myRole ≠ s.ownIdent → bit cfg 0 = true →
      let u := (s.setReg (0x80000 + 64 * n) (cfg &&& wrCfgMask cfg)).setReg (0x80008 + 64 * n) (gbuf &&& 0x7FFFFFFFFF#64)
      u.ringOk n = true → u.ringWhole n = true →
      ∃ s', exec (.ringReform r cfg gbuf) s = .next s' ∧ s'.regs = u.regs ∧ s'.ringOf n = { st := 1 } ∧
        (∀ k, k ≠ n → s'.ringOf k = s.ringOf k) ∧ (∀ i, i < 64 → s'.obj (u.wrObj n + i) = 0) ∧
        (∀ o, o < u.wrObj n ∨ u.wrObj n + 64 ≤ o → s'.obj o = s.obj o) ∧ s'.mem = s.mem ∧ s'.host = s.host ∧ s'.tl = s.tl)

/-- R280 to R283, R292 to R295, 10 R246: what the rows of collectives do. A dispatched COLL waits for its turn, or withdraws where
its destination is committed; it becomes current with its own descriptor and DHASH shown to every member, and what its
backups have ready announced; a descriptor that completes the handshake and differs ends it with COLL_MISMATCH; a wanted
finished piece lands in the destination, and a third residue miss of a piece ends the collective with COLL_ABORT; a timeout, an
abort or a message of one ends it with the status, rank and cause, and one for a collective still to come is kept; after a
takeover the collective goes on with the spare.
The model's choices in it: log 21, 24. -/
def Obligations.CollectiveResult : Prop :=
  (∀ (q : BitVec 6) (n : W32) (s : State) (c : Cmd), Runs s q.toNat n 0x04 c → (∀ r ∈ s.coll.ready, r.2.2 ≠ (q.toNat, n)) →
    (∀ x, s.curColl (collGrp c) = some x → (x.q, x.cmd) ≠ (q.toNat, n)) →
    (collStep c = true ∨ s.refAny (s.collDstRange c).1 (s.collDstRange c).2 s.inCommitted = false →
      exec (.coll q n) s = .next { s with coll := { s.coll with
        ready := s.coll.ready ++ [(collGrp c, BitVec.ofNat 32 c.pos, q.toNat, n)] } }) ∧
    (let g := collGrp c
     let k : W32 := BitVec.ofNat 32 c.pos
     collStep c = false → s.refAny (s.collDstRange c).1 (s.collDstRange c).2 s.inCommitted = true →
      ∃ s', exec (.coll q n) s = .next s' ∧ Ended s s' q.toNat n 0x0202 (collResult k g 0 0 0 0 {}) ∧ s'.mem = s.mem ∧
        Posted s s' (((s.holders g).filter (fun m => some m != s.host.ident)).map
          (fun m => (m, .ctl (.collAbort (BitVec.ofNat 8 g) k 2 (s.grpRank g))))))) ∧
  (∀ (g : BitVec 8) (s : State) (q : Nat) (n : W32) (c : Cmd) (l : List (Nat × W32 × Nat × W32)),
    let t := Tab.get 0 s.coll.turn g.toNat
    let d := s.collDesc c
    let lead := s.rankId g.toNat (s.leadRank g.toNat)
    let told : List (BitVec 12 × FabBody) :=
      if s.leadRank g.toNat = s.grpRank g.toNat then []
      else (s.bkMine d).map (fun m => (lead, .ctl (.backupReady (BitVec.ofNat 4 m.1) m.2)))
    s.curColl g.toNat = none → s.coll.ready = (g.toNat, t, q, n) :: l → s.findCmd q n = some c → s.coll.early = [] → s.coll.box = [] →
    2 ≤ (s.members g.toNat).length → s.collBarred c = false →
    ∃ s', exec (.collBecomesCurrent g) s = .next s' ∧ s'.coll.ready = l ∧
      s'.curColl g.toNat = some { q := q, cmd := n, seq := t, desc := d, since := s.now, hands := [(s.grpRank g.toNat, collHash d, d)] } ∧
      (∀ k, k ≠ g.toNat → s'.curColl k = s.curColl k) ∧
      Posted s s' (told ++ ((s.holders g.toNat).filter (fun m => some m != s.host.ident)).map
        (fun m => (m, .ctl (.collHand g t (collHash d) d)))) ∧
      s'.mem = s.mem ∧ s'.host = s.host) ∧
  (∀ (g : BitVec 8) (s : State) (x : Coll) (c : Cmd),
    let k := g.toNat
    let p := (s.members k).length
    let alg := if x.phase = .hand then 0 else x.desc.alg
    s.curColl k = some x → s.findCmd x.q x.cmd = some c →
    (∀ (src : BitVec 12) (dh : W64) (d : CollDesc) (r : Nat), x.phase = .hand → x.susp = false → s.ranksOf k src = [r] →
      (∀ h ∈ x.hands, h.1 ≠ r) →
      let hs := x.hands ++ [(r, dh, d)]
      (hs.length < p → exec (.collHandshakeReceive g x.seq src dh d) s = .next (s.setColl k (some { x with hands := hs }))) ∧
      (∀ rh ref f, p ≤ hs.length → r < p → hs.find? (fun h => h.1 == 0) = some (0, rh, ref) →
        (∀ h ∈ hs, h.1 ≠ r → mismatch ref h.2.2 (decide (h.1 ≠ 0)) = none ∧ h.2.1 = rh) →
        mismatch ref d (decide (r ≠ 0)) = some f ∨ (mismatch ref d (decide (r ≠ 0)) = none ∧ dh ≠ rh ∧ f = 0) →
        ∃ s', exec (.collHandshakeReceive g x.seq src dh d) s = .next s' ∧ s'.curColl k = none ∧ s'.mem = s.mem ∧
          Ended s s' x.q x.cmd 0x0401 (collResult x.seq k r f 0 0 x.fl))) ∧
    (∀ (src : BitVec 12) (rank off : Nat) (flags : BitVec 5) (sat : W32) (data : List Byte) (w : Want),
      let a := addrOp c 64 + off
      x.phase = .data → x.susp = false → x.land = [] → opReduces x.desc.op = false → s.dpm = false → s.collBarred c = false →
      Whole s a data.length →
      x.want.find? (fun v => v.kind == .fin && v.rank == rank && v.off == off && v.len == data.length) = some w →
      ∃ s', exec (.collPieceReceive g x.seq src .fin rank off flags sat data noFind 0 0) s = .next s' ∧ Holds s' a data ∧
        BytesOutside s s' a data.length ∧
        (∀ y, s'.curColl k = some y → y.want = x.want.erase w) ∧ s'.regs = s.regs ∧ s'.tl = s.tl) ∧
    (∀ (src : BitVec 12) (kind : PieceKind) (rank off : Nat) (flags : BitVec 5) (sat : W32) (data : List Byte) (u : BitVec 2),
      ∃ s', exec (.collPieceReceive g x.seq src kind rank off flags sat data noFind u 3) s = .next s' ∧ s'.curColl k = none ∧
        Ended s s' x.q x.cmd 0x0403 (collResult x.seq k (s.grpRank k) 0 3 alg x.fl)) ∧
    (x.desc.step = false → s.collTo c * 100000 ≤ s.now - x.since →
      ∃ s', exec (.collTimeoutExpiry g) s = .next s' ∧ s'.curColl k = none ∧ (x.phase = .hand → s'.mem = s.mem) ∧
        Ended s s' x.q x.cmd 0x0402 (collResult x.seq k (s.collLack k x) 0 0 alg x.fl)) ∧
    (∀ rank, ∃ s', exec (.collTimeoutMessage g x.seq rank) s = .next s' ∧ s'.curColl k = none ∧ (x.phase = .hand → s'.mem = s.mem) ∧
      Ended s s' x.q x.cmd 0x0402 (collResult x.seq k rank.toNat 0 0 alg x.fl)) ∧
    (∀ rank cause, ∃ s', exec (.collAbortMessage g x.seq cause rank) s = .next s' ∧ s'.curColl k = none ∧
      (x.phase = .hand → s'.mem = s.mem) ∧ Ended s s' x.q x.cmd 0x0403 (collResult x.seq k rank.toNat 0 cause.toNat alg x.fl)) ∧
    (∀ n rank cause, n ≠ x.seq → (n - x.seq).toNat < 2 ^ 31 →
      exec (.collAbortMessage g n cause rank) s = .next { s with coll := { s.coll with
        early := s.coll.early ++ [{ g := k, seq := n, st := 0x0403, rank := rank.toNat, cause := cause.toNat }] } }) ∧
    (∀ (pk : Packet) (w : W64), Writes s pk 0xB0008 w → fld w 9 55 = 0 → fld w 0 8 = k → bit w 8 = true →
      ∃ s', exec (.collAbort pk) s = .next s' ∧ WriteAnswered s s' pk 0 ∧ s'.curColl k = none ∧
        Ended s s' x.q x.cmd 0x0403 (collResult x.seq k (s.grpRank k) 0 1 alg x.fl)) ∧
    (∀ r : BitVec 12, x.phase = .hand → x.hands.length < p → r.toNat < p → s.rankId k r.toNat ∉ s.flt.failed →
      s.rankId k r.toNat ≠ (s.members k).getD r.toNat 0 → s.rankId k r.toNat ≠ s.ownIdent → x.norms = [] →
      ∃ s' y, exec (.collResume g r) s = .next s' ∧ s'.curColl k = some y ∧ y.hands = x.hands ∧ y.susp = false ∧
        y.since = (if x.desc.step then s.now else x.since) ∧ y.credit = x.credit.filter (fun j => j != r.toNat) ∧
        y.out = x.out.filter (fun o => o.1 != r.toNat) ++
          (((x.sent ++ x.out).filter (x.forSpare (s.collEnv k x) r.toNat)).map (fun o => (r.toNat, o.2))).eraseDups ∧
        Posted s s' [(s.rankId k r.toNat, .ctl (.collHand g x.seq (collHash x.desc) x.desc))] ∧ s'.mem = s.mem ∧ s'.host = s.host)) ∧
  (∀ (s : State) (pk : Packet) (w : W64), Writes s pk 0xB0008 w → fld w 9 55 ≠ 0 →
    ∃ s', exec (.collAbort pk) s = .next s' ∧ OnlyAnswered s s' pk 0x3 0x0202 0 [])

/-- R326, R346, R348: a numbered packet with the number its lane expects takes effect once and is acknowledged: DATA writes its
payload at its address, SIG adds to its object, CTL hands the message it completes over. A packet that came before is
acknowledged without effect, a damaged one refused, an early one left to be sent again; DATA for a range still in use waits, and
for no range of memory is acknowledged with nothing written. An acknowledgement releases its packet and ends the
command whose signal it carried; a refusal, or 20 µs of silence, has packets sent again; 10 ms of silence gives the
destination up and tells the master.
The model's choices in it: log 18, 21, 26, 84, 92. -/
def Obligations.FabricPacketResult : Prop :=
  (∀ (p : BitVec 4) (sl : Bool) (b : List Byte) (s : State),
    let k := 2 * (Fab.src b).toNat + b2n sl
    let x := Tab.get 0 s.fab.expect k
    let a := (Fab.arg b).toNat
    let still (s' : State) : Prop := SameBytes s s' ∧ s'.sync = s.sync ∧ s'.host = s.host ∧ s'.tl = s.tl ∧ s'.regs = s.regs
    (Arrives s p sl b 0 → Fab.eseq b = x → s.dpm = false → Whole s a (Fab.len b) → s.writeHeld (.addr a) (Fab.len b) = false →
      ∃ s', exec (.fabData p sl b) s = .next s' ∧ Holds s' a (Fab.payload b) ∧ BytesOutside s s' a (Fab.len b) ∧
        Tab.get 0 s'.fab.expect k = x + 1 ∧ Owes s s' b sl false ∧ s'.sync = s.sync ∧ s'.host = s.host ∧ s'.tl = s.tl) ∧
    (Arrives s p sl b 0 → s.fabFits b = true → s.writeHeld (s.refOf (Fab.arg b)) (Fab.len b) = true →
      exec (.fabData p sl b) s = .next s) ∧
    (Arrives s p sl b 0 → Fab.eseq b = x → s.fabFits b = false →
      ∃ s', exec (.fabData p sl b) s = .next s' ∧ still s' ∧ Tab.get 0 s'.fab.expect k = x + 1 ∧ Owes s s' b sl false) ∧
    (Arrives s p sl b 0 → s.writeHeld (s.refOf (Fab.arg b)) (Fab.len b) = false → (Fab.eseq b - x).toInt < 0 →
      ∃ s', exec (.fabData p sl b) s = .next s' ∧ still s' ∧ s'.fab.expect = s.fab.expect ∧ Owes s s' b sl false) ∧
    (Arrives s p sl b 0 → s.writeHeld (s.refOf (Fab.arg b)) (Fab.len b) = false → 0 < (Fab.eseq b - x).toInt →
      ∃ s', exec (.fabData p sl b) s = .next s' ∧ still s' ∧ s'.fab = s.fab) ∧
    (Arrives s p sl b 1 → Fab.eseq b = x → s.homeStopped (fld (Fab.arg b) 0 14) = false →
      ∃ s', exec (.fabSig p sl b) s = .next s' ∧
        s'.obj (fld (Fab.arg b) 0 14) = s.obj (fld (Fab.arg b) 0 14) + BitVec.ofNat 32 (fld (Fab.arg b) 32 32) ∧
        (∀ o, o ≠ fld (Fab.arg b) 0 14 → s'.obj o = s.obj o) ∧ Tab.get 0 s'.fab.expect k = x + 1 ∧ Owes s s' b sl false ∧
        s'.mem = s.mem ∧ s'.host = s.host) ∧
    (Arrives s p sl b 1 → (Fab.eseq b - x).toInt < 0 →
      ∃ s', exec (.fabSig p sl b) s = .next s' ∧ still s' ∧ s'.fab.expect = s.fab.expect ∧ Owes s s' b sl false) ∧
    (s.fabUp p.toNat = true → s.portStopped (.fab p) = false → s.flt.fenced = false → s.host.ident = some (Fab.dst b) →
      Fab.ty b = 1 → Fab.good sl b = false →
      ∃ s', exec (.fabSig p sl b) s = .next s' ∧ s'.mem = s.mem ∧ s'.sync = s.sync ∧ s'.host.queues = s.host.queues ∧ s'.tl = s.tl ∧
        s'.regs = s.regs ∧ s'.fab.expect = s.fab.expect ∧ Owes s s' b sl true) ∧
    (Arrives s p sl b 2 → (∀ g, s.curColl g = none) →
      ∃ s', exec (.fabAck p sl b) s = .next s' ∧ s'.mem = s.mem ∧
        s'.fab.sent = s.fab.sent.filter (fun f => !(f.dst == Fab.src b && FabBody.lane f.body == b2n sl && f.eseq == Fab.eseq b)) ∧
        (∀ q n g, sl = true → s.sync.remote.find? (fun h => h.peer == Fab.src b && h.eseq == Fab.eseq b) = some g →
          g.owner = .cmd q n → s.isRunning q n = true → Ended s s' q n 0 [])) ∧
    (Arrives s p sl b 3 →
      ∃ s', exec (.fabNak p sl b) s = .next s' ∧ still s' ∧
        s'.fab = { s.fab with sent := s.fab.sent.map (fun f =>
          if f.dst = Fab.src b ∧ FabBody.lane f.body = b2n sl ∧ f.eseq = Fab.eseq b then { f with due := true } else f) })) ∧
  (∀ (p : BitVec 4) (sl : Bool) (b : List Byte) (f : MemFind) (s : State),
    let k := 2 * (Fab.src b).toNat + b2n sl
    let e := Fab.eseq b
    Arrives s p sl b 4 →
    (∀ m, s.ringHolds m = true → exec (.fabCtl p sl b (some m) f) s = .next s) ∧
    (Tab.get 0 s.fab.expect k = e →
      (∃ s', exec (.fabCtl p sl b none f) s = .next s' ∧ Tab.get 0 s'.fab.expect k = e + 1 ∧ Owes s s' b sl false ∧ s'.mem = s.mem ∧
        s'.host = s.host ∧ s'.tl = s.tl ∧ s'.sync = s.sync) ∧
      (∀ m, s.ringHolds m = false →
        ∃ s', exec (.fabCtl p sl b (some m) f) s = .next s' ∧ Tab.get 0 s'.fab.expect k = e + 1 ∧
          s'.fab.acks.getLast? = some (Fab.src b, b2n sl, false, e)) ∧
      (∀ n st eff, (n, st, eff) ∉ s.stb.changes →
        ∃ s', exec (.fabCtl p sl b (some (.stepChange n st eff)) noFind) s = .next s' ∧
          s'.stb = { s.stb with changes := s.stb.changes ++ [(n, st, eff)] } ∧ s'.mem = s.mem ∧ s'.tl = s.tl ∧ s'.host = s.host))) ∧
  (∀ s : State,
    exec .fabResendTimer s = .next { s with fab := { s.fab with
      sent := s.fab.sent.map (fun f => if 2000 ≤ s.now - f.last then { f with due := true } else f) } } ∧
    (∀ f l, s.fab.sent = f :: l → 1000000 ≤ s.now - f.first → s.isMaster = false →
      ∃ s' m, exec .fabUnreachableTimeout s = .next s' ∧ s'.fab.sent = l.filter (fun g => g.dst != f.dst) ++ [m] ∧
        m.dst = s.master ∧ m.body = .ctl (.declare f.dst) ∧ f.dst ∈ s'.fab.lost ∧ s'.mem = s.mem ∧ s'.host = s.host))

/-! ## The training step (10) and the step base (13 R330 to R345) -/

/-- R266, R267, R269: a DIGEST with NOCMP answers with the digest; one to be compared is published and waits; a replica's
digest is kept once; after KTO the majority of what was published decides, OK where every digest agrees and DIGEST_SPLIT
where none has a majority. A CHECKPOINT writes its record of header, weights and optimiser state and nothing else.
The model's choices in it: log 21, 55, 57. -/
def Obligations.DigestAndCheckpointResult : Prop :=
  (∀ (q : BitVec 6) (n : W32) (s : State) (c : Cmd),
    let range : Bool := Cmd.full c && Cmd.opnd c 1 1 == 1
    let r := if range then s.refOf (BitVec.ofNat 64 (Cmd.opnd c 64 64)) else s.wbuf c.ver
    let len := if range then Cmd.opnd c 128 32 * 4096 else s.wlen
    let d := (s.digestRange r len).2
    Runs s q.toNat n 0x09 c → s.memStopped = false → (∀ x ∈ s.trn.cmps, x.2.1 ≠ some (q.toNat, n)) →
    (∀ l ∈ s.granLocs r len, s.isUe l = false) →
    (Cmd.full c = true ∧ Cmd.opnd c 0 1 = 1 →
      ∃ s', exec (.digest q n noFind) s = .next s' ∧ Ended s s' q.toNat n 0 (digestData d c.ver 0 0 0) ∧
        s'.trn = { s.trn with dig := d } ∧ SameBytes s s' ∧ s'.tl = s.tl ∧ s'.fab = s.fab) ∧
    (¬ (Cmd.full c = true ∧ Cmd.opnd c 0 1 = 1) →
      (∃ m ∈ s.holders s.rgrp, m ∉ s.flt.failed ∧ m ≠ s.ownIdent ∧ ∀ p ∈ s.trn.pubs, (p.1, p.2.1) ≠ (c.ver, m)) →
      ∃ s', exec (.digest q n noFind) s = .next s' ∧ SameBytes s s' ∧ s'.host = s.host ∧
        s'.trn.cmps = s.trn.cmps ++ [(c.ver, some (q.toNat, n), s.now, d)] ∧
        s'.trn.pubs = s.trn.pubs ++ [(c.ver, s.ownIdent, d)] ∧
        Posted s s' (((s.holders s.rgrp).filter (fun m => some m != s.host.ident)).map (fun m => (m, .ctl (.digest c.ver d)))))) ∧
  (∀ (src : BitVec 12) (ver : W64) (lanes : BitVec 256) (s : State),
    ((∃ p ∈ s.trn.pubs, (p.1, p.2.1) = (ver, src)) → exec (.digestPublishReceive src ver lanes) s = .next s) ∧
    ((∀ p ∈ s.trn.pubs, (p.1, p.2.1) ≠ (ver, src)) →
      (∃ m ∈ s.holders s.rgrp, m ∉ s.flt.failed ∧ m ≠ src ∧ ∀ p ∈ s.trn.pubs, (p.1, p.2.1) ≠ (ver, m)) →
      exec (.digestPublishReceive src ver lanes) s = .next { s with trn := { s.trn with pubs := s.trn.pubs ++ [(ver, src, lanes)] } })) ∧
  (∀ (s : State) (ver : W64) (q : Nat) (n : W32) (t : Nat) (mine : BitVec 256) (l : List (W64 × Option (Nat × W32) × Nat × BitVec 256)),
    let ps := (s.trn.pubs.filter (fun p => p.1 == ver)).filter (fun p => (s.holders s.rgrp).contains p.2.1)
    s.trn.cmps = (ver, some (q, n), t, mine) :: l → s.kto * 100000 ≤ s.now - t → (s.findCmd q n).isSome = true → ps ≠ [] →
    ((∀ p ∈ ps, p.2.2 = mine) →
      ∃ s', exec .digestPublishTimeout s = .next s' ∧ Ended s s' q n 0 (digestData mine ver ps.length ps.length 0) ∧
        s'.trn.st = s.trn.st ∧ s'.trn.cmps = l.filter (fun c => !(c.1 == ver && c.2.1 == some (q, n))) ∧ s'.mem = s.mem) ∧
    ((∀ p ∈ ps, 2 * (ps.filter (fun o => o.2.2 == p.2.2)).length ≤ ps.length) →
      ∃ s', exec .digestPublishTimeout s = .next s' ∧ Ended s s' q n 0x0703 (digestData mine ver ps.length 0 0) ∧
        s'.trn.st = s.trn.st ∧ s'.mem = s.mem)) ∧
  (∀ (q : BitVec 6) (n : W32) (s : State) (c : Cmd),
    let full := Cmd.full c
    let pw := !full || Cmd.opnd c 64 1 == 1
    let po := !full || Cmd.opnd c 65 1 == 1
    let psh := full && Cmd.opnd c 66 1 == 1
    let wn := if pw then (if psh then s.shlen else s.wlen) else 0
    let on := if po then s.olen else 0
    let wa := (s.reg (if bit c.ver 0 then 0xA0048 else 0xA0040)).toNat + (if psh then s.shoff else 0)
    let oa := (s.reg 0xA0058).toNat
    let a := addrOp c 0
    let w := s.peek wa wn
    let o := s.peek oa on
    let h := toBytesLE 4096 (c.ver.toNat + ((s.lsLog2 + 256) % 256).toNat * 2 ^ 64 + (b2n pw + 2 * b2n po + 4 * b2n psh) * 2 ^ 72 +
      wn / 4096 * 2 ^ 128 + on / 4096 * 2 ^ 160 + (crc32c w).toNat * 2 ^ 192 + (crc32c o).toNat * 2 ^ 224 + s.shoff / 4096 * 2 ^ 256)
    Runs s q.toNat n 0x0B c → s.memStopped = false → s.dpm = false → Whole s wa wn → Whole s oa on → Whole s a (4096 + wn + on) →
    ∃ s', exec (.checkpoint q n noFind) s = .next s' ∧ Ended s s' q.toNat n 0 (h.take 64) ∧ Holds s' a (h ++ w ++ o) ∧
      BytesOutside s s' a (4096 + wn + on) ∧ s'.regs = s.regs ∧ s'.tl = s.tl)

/-- R257 to R262: the commit barrier. A COMMIT of the next version enters it, one for whose version an outcome is recorded ends with
that, and any other is refused and tells the leader; a member that is ready sends READY, one with a cause ABANDON, once; the leader that holds the last READY decides FLIP
at least 2,000 ticks ahead and tells every member, and after its timeout decides ROLLBACK; a member records a FLIP, and at the target
the version is set, the window starts and the COMMIT ends with OK.
The model's choices in it: log 6, 56. How far beyond 2,000 ticks the target lies is a free constant. -/
def Obligations.CommitBarrierResult : Prop :=
  (∀ (q : BitVec 6) (n : W32) (s : State) (c : Cmd),
    let ver : W64 := BitVec.ofNat 64 (Cmd.opnd c 0 64)
    Runs s q.toNat n 0x0A c → (∀ v, s.trn.cmt ≠ some (q.toNat, n, v)) →
    (ver = s.trnVer + 1 → s.trn.cmt = none → s.trn.recorded = none →
      exec (.commit q n) s = .next { s with trn := { s.trn with cmt := some (q.toNat, n, ver) } }) ∧
    (∀ k id, s.trn.recorded = some (ver, .abandon k id) →
      ∃ s', exec (.commit q n) s = .next s' ∧ Ended s s' q.toNat n (if k = 4 then 0x0701 else 0x0702) (s.cmtData k id) ∧
        s'.trn = { s.trn with recorded := none } ∧ s'.mem = s.mem ∧ s'.fab = s.fab) ∧
    (s.trn.recorded = some (ver, .flip) →
      ∃ s', exec (.commit q n) s = .next s' ∧ Ended s s' q.toNat n 0 (s.cmtData 0 0) ∧
        s'.trn = { s.trn with recorded := none } ∧ s'.mem = s.mem ∧ s'.fab = s.fab) ∧
    ((∃ v d, s.trn.recorded = some (v, d) ∧ v ≠ ver) ∨ (s.trn.recorded = none ∧ (ver ≠ s.trnVer + 1 ∨ s.trn.cmt ≠ none)) →
      (s.trn.sent = true → ∃ s', exec (.commit q n) s = .next s' ∧ OnlyEnded s s' q.toNat n 0x0202 []) ∧
      (s.trn.sent = false → s.isLeader = false →
        ∃ s', exec (.commit q n) s = .next s' ∧ Ended s s' q.toNat n 0x0202 [] ∧ s'.trn = { s.trn with sent := true } ∧
          Posted s s' [(s.leader, .ctl (.abandon (s.trnVer + 1) 5))] ∧ s'.mem = s.mem ∧ s'.tl = s.tl))) ∧
  (∀ (s : State), s.trnOn = true → s.trn.st ≠ 5 → s.trn.sent = false → s.isLeader = false →
    (∀ k, s.abandonCause = some k →
      ∃ s', exec .commitReadySend s = .next s' ∧ s'.trn = { s.trn with sent := true } ∧
        Posted s s' [(s.leader, .ctl (.abandon (s.trnVer + 1) k))] ∧ s'.mem = s.mem ∧ s'.host = s.host) ∧
    (∀ (q : Nat) (n : W32) (ver : W64) (c : Cmd), s.trn.cmt = some (q, n, ver) → s.findCmd q n = some c → s.trn.winCheck = false →
      s.trn.late = false → s.trn.skip = false → s.trn.st = 2 → s.stepCleared = true → s.trn.mirrorBusy = false →
      s.trn.gradIn = true → s.rsyncMet c = true →
      ∃ s', exec .commitReadySend s = .next s' ∧ s'.trn = { s.trn with sent := true, st := 3 } ∧
        Posted s s' [(s.leader, .ctl (.ready ver))] ∧ s'.mem = s.mem ∧ s'.host = s.host)) ∧
  (∀ (src : BitVec 12) (s : State), s.trnOn = true → s.trn.decision = none → s.trn.st ≠ 0 → s.trn.st ≠ 5 →
    let v := s.trnVer + 1
    let target := s.stb.tick + 2000 + Config.flipLead.setWidth 64
    let l := if s.trn.readies.contains src then s.trn.readies else s.trn.readies ++ [src]
    (s.isLeader = true → (∃ d ∈ s.holders s.cgrp, d ∉ l) →
      exec (.barrierMessageReceive src (.ready v)) s = .next { s with trn := { s.trn with readies := l } }) ∧
    (s.isLeader = true → (∀ d ∈ s.holders s.cgrp, d ∈ l) → s.isNews target = true →
      ∃ s', exec (.barrierMessageReceive src (.ready v)) s = .next s' ∧ s'.mem = s.mem ∧ s'.host = s.host ∧
        s'.trn = { s.trn with readies := l, told := some (v, .flip, target), decision := some (v, .flip, target) } ∧
        Posted s s' (((s.holders s.cgrp).filter (fun m => some m != s.host.ident)).map
          (fun m => (m, .ctl (.decision v .flip target))))) ∧
    (∀ target, s.isLeader = false → s.isNews target = true →
      exec (.barrierMessageReceive src (.decision v .flip target)) s =
        .next { s with trn := { s.trn with told := some (v, .flip, target), decision := some (v, .flip, target) } }) ∧
    (∀ target d, s.isLeader = false → s.isNews target = false → exec (.barrierMessageReceive src (.decision v d target)) s = .next s)) ∧
  (∀ (s : State) (q : Nat) (n : W32) (ver : W64) (c : Cmd), s.trn.cmt = some (q, n, ver) → s.findCmd q n = some c → RecordPlain s →
    (s.isLeader = true → s.trn.decision = none → s.trn.st ≠ 0 → s.trn.st ≠ 5 → s.cmtTo c * 100000 ≤ s.now - c.runAt →
      s.isNews (s.stb.tick + 2000 + Config.flipLead.setWidth 64) = true →
      ∃ s' d, exec .commitTimeout s = .next s' ∧ Ended s s' q n 0x0701 d ∧ s'.trn.st = 1 ∧ s'.trn.last = 0x0701 ∧ s'.trn.cmt = none ∧
        s'.trn.decision = none ∧ s'.tl = s.tl) ∧
    (∀ target, s.trn.decision = some (s.trnVer + 1, .flip, target) →
      (s.stb.tick.toNat < target.toNat → exec .flip s = .next s) ∧
      (target.toNat ≤ s.stb.tick.toNat → s.trnCfg 17 8 = 0 →
        ∃ s' d, exec .flip s = .next s' ∧ Ended s s' q n 0 d ∧ s'.trnVer = s.trnVer + 1 ∧ s'.trn.st = 1 ∧ s'.trn.last = 0 ∧
          s'.trn.cmt = none ∧ s'.trn.decision = none ∧ s'.trn.flipAt = s.now ∧
          s'.stb = (if fld (s.reg 0x20000) 0 2 = 2 then { s.stb with step := s.stb.step + 1, phase0 := 0, phaseAt := target } else s.stb))))

/-- R244, R245, R251 to R256, R262 to R265, R290, R291: enabling and disabling the protocol, the norm record and the decision it leads to, the
mirror's acceptance, the optimiser's restore, the choice between primary and backup, a member missed for KTO, and the state
a spare adopts.
The model's choices in it: log 21, 25, 52, 56, 57. -/
def Obligations.TrainingWindowResult : Prop :=
  (∀ (k : Packet) (s : State) (w : W64), Writes s k 0xA0000 w →
    let timed : Prop := fld w 25 16 ≠ 0 ∧ fld w 41 16 ≠ 0
    (bit w 0 = true → timed → s.trnOn = false → (s.setReg 0xA0000 w).enableOk = true → s.mem.ue = [] →
      ∃ s', exec (.trnEnableSet k) s = .next s' ∧ WriteAnswered s s' k 0 ∧ s'.reg 0xA0000 = w ∧ OtherRegisters 0xA0000 s s' ∧
        s'.trn.st = (if s.isSpareEntry s.ownIdent then 4 else 1) ∧ s'.trn.role = s.ownIdent ∧ s'.trn.mirrorBusy = true ∧
        s'.trn.good = s.trn.good ∧ s'.trn.last = s.trn.last ∧ s'.trn.cmt = none ∧ s'.tl = s.tl) ∧
    (bit w 0 = true → s.trnOn = false → ¬ timed ∨ (s.setReg 0xA0000 w).enableOk = false →
      ∃ s', exec (.trnEnableSet k) s = .next s' ∧ OnlyAnswered s s' k 0x3 0x0202 0 []) ∧
    (bit w 0 = true → s.trnOn = true →
      ∃ s', exec (.trnEnableSet k) s = .next s' ∧ OnlyAnswered s s' k 0x3 (if timed ∧ w = s.reg 0xA0000 then 0 else 0x0202) 0 []) ∧
    (bit w 0 = false → timed → s.trnOn = true → w = s.reg 0xA0000 - 1 →
      (∀ c ∈ s.liveCmds, Cmd.opcode c.2 ∉ [0x01, 0x04, 0x0A, 0x09, 0x0B]) →
      ∃ s', exec (.trnEnableClear k) s = .next s' ∧ WriteAnswered s s' k 0 ∧ s'.reg 0xA0000 = w ∧ OtherRegisters 0xA0000 s s' ∧
        s'.trn = { s.trn with st := 0, cmt := none, decision := none, recorded := none, told := none, cmps := [] } ∧ s'.mem = s.mem) ∧
    (bit w 0 = false → s.trnOn = true → ¬ timed ∨ w ≠ s.reg 0xA0000 - 1 ∨ (∃ c ∈ s.liveCmds, Cmd.opcode c.2 ∈ [0x01, 0x04, 0x0A, 0x09, 0x0B]) →
      ∃ s', exec (.trnEnableClear k) s = .next s' ∧ OnlyAnswered s s' k 0x3 0x0202 0 [])) ∧
  (∀ (s : State) (x : Coll), s.normColl = some x → x.susp = false →
    ((∀ h ∈ x.norms, h.1 ≠ s.grpRank s.cgrp) → (∀ l ∈ s.granLocs (s.gradRef.add s.shoff) s.shlen, s.isUe l = false) →
      ∃ s' r, exec (.normContribution noFind) s = .next s' ∧ s'.trn = { s.trn with formed := true } ∧
        s'.normColl = some { x with norms := x.norms ++ [(s.grpRank s.cgrp, r)] } ∧ fld r 0 36 = s.shardSq.2.toNat ∧
        bit r 36 = (s.trn.winOvf || x.fl.ovf) ∧ bit r 37 = (s.trn.winNan || x.fl.nanIn || x.fl.nanGen) ∧ bit r 38 = s.trn.winCheck ∧
        Posted s s' (((s.holders s.cgrp).filter (fun m => some m != s.host.ident)).map
          (fun m => (m, .ctl (.norm (BitVec.ofNat 8 s.cgrp) x.seq r)))) ∧ SameBytes s s' ∧ s'.host = s.host) ∧
    (∀ (c : Cmd) (recs : List (Nat × W64)), s.findCmd x.q x.cmd = some c →
      recs.map (fun h => h.1) = List.range (s.members s.cgrp).length →
      (∀ h ∈ recs, x.norms.find? (fun k => k.1 == h.1) = some h) → RecordPlain s →
      let sq := recs.foldl (fun (t : A36) h => (a36Add t (h.2.setWidth 36)).1) a36Zero
      let ovf := recs.any (fun h => bit h.2 36)
      let nan := recs.any (fun h => bit h.2 37)
      let ab := recs.any (fun h => bit h.2 38)
      let skip := nan || ab || !(A36.val sq).isFin || (ovf && !s.satPolicy)
      ∃ s', exec .normFoldComplete s = .next s' ∧
        Ended s s' x.q x.cmd (if skip then 0x0702 else 0) (collResult x.seq s.cgrp 0 0 0 x.desc.alg x.fl) ∧ s'.curColl s.cgrp = none ∧
        s'.trn.sq = sq ∧ s'.trn.ovf = ovf ∧ s'.trn.nan = nan ∧ s'.trn.abandon = ab ∧ s'.trn.skip = skip ∧ s'.trn.normed = true ∧
        s'.trn.kf = (if skip then s.trn.kf else gradFactor s.lsLog2 s.maxNorm sq) ∧ s'.trn.st = (if skip then s.trn.st else 2) ∧
        s'.trn.last = (if skip then 0x0702 else 0) ∧ s'.trn.decidedAt = (if skip then none else some s.now) ∧ s'.trn.optTouched = false ∧
        s'.trn.gradOut = (if skip then s.trn.gradOut else true) ∧ s'.regs = s.regs ∧ s'.tl = s.tl)) ∧
  (∀ s : State, s.trn.mirrorBusy = true ∨ (s.trn.gradOut = true ∧ s.trn.gradIn = false) →
    (s.bulkOut s.buddy = false → s.trn.mirrorLost = false →
      exec .mirrorAccepted s = .next { s with trn := { s.trn with mirrorBusy := false, gradIn := s.trn.gradOut } }) ∧
    (s.bulkOut s.buddy = true ∨ s.trn.mirrorLost = true → exec .mirrorAccepted s = .next s)) ∧
  (∀ (bs : List Byte) (s : State),
    let a := (s.reg 0xA0058).toNat
    let o := bs.take s.olen
    (s.trn.restoreBusy = false → exec (.optimiserRestoreComplete bs) s = .next s) ∧
    (s.trn.restoreBusy = true → s.buddy ≠ s.ownIdent → s.dpm = false → Whole s a o.length →
      ∃ s', exec (.optimiserRestoreComplete bs) s = .next s' ∧ Holds s' a o ∧ BytesOutside s s' a o.length ∧
        s'.trn = { s.trn with restoreBusy := false, optTouched := false } ∧ s'.host = s.host ∧ s'.tl = s.tl)) ∧
  (∀ (i : BitVec 4) (s : State) (b : Bool) (e : Bool) (l : List (BitVec 4 × Bool × Bool)),
    let sel (b : Bool) (s' : State) : Prop :=
      s'.trn = { s.trn with bkSel := s.trn.bkSel ++ [(i, b)] } ∧ s'.mem = s.mem ∧ s'.host = s.host ∧
      Posted s s' (((s.holders s.cgrp).filter (fun m => some m != s.host.ident)).map (fun m => (m, .ctl (.backupSelect i b))))
    s.isLeader = true → s.bkOn i.toNat = true → (∀ r ∈ s.trn.bkSel, r.1 ≠ i) → s.trn.bkReady.filter (fun r => r.1 == i) = (i, b, e) :: l →
    s.curColl s.cgrp = none →
    let early : Prop := (i, false, true) ∈ s.trn.bkReady
    (s.phase.toNat < s.bkDeadline i.toNat →
      exec (.backupDeadline i) s = .next s ∧
      (early → ∃ s', exec (.backupSelection i) s = .next s' ∧ sel false s') ∧
      (¬ early → exec (.backupSelection i) s = .next s)) ∧
    (s.bkDeadline i.toNat ≤ s.phase.toNat → ∀ a ∈ [Instr.backupDeadline i, .backupSelection i],
      (early → ∃ s', exec a s = .next s' ∧ sel false s') ∧ (¬ early → ∃ s', exec a s = .next s' ∧ sel b s'))) ∧
  (∀ (s : State) (x : Coll) (r : Nat),
    let g := s.cgrp
    s.curColl g = some x → x.desc.step = true → x.phase = .hand → s.kto * 100000 ≤ s.now - x.since → s.bkList = [] →
    r < (s.members g).length → (∀ h ∈ x.hands, h.1 ≠ r) → (∀ k, k < r → ∃ h ∈ x.hands, h.1 = k) → s.rankId g r ≠ s.ownIdent →
    (s.isFailed (s.rankId g r) = false → s.isMaster = false →
      ∃ s', exec .contributionTimeout s = .next s' ∧ s'.curColl g = some { x with since := s.now } ∧
        Posted s s' [(s.master, .ctl (.declare (s.rankId g r)))] ∧ s'.mem = s.mem ∧ s'.host = s.host) ∧
    (s.isFailed (s.rankId g r) = true → (s.findCmd x.q x.cmd).isSome = true →
      ∃ s', exec .contributionTimeout s = .next s' ∧ Ended s s' x.q x.cmd 0x0402 (collResult x.seq g r 0 0 0 x.fl) ∧
        s'.curColl g = none ∧ s'.mem = s.mem)) ∧
  (∀ (hdr w o gr weights : List Byte) (hasG : Bool) (s : State),
    let img (k : Nat) : W64 := BitVec.ofNat 64 (leAt hdr (16 + k) 8)
    s.trn.st = 4 → s.trn.role ≠ s.ownIdent →
    ∃ s', exec (.takeoverRestoreComplete hdr w o hasG gr weights) s = .next s' ∧
      (∀ k ∈ ([0, 8, 0x10, 0x40, 0x48, 0x50, 0x58, 0x60, 0x68, 0x70, 0x80, 0x88] : List Nat), s'.reg (0xA0000 + k) = img k) ∧
      s'.trn.role = s.trn.role ∧ s'.trn.st = (if hasG then 2 else 1) ∧ s'.trn.resume = (if hasG then 2 else 1) ∧
      s'.trn.good = fld (img 0x18) 20 16 ∧ s'.trn.last = BitVec.ofNat 16 (fld (img 0x18) 36 16) ∧ s'.trn.skip = bit (img 0x18) 3 ∧
      s'.trn.sq.toNat = fld (img 0x20) 0 36 ∧ s'.trn.kf = fld (img 0x20) 36 16 ∧ s'.trn.ovf = bit (img 0x20) 52 ∧
      s'.trn.nan = bit (img 0x20) 53 ∧ s'.trn.abandon = bit (img 0x20) 54 ∧ s'.trn.cmt = none ∧ s'.tl = s.tl)

/-- R330 to R346: the step base. TIME packets are kept under INBAND and ignored else; one that is applied, after the steps missed before
it, sets STEP and PHASE forward, never back, unless it comes early; pulses count as glitch, early or accepted, an accepted one decides a step 2,000 ticks ahead, a missed one
a flywheel step; a change takes effect at its tick; a lower identity is master and gives its tick, step and phase; the master judges a
member's alignment; a silent master is forgotten; a due event acts and is disarmed; a lock group's tick lets its waiting
tiles go on.
The model's choices in it: log 6, 27, 59, 61, 62. -/
def Obligations.StepBaseResult : Prop :=
  (∀ (k : Packet) (s : State), (s.port .pxu).st = .active → s.serving = true → fld k.dw0 0 4 = 0xA → bit k.dw0 5 = true →
    s.addressed k = true → fld k.dw0 12 11 ≠ 2047 → headerFault k = none →
    let a : W64 := BitVec.ofNat 64 (leAt (Packet.data k) 0 8)
    (s.stbSrc = 1 →
      ∃ s', exec (.time k) s = .next s' ∧ s'.mem = s.mem ∧ s'.tl = s.tl ∧
        s'.stb = { s.stb with times := s.stb.times ++ [{ due := if a.toNat < s.stb.tick.toNat then s.stb.tick else a, at_ := a, step := k.dw3 ++ k.dw2, phase := k.dw1 }] }) ∧
    (s.stbSrc ≠ 1 →
      ∃ s', exec (.time k) s = .next s' ∧ s'.mem = s.mem ∧ s'.tl = s.tl ∧ s'.stb = { s.stb with cnt := s'.stb.cnt } ∧
        Tab.get 0 s'.stb.cnt 3 = min 0xFFFF (Tab.get 0 s.stb.cnt 3 + 1))) ∧
  (∀ (s : State) (p : TimePkt),
    let ph := min 0xFFFFFFFF (p.phase.toNat + (s.stb.tick.toNat - p.at_.toNat) / 2 ^ fld (s.reg 0x20000) 2 4)
    let s0 := ({ s with stb := { s.stb with times := [] } } : State).missAll p.at_.toNat 64
    s.stb.times = [p] → s.stbSrc = 1 → p.at_.toNat ≤ p.due.toNat →
    (s.stb.tick.toNat < p.due.toNat → exec .timeApply s = .next s) ∧
    (p.due.toNat ≤ s.stb.tick.toNat → p.step.toNat < s0.stb.step.toNat ∨ (p.step = s0.stb.step ∧ ph < s0.phase.toNat) →
      ∃ s', exec .timeApply s = .next s' ∧ s' = { s0 with stb := { s0.stb with cnt := s'.stb.cnt } } ∧
        Tab.get 0 s'.stb.cnt 3 = min 0xFFFF (Tab.get 0 s0.stb.cnt 3 + 1)) ∧
    (p.due.toNat ≤ s.stb.tick.toNat → p.step = s0.stb.step → ph = s0.phase.toNat → exec .timeApply s = .next s0) ∧
    (∀ r, p.due.toNat ≤ s.stb.tick.toNat → s0.stb.step.toNat < p.step.toNat → s0.stb.r = some r → s0.stb.cad ≠ 3 →
      p.at_.toNat < r.toNat + s.winMin →
      ∃ s', exec .timeApply s = .next s' ∧ s' = { s0 with stb := { s0.stb with cnt := s'.stb.cnt } } ∧
        Tab.get 0 s'.stb.cnt 1 = min 0xFFFF (Tab.get 0 s0.stb.cnt 1 + 1)) ∧
    (p.due.toNat ≤ s.stb.tick.toNat → (p.step = s0.stb.step ∧ s0.phase.toNat < ph) ∨ (s0.stb.step.toNat < p.step.toNat ∧
        ∀ r, s0.stb.r = some r → s0.stb.cad ≠ 3 → r.toNat + s.winMin ≤ p.at_.toNat) →
      ∃ s', exec .timeApply s = .next s' ∧ s'.stb.step = p.step ∧ s'.stb.phase0 = p.phase ∧ s'.stb.phaseAt = p.at_ ∧
        s'.stb.times = [] ∧ s'.stb.tick = s.stb.tick ∧ s'.mem = s.mem)) ∧
  (∀ (w : Nat) (take : Bool) (s : State),
    (w < 10 ∨ (w < 20 ∧ take = false) →
      ∃ s', exec (.cadencePulse w take) s = .next s' ∧ s' = { s with stb := { s.stb with cnt := s'.stb.cnt } } ∧
        Tab.get 0 s'.stb.cnt 0 = min 0xFFFF (Tab.get 0 s.stb.cnt 0 + 1)) ∧
    (20 ≤ w → s.stbSrc ≠ 0 ∨ s.isMaster = false → exec (.cadencePulse w take) s = .next s) ∧
    (20 ≤ w → s.stbSrc = 0 → s.isMaster = true → s.stb.r = none →
      ∃ s', exec (.cadencePulse w take) s = .next s' ∧ s'.stb.r = some s.stb.tick ∧ s'.stb.step = s.stb.step ∧ s'.mem = s.mem ∧
        s'.stb.changes = s.stb.changes ++ [(s.nextStep, s.stb.tick, BitVec.ofNat 64 (s.stb.tick.toNat + 2000))]) ∧
    (∀ r, 20 ≤ w → s.stbSrc = 0 → s.isMaster = true → s.stb.r = some r → s.stb.cad ≠ 3 → s.stb.tick.toNat < r.toNat + s.winMin →
      s.stb.tick.toNat ≤ r.toNat + s.winMax →
      ∃ s', exec (.cadencePulse w take) s = .next s' ∧ s'.stb = { s.stb with cnt := s'.stb.cnt } ∧ s'.mem = s.mem ∧
        Tab.get 0 s'.stb.cnt 1 = min 0xFFFF (Tab.get 0 s.stb.cnt 1 + 1))) ∧
  (∀ (s : State) (r : W64), s.stbSrc = 0 → s.isMaster = true → s.stb.r = some r → s.stb.cad ≠ 3 →
    (s.stb.tick.toNat ≤ r.toNat + s.winMax → exec .cadenceMiss s = .next s) ∧
    (r.toNat + s.winMax < s.stb.tick.toNat → s.stb.cad ≠ 2 →
      let r' := r + BitVec.ofNat 64 s.expect
      ∃ s', exec .cadenceMiss s = .next s' ∧ s'.stb.r = some r' ∧ s'.stb.miss = s.stb.miss + 1 ∧
        s'.stb.cad = (if s.stb.miss + 1 ≥ 4 then 2 else s.stb.cad) ∧
        s'.stb.changes = s.stb.changes ++ [(s.nextStep, BitVec.ofNat 64 r'.toNat, BitVec.ofNat 64 (r.toNat + s.winMax + 2000))] ∧
        Tab.get 0 s'.stb.cnt 2 = min 0xFFFF (Tab.get 0 s.stb.cnt 2 + 1) ∧ s'.mem = s.mem ∧ s'.tl = s.tl)) ∧
  (∀ (s : State) (n st eff : W64) (l : List (W64 × W64 × W64)), s.stb.changes = (n, st, eff) :: l → eff.toNat ≤ s.stb.tick.toNat →
    let ahead : Prop := s.stb.step.toNat < n.toNat ∨ (n = s.stb.step ∧ s.phase.toNat ≤ s.phaseFrom 0 st)
    (ahead →
      ∃ s', exec .stepChangeEffect s = .next s' ∧ s'.stb.step = n ∧ s'.stb.phase0 = 0 ∧ s'.stb.phaseAt = st ∧ s'.stb.changes = l ∧
        s'.stb.tick = s.stb.tick ∧ s'.mem = s.mem ∧ s'.host = s.host) ∧
    (¬ ahead → exec .stepChangeEffect s = .next { s with stb := { s.stb with changes := l } })) ∧
  (∀ (id : BitVec 12) (t step : W64) (phase : W32) (s : State), id ≠ s.ownIdent → id ∉ s.stb.known → id ∉ s.flt.failed →
    let ahead : Prop := s.stb.step.toNat < step.toNat ∨ (step = s.stb.step ∧ s.phase.toNat ≤ phase.toNat)
    (id.toNat < s.master.toNat →
      ∃ s', exec (.masterElection id t step phase) s = .next s' ∧ s'.stb.known = s.stb.known ++ [id] ∧ s'.master = id ∧ s'.stb.tick = t ∧
        s'.stb.aligned = true ∧ (ahead → s'.stb.step = step ∧ s'.stb.phase0 = phase ∧ s'.stb.phaseAt = t) ∧
        (¬ ahead → s'.stb.step = s.stb.step ∧ s'.phase = s.phase) ∧ s'.mem = s.mem ∧ s'.host = s.host) ∧
    (s.isMaster = true → s.ownIdent.toNat < id.toNat →
      ∃ s', exec (.masterElection id t step phase) s = .next s' ∧ s'.stb.known = s.stb.known ++ [id] ∧ s'.master = s.master ∧
        s'.stb.tick = s.stb.tick ∧ s'.mem = s.mem ∧ s'.host = s.host)) ∧
  (∀ (src : BitVec 12) (off : Bool) (cfg win : W64) (s : State), s.isMaster = true → src ≠ s.ownIdent →
    let ok := !off && cfg == s.reg 0x20000 && win == s.reg 0x20008
    ∃ s', exec (.alignmentCheck src off cfg win) s = .next s' ∧ Posted s s' [(src, .ctl (.aligned ok))] ∧
      s'.stb.alignedSet = s.stb.alignedSet.filter (fun d => d != src) ++ (if ok then [src] else []) ∧ s'.mem = s.mem ∧ s'.tl = s.tl) ∧
  (∀ s : State,
    (s.isMaster = false → 200000 ≤ s.now - s.flt.masterAt →
      ∃ s', exec .masterSilence s = .next s' ∧ s'.stb.known = s.stb.known.filter (fun d => d != s.master) ∧
        s'.stb.step = s.stb.step ∧ s'.stb.tick = s.stb.tick ∧ s'.mem = s.mem ∧ s'.host = s.host) ∧
    (s.isMaster = true ∨ s.now - s.flt.masterAt < 200000 → exec .masterSilence s = .next s) ∧
    (s.onBase = false → exec .stepEventFire s = .next s) ∧
    (∀ i, i < 256 → s.onBase = true → s.evtDue (s.evt i) = true → (∀ j, j < i → s.evtDue (s.evt j) = false) → (s.evt i).action = 1 →
      s.homeStopped (s.evt i).arg = false →
      let e := s.evt i
      let ahead (k : Nat) : Prop := s.stb.step.toNat < e.w0.toNat + k * e.rpt ∨
        (s.stb.step.toNat = e.w0.toNat + k * e.rpt ∧ s.phase.toNat ≤ e.phase)
      ∃ s', exec .stepEventFire s = .next s' ∧ s'.obj (s.evt i).arg = s.obj (s.evt i).arg + 1 ∧
        (∀ o, o ≠ (s.evt i).arg → s'.obj o = s.obj o) ∧ ((s.evt i).rpt = 0 → (s'.evt i).armed = false) ∧
        (0 < e.rpt → (s'.evt i).armed = true ∧
          ∃ k, 0 < k ∧ (s'.evt i).w0 = e.w0 + BitVec.ofNat 64 (k * e.rpt) ∧ ahead k ∧ ∀ j, 0 < j → j < k → ¬ ahead j) ∧
        (∀ j, j ≠ i → s'.evt j = s.evt j) ∧ s'.mem = s.mem ∧ s'.regs = s.regs ∧ s'.tl = s.tl) ∧
    (∀ i, i < 256 → s.onBase = true → s.evtDue (s.evt i) = true → (∀ j, j < i → s.evtDue (s.evt j) = false) → (s.evt i).action = 2 →
      (s.evt i).arg < 64 →
      ∃ s', exec .stepEventFire s = .next s' ∧ s'.qHeld (s.evt i).arg = false ∧
        (∀ q, q < 64 → q ≠ (s.evt i).arg → s'.qHeld q = s.qHeld q) ∧ s'.mem = s.mem ∧ s'.tl = s.tl)) ∧
  (∀ (g : BitVec 4) (s : State),
    let a := Tab.get ((0, 0) : W64 × W32) s.stb.lgAt g.toNat
    let p := s.lgPeriod g.toNat
    let due : Prop := s.stb.step ≠ a.1 ∨ a.2.toNat / p < s.phase.toNat / p
    let waits (t : Nat) : Prop := t < 256 ∧ (s.tile t).core = .lockWait ∧ s.tileHeld t = false ∧
      ∃ l, s.launchOf t = some l ∧ l.lock = some g.toNat
    (s.lgOn g.toNat = false ∨ s.onBase = false ∨ ¬ due → exec (.lockGroupTick g) s = .next s) ∧
    (s.lgOn g.toNat = true → s.onBase = true → due →
      ∃ s', exec (.lockGroupTick g) s = .next s' ∧ Tab.get (0, 0) s'.stb.lgAt g.toNat = (s.stb.step, s.phase) ∧ s'.mem = s.mem ∧
        s'.regs = s.regs ∧ (∀ t, ¬ waits t → s'.tile t = s.tile t) ∧
        (∀ t, waits t → s'.tile t =
          { s.tile t with core := .run, active := 0, block := (s.tile t).block + 1, sig := 0, blkAt := s.now, atBlk := true })))

/-! ## Failure handling (14) -/

/-- R356 to R359, R362 to R367, R372, R375, R376: check units and slots, arbitration, test windows from opening to their outcome,
SELFTEST, image checks and the records they leave, where no command used the unit lately.
The model's choices in it: log 6, 33, 34, 44, 49. -/
def Obligations.CheckAndTestResult : Prop :=
  (∀ (t : BitVec 8) (a b : W64) (s : State),
    let c := t.toNat / 16
    let x := s.cluster c
    let mine := x.checks.filter (fun k => k.tile == t.toNat)
    (mine = [] → exec (.checkUnitComplete t a b) s = .next s) ∧
    (∀ k l, mine = k :: l →
      ∃ s', exec (.checkUnitComplete t a b) s = .next s' ∧ Counts s s' (if a = b then [5] else [5, 6]) ∧
        s'.cluster c = { x with checks := x.checks.erase k } ∧ (∀ m, m ≠ c → s'.cluster m = s.cluster m) ∧
        s' = { s with flt := { s.flt with cnt := s'.flt.cnt, cluster := s'.flt.cluster, arbs := s.flt.arbs ++ (if a = b then [] else
          [{ tile := t.toNat, pos := k.pos, checkerPos := k.checkerPos, sigTile := a, sigChecker := b, q := k.q, seq := k.seq,
             third := s.pickThird c }]) } })) ∧
  (∀ (t : BitVec 8) (sig : W64) (s : State) (a : Arb), s.flt.arbs.find? (fun a => a.tile == t.toNat) = some a → s.flt.uses = [] →
    let c := a.tile / 16
    let x := s.cluster c
    (s.thirdReady a = false → exec (.thirdExecutionComplete t sig) s = .next s) ∧
    ((∀ k, a.third = .tile k → (s.thirdReady a = true ↔ ∀ m ∈ s.tl.moves, m.tile ≠ k)) ∧ (a.third = .spare → s.thirdReady a = true) ∧
      (a.third = .waits → (s.thirdReady a = true ↔ (Role.spare ∈ x.roles ∧ (∀ b ∈ s.flt.arbs, b.tile / 16 = c → b.third ≠ .spare)) ∨
        ∃ k, k < 256 ∧ s.tileIdle k = true))) ∧
    let back (s' : State) : Prop := s'.tl.moves =
      s.tl.moves ++ (match a.third with
        | .tile k => if s.tl.saved.any (fun v => v.tile == k) then [{ tile := k, kind := .restore }] else []
        | _ => [])
    let ends (s' : State) (ps : List Nat) (p : Nat) (step : Bool) : Prop :=
      exec (.thirdExecutionComplete t sig) s = .next s' ∧
      back s' ∧ OnlyFault { s with tl := { s.tl with moves := s'.tl.moves }, drawn := s.drawn + 1, trn := if step then { s.trn with winCheck := true } else s.trn } s' ∧
      s'.flt.arbs = s.flt.arbs.erase a ∧ LastLog s' 0x01 2 (Unit.tile c p) ∧ s'.flt.marginDue = true ∧
      (s'.cluster c).levels = ps.foldl (fun l p => l.set p 1) x.levels ∧ (s'.cluster c).fsteps = x.fsteps + ps.length ∧
      (s'.cluster c).roles = x.roles ∧ ∀ m, m ≠ c → s'.cluster m = s.cluster m
    (s.thirdReady a = true → x.levels.getD a.pos 0 = 0 → x.levels.getD a.checkerPos 0 = 0 → x.fsteps < 3 →
    (sig = a.sigChecker → ∃ s', ends s' [a.pos] a.pos false ∧ Counts s s' [24]) ∧
    (sig ≠ a.sigChecker → sig = a.sigTile → ∃ s', ends s' [a.checkerPos] a.checkerPos false ∧ Counts s s' [7, 24]) ∧
    (sig ≠ a.sigChecker → sig ≠ a.sigTile → a.pos ≠ a.checkerPos →
      ∃ s', ends s' [a.pos, a.checkerPos] a.pos (s.qClass a.q == 1) ∧ Tab.get 0 s'.flt.cnt 8 = Tab.get 0 s.flt.cnt 8 + 1 ∧
        Tab.get 0 s'.flt.cnt 24 = Tab.get 0 s.flt.cnt 24 + 2))) ∧
  (∀ (c : BitVec 4) (s : State),
    let n := c.toNat
    let x := s.cluster n
    (∀ l : Nat, l = (if s.twoCheckers n then 25000 else 12500) →
      (s.plaus n = true ∨ s.now - x.slotAt < l → exec (.checkSlotEnd c) s = .next s) ∧
      (s.plaus n = false → l ≤ s.now - x.slotAt →
        ∃ s', exec (.checkSlotEnd c) s = .next s' ∧ OnlyCluster n s s' ∧ s'.cluster n =
          { x with slotAt := s.now, units := 0, halves := [], visit := (if s.twoCheckers n then (x.visit % 8 + 1) % 8 else (x.visit + 1) % 16) })) ∧
    (∀ (p : Nat) (l : List Nat), x.win = none → x.rotation = p :: l → fld (s.reg 0x40010) 0 4 * 100000 ≤ s.now - x.lastWin →
      let inPlace := x.role p == .spare || x.role p == .returned
      ∃ s', exec (.testWindowOpen c) s = .next s' ∧ OnlyCluster n s s' ∧ WindowFrame x (s'.cluster n) ∧
        (s'.cluster n).win = some { pos := p, openedAt := s.now, cmd := none, cleared := inPlace } ∧
        (s'.cluster n).lastWin = s.now ∧ (s'.cluster n).roles = (if inPlace then x.roles.set p .testing else x.roles)) ∧
    (∀ (w : TestWin) (i k : Nat), x.win = some w → w.cleared = false → x.role w.pos = .work i → s.testCover n w.pos = some k →
      (∀ m ∈ s.tl.moves, m.tile ≠ 16 * n + i) → (s.tile (16 * n + i)).hasContext = false →
      ∃ s', exec (.testPositionClear c) s = .next s' ∧ OnlyCluster n s s' ∧ WindowFrame x (s'.cluster n) ∧
        (s'.cluster n).win = some { w with cleared := true } ∧ (s'.cluster n).roles = (x.roles.set k (.work i)).set w.pos .testing) ∧
    (∀ (w : TestWin) (i k : Nat), x.win = some w → w.cleared = false → x.role w.pos = .work i → s.testCover n w.pos = some k →
      (∀ m ∈ s.tl.moves, m.tile ≠ 16 * n + i) → (s.tile (16 * n + i)).hasContext = true →
      ((s.tile (16 * n + i)).atYield = false ∨ s.tileHeld (16 * n + i) = true → exec (.testPositionClear c) s = .next s) ∧
      ((s.tile (16 * n + i)).atYield = true → s.tileHeld (16 * n + i) = false →
        ∃ s', exec (.testPositionClear c) s = .next s' ∧ OnlyCluster n { s with tl := s'.tl } s' ∧
          (s'.cluster n).win = some w ∧ (s'.cluster n).roles = x.roles.set k .reserved ∧
          s'.tl = { s.tl with moves := s.tl.moves ++ [{ tile := 16 * n + i, kind := .toPos k .testing }] })) ∧
    (∀ (w : TestWin) (k : Nat), x.win = some w → w.cleared = false → x.role w.pos = .mordant → s.testCover n w.pos = some k →
      let open_ : Prop := (∃ a ∈ s.flt.arbs, a.tile / 16 = n ∧ a.checkerPos = w.pos) ∨ ∃ k ∈ x.checks, k.checkerPos = w.pos
      (open_ → exec (.testPositionClear c) s = .next s) ∧
      (¬ open_ →
        ∃ s', exec (.testPositionClear c) s = .next s' ∧ OnlyCluster n s s' ∧ WindowFrame x (s'.cluster n) ∧
          (s'.cluster n).win = some { w with cleared := true } ∧ (s'.cluster n).roles = (x.roles.set k .mordant).set w.pos .testing)) ∧
    (∀ w : TestWin, x.win = some w → w.cleared = false → x.role w.pos ≠ .testing → s.testCover n w.pos = none → s.flt.selftests = [] →
      ∃ s', exec (.testPositionClear c) s = .next s' ∧ Counts s s' [15] ∧ (s'.cluster n).win = none ∧ (s'.cluster n).roles = x.roles ∧
        s'.tl = s.tl ∧ s'.mem = s.mem ∧ s'.host = s.host) ∧
    (∀ (w : TestWin) (pass : Bool), x.win = some w → x.role w.pos = .testing → s.flt.selftests = [] → s.flt.uses = [] →
      ∃ s', exec (.structuralTestComplete c pass) s = .next s' ∧ OnlyFault s s' ∧ (∀ m, m ≠ n → s'.cluster m = s.cluster m) ∧
        WindowFrame x (s'.cluster n) ∧ (s'.cluster n).win = none ∧ (s'.cluster n).lastPos = (if w.extra then x.lastPos else w.pos) ∧
        (s'.cluster n).roles = x.roles.set w.pos (if pass then
          (if Role.spare ∈ x.roles ∧ Role.mordant ∉ x.roles then .mordant else .spare) else .retired) ∧
        Counts s s' (if pass then [13] else [13, 14]) ∧
        (pass = false → LastLog s' 0x03 3 (Unit.tile n w.pos) ∧ s'.flt.marginDue = true))) ∧
  (∀ (q : BitVec 6) (n : W32) (imgs : List ImgPart) (s : State) (c : Cmd), Runs s q.toNat n 0x10 c → s.flt.selftests = [] → s.flt.uses = [] →
    (∀ k, k < 16 → (s.cluster k).win = none) →
    (Cmd.full c = true → Cmd.opnd c 16 1 = 0 →
      let bad := if Cmd.opnd c 17 1 = 1 then imgs.length else 0
      ∃ s', exec (.selftest q n imgs []) s = .next s' ∧ s'.mem = s.mem ∧ s'.flt.selftests = [] ∧
        Ended s s' q.toNat n (if bad = 0 then 0 else 0x0504) (List.replicate 6 0 ++ toBytesLE 2 bad ++ List.replicate 24 0)) ∧
    (Cmd.full c = false → (∀ k, k < 16 → (s.cluster k).rotation ≠ []) →
      ∃ s', exec (.selftest q n [] []) s = .next s' ∧ s'.host = s.host ∧ s'.mem = s.mem ∧ s'.tl = s.tl ∧
        ∀ k, k < 16 → ∃ w, (s'.cluster k).win = some w ∧ w.cmd = some (q.toNat, n) ∧ (s.cluster k).rotation.head? = some w.pos)) ∧
  (∀ (p : ImgPart) (s : State), exec (.imageCrcCheck p true) s = .next s ∧
    (s.flt.uses = [] →
      ∃ s', exec (.imageCrcCheck p false) s = .next s' ∧ LastLog s' 0x0D 1 (s.imgUnit p) ∧ s'.mem = s.mem ∧ s'.regs = s.regs ∧
        (∀ t i, p = .store t i → s'.tile t.toNat = { s.tile t.toNat with slots := Tab.put [] (s.tile t.toNat).slots i.toNat [] }) ∧
        (∀ u, (∀ t i, p = .store t i → u ≠ t.toNat) → s'.tile u = s.tile u))) ∧
  (∀ s : State, ∃ s', exec .marginRecordWrite s = .next s' ∧
    s' = { s with boot := s'.boot, flt := { s.flt with marginDue := false, repairDue := false } } ∧
    (s.flt.marginDue = true → s.flt.repairDue = false → s'.boot = (s.writeRec 4 s.marginBody).boot) ∧
    (s.flt.marginDue = false → s.flt.repairDue = true → s'.boot = (s.writeRec 3 s.repairBody).boot) ∧
    (s.flt.marginDue = false → s.flt.repairDue = false → s'.boot = s.boot))

/-- R371, R373, R374; 16 R422: clocks, voltages and temperatures out of their limits and back, heartbeats sent and missed,
declarations, and the ways in which the module is lost and fences itself.
The model's choices in it: log 6, 38, 44, 59, 60. -/
def Obligations.FaultsAndFencingResult : Prop :=
  (∀ (c : BitVec 4) (s : State),
    let n := c.toNat
    let x := s.cluster n
    (x.clockFault = none → x.lost = false → s.flt.uses = [] →
      ∃ s', exec (.clockFault c) s = .next s' ∧ OnlyFault s s' ∧ s'.cluster n = { x with clockFault := some s.now } ∧
        (∀ m, m ≠ n → s'.cluster m = s.cluster m) ∧ LastLog s' 0x09 1 (Unit.domain (tlDomain n)) ∧
        ∀ t, t / 16 = n → s'.tileHeld t = true) ∧
    (∃ s', exec (.pllRelockComplete c) s = .next s' ∧ OnlyCluster n s s' ∧ s'.cluster n = { x with relockAt := none, clockFault := none }) ∧
    (∀ t, x.clockFault = some t → s.now - t < 10000 → exec (.relockTimeout c) s = .next s) ∧
    (∀ t, x.clockFault = some t → 10000 ≤ s.now - t → s.flt.fenced = false →
      ∃ s', exec (.relockTimeout c) s = .next s' ∧ Fenced s s' ∧ (s'.cluster n).lost = true ∧ s.ownIdent ∈ s'.flt.failed)) ∧
  (∀ (i : BitVec 6) (s : State),
    let n := i.toNat
    let v := Tab.get none s.flt.volt n
    (v ≠ none ∨ Tab.get 2 s.pwr.pd n < 2 → exec (.voltageFault i) s = .next s) ∧
    (v = none → 2 ≤ Tab.get 2 s.pwr.pd n → s.flt.uses = [] → domainVital n = false →
      ∃ s', exec (.voltageFault i) s = .next s' ∧ OnlyFault { s with pwr := s'.pwr } s' ∧ Tab.get none s'.flt.volt n = some s.now ∧
        s'.pwr = { s.pwr with pd := Tab.put 2 s.pwr.pd n 3, failed := some (s.pwr.failed.getD n) } ∧ LastLog s' 0x0A 1 (Unit.domain n)) ∧
    (v = none → 2 ≤ Tab.get 2 s.pwr.pd n → s.flt.uses = [] → domainVital n = true → s.flt.fenced = false →
      ∃ s', exec (.voltageFault i) s = .next s' ∧ Fenced s s' ∧ Tab.get none s'.flt.volt n = some s.now) ∧
    (∀ t, v = some t →
      (s.now - t ≤ 100000 →
        exec (.voltageLossTimeout i) s = .next s ∧
        ∃ s', exec (.voltageRestored i) s = .next s' ∧ Tab.get none s'.flt.volt n = none ∧ Tab.get 2 s'.pwr.pd n = 2 ∧
          (∀ k, k ≠ n → Tab.get none s'.flt.volt k = Tab.get none s.flt.volt k ∧ Tab.get 2 s'.pwr.pd k = Tab.get 2 s.pwr.pd k) ∧
          (∀ c, c < 16 → s'.cluster c = if tlDomain c = n then { s.cluster c with trim := (s.cluster c).vsteps } else s.cluster c) ∧
          s' = { s with flt := { s.flt with volt := s'.flt.volt, cluster := s'.flt.cluster }, pwr := { s.pwr with pd := s'.pwr.pd } }) ∧
      (100000 < s.now - t →
        exec (.voltageRestored i) s = .next s ∧
        (s.flt.fenced = false → ∃ s', exec (.voltageLossTimeout i) s = .next s' ∧ Fenced s s' ∧ s.ownIdent ∈ s'.flt.failed)))) ∧
  (∀ (k : BitVec 3) (s : State),
    let n := k.toNat
    let v := Tab.get none s.flt.hot n
    (4 < n ∨ v ≠ none → exec (.thermalFault k) s = .next s) ∧
    (n ≤ 4 → v = none → s.flt.uses = [] →
      ∃ s', exec (.thermalFault k) s = .next s' ∧ OnlyFault s s' ∧ Tab.get none s'.flt.hot n = some s.now ∧
        LastLog s' 0x0B 1 (Unit.domain (hotDomain n)) ∧ (∀ t, n < 2 → t / 16 / 8 = n → s'.tileHeld t = true) ∧
        (2 ≤ n → n ≤ 3 → s'.memStopped = true)) ∧
    (∀ t, v = some t →
      (s.now - t ≤ 10000000 →
        exec (.thermalLossTimeout k) s = .next s ∧
        ∃ s', exec (.thermalLimitCleared k) s = .next s' ∧ Tab.get none s'.flt.hot n = none ∧
          (∀ m, m ≠ n → Tab.get none s'.flt.hot m = Tab.get none s.flt.hot m) ∧ s' = { s with flt := { s.flt with hot := s'.flt.hot } }) ∧
      (10000000 < s.now - t →
        exec (.thermalLimitCleared k) s = .next s ∧
        (s.flt.fenced = false → ∃ s', exec (.thermalLossTimeout k) s = .next s' ∧ Fenced s s' ∧ s.ownIdent ∈ s'.flt.failed)))) ∧
  (∀ s : State,
    (s.flt.fenced = true ∨ s.now - s.flt.hbAt < 100000 → exec .heartbeatSend s = .next s) ∧
    (s.flt.fenced = false → 100000 ≤ s.now - s.flt.hbAt →
      ∃ s', exec .heartbeatSend s = .next s' ∧ s' = { s with fab := s'.fab, flt := { s.flt with hbAt := s.now } } ∧
        Posted s s' (s.torusNear.map (fun d => (d, .ctl .heartbeat)))) ∧
    (∀ d : BitVec 12, d ∈ s.torusNear ↔
      d ≠ s.ownIdent ∧ d ∉ s.flt.failed ∧ ∃ p b j, p < 12 ∧ torusFar s.shape s.modNumber p = some (b, j) ∧
        d = BitVec.ofNat 12 (64 * domainOf s.ownIdent + b) ∧ (s.fabUp p = true ∨ Tab.get 0 s.flt.heard d.toNat ≠ 0)) ∧
    (s.boot.released = false ∨ s.flt.fenced = true → exec .refclkFault s = .next s) ∧
    (s.boot.released = true → s.flt.fenced = false →
      ∃ s', exec .refclkFault s = .next s' ∧ Fenced s s' ∧ s.ownIdent ∈ s'.flt.failed) ∧
    (s.flt.silent = none → s.isMaster = true ∨ s.now - s.flt.masterAt < 1000000 → exec .masterUnreachable s = .next s) ∧
    (s.flt.silent = none → s.isMaster = false → 1000000 ≤ s.now - s.flt.masterAt → s.flt.fenced = false →
      ∃ s', exec .masterUnreachable s = .next s' ∧ Fenced s s') ∧
    (∀ d t, s.flt.silent = some (d, t) → 1000000 ≤ s.now - t → s.flt.fenced = false →
      ∃ s', exec .masterUnreachable s = .next s' ∧ Fenced s s')) ∧
  (∀ (d : BitVec 12) (s : State),
    let h := Tab.get 0 s.flt.heard d.toNat
    (h = 0 ∨ s.now - h < 500000 ∨ d ∈ s.flt.failed ∨ s.flt.fenced = true → exec (.heartbeatMiss d) s = .next s) ∧
    (h ≠ 0 → 500000 ≤ s.now - h → d ∉ s.flt.failed → s.flt.fenced = false → s.isMaster = false →
      ∃ s', exec (.heartbeatMiss d) s = .next s' ∧ Posted s s' [(s.master, .ctl (.declare d))] ∧
        s' = { s with fab := s'.fab, flt := { s.flt with heard := Tab.put 0 s.flt.heard d.toNat 0 } }) ∧
    (d ∈ s.flt.failed → exec (.moduleDeclaration d) s = .next s) ∧
    (d ∉ s.flt.failed → d = s.ownIdent → s.flt.fenced = false →
      ∃ s', exec (.moduleDeclaration d) s = .next s' ∧ Fenced s s' ∧ s'.flt.failed = s.flt.failed ++ [d]) ∧
    (d ∉ s.flt.failed → d ≠ s.ownIdent → s.trnOn = false → (∀ g ∈ s.sync.remote, g.peer ≠ d) → (∀ g, g < 256 → s.curColl g = none) →
      (∀ r p, r < 4 → p < s.wrSize r → s.holderOf (s.wrRole r p) ≠ d) →
      ∃ s', exec (.moduleDeclaration d) s = .next s' ∧ s'.flt.failed = s.flt.failed ++ [d] ∧ LastLog s' 0x0F 7 0x80FF ∧
        (∃ ps, s'.fab.sent = s.fab.sent.filter (fun p => p.dst != d) ++ ps ∧ ps.map (fun p => (p.dst, p.body)) =
          if d = s.master ∧ s'.isMaster = false then [(s'.master, .ctl (.tickAsk s.stb.tick))] else []) ∧ s'.stb.known = s.stb.known.filter (fun k => k != d) ∧
        s'.flt.fenced = s.flt.fenced ∧ s'.mem = s.mem ∧ s'.tl = s.tl ∧ s'.host.queues = s.host.queues ∧ s'.regs = s.regs))

/-! ## Power, start-up, update and the sideband (15, 16) -/

/-- R383 to R386, R414, R417, R421, R425, R432: the power-up sequence group by group and its failure, release and reset, the fall of
MOD_PWR_EN, the input's loss and return, and the thermal trip.
The model's choices in it: log 6, 38, 43, 44. -/
def Obligations.PowerSequencingResult : Prop :=
  (∀ s : State, let p := s.pwr
    let out := p.inputFault = true ∧ s.now - p.lowAt < 1000000
    (p.en = true → exec .modPwrEnRise s = .next s) ∧
    (p.en = false → out ∨ p.vinOk = false →
      ∃ s', exec .modPwrEnRise s = .next s' ∧ OnlyPower s s' ∧ s'.pwr = { p with en := true, enAt := s.now, inputFault := s'.pwr.inputFault } ∧
        (s'.pwr.inputFault = true ↔ out)) ∧
    (p.en = false → ¬ out → p.vinOk = true →
      ∃ s', exec .modPwrEnRise s = .next s' ∧ OnlyPower s s' ∧ PowersUp s s' ∧ s'.pwr.en = true ∧ s'.pwr.enAt = s.now ∧
        s'.pwr.inputFault = false ∧ s'.pwr.pgood = p.pgood) ∧
    (p.en = false → exec .modPwrEnFall s = .next s) ∧
    (p.en = true →
      ∃ s', exec .modPwrEnFall s = .next s' ∧ Cleared s s' ∧ s'.boot.released = false ∧ s'.pwr.en = false ∧ s'.pwr.pgood = false ∧
        s'.pwr.trip = false ∧ s'.pwr.upFail = false ∧ s'.pwr.lowAt = s.now ∧ s'.pwr.smb = [] ∧ s'.pwr.vin = 0 ∧ s'.pwr.pin = 0 ∧
        s'.pwr.ir = 1 ∧ s'.pwr.dr = 0 ∧ s'.pwr.bsr = 0 ∧
        (∀ c, c < 16 → (s'.cluster c).tj = 0 ∧ (s'.cluster c).td = 0) ∧ ∀ i, i < 64 → Tab.get 2 s'.pwr.pd i = 0) ∧
    (p.en = false → exec .inputVoltageFault s = .next { s with pwr := { p with vinOk := false } }) ∧
    (p.en = true →
      ∃ s', exec .inputVoltageFault s = .next s' ∧ Cleared s s' ∧ s'.boot.released = false ∧ s'.flt.fenced = true ∧ s'.pwr.vinOk = false ∧
        s'.pwr.inputFault = true ∧ s'.pwr.pgood = false ∧ s'.pwr.en = true ∧
        ∀ i, i < 64 → Tab.get 2 s'.pwr.pd i = (if i = 62 then Tab.get 2 p.pd 62 else 0)) ∧
    (let on := p.en = true ∧ p.inputFault = false ∧ p.trip = false ∧ p.upFail = false ∧ p.pgood = false ∧ Tab.get 2 p.pd 62 = 0;
      (¬ on → exec .inputVoltageInRange s = .next { s with pwr := { p with vinOk := true } }) ∧
      (on → ∃ s', exec .inputVoltageInRange s = .next s' ∧ OnlyPower s s' ∧ PowersUp s s' ∧ s'.pwr.vinOk = true ∧ s'.pwr.en = true)) ∧
    (Tab.get 2 p.pd 62 ≠ 2 ∨ p.trip = true → exec .thermalTrip s = .next s) ∧
    (Tab.get 2 p.pd 62 = 2 → p.trip = false →
      ∃ s', exec .thermalTrip s = .next s' ∧ Cleared s s' ∧ s'.boot.released = false ∧ s'.pwr.trip = true ∧ s'.pwr.pgood = p.pgood ∧
        ∀ i, i < 64 → Tab.get 2 s'.pwr.pd i = (if i = 62 then 2 else 0)) ∧
    (s.boot.released = true ∨ p.en = false ∨ p.pgood = false ∨ p.trip = true ∨ p.inputFault = true → exec .effectiveRelease s = .next s) ∧
    (s.boot.released = false → p.en = true → p.pgood = true → p.trip = false → p.inputFault = false →
      ∃ s', exec .effectiveRelease s = .next s' ∧ Cleared s s' ∧ s'.boot.released = true ∧ s'.boot.relAt = s.now ∧ s'.pwr.rstN = true ∧
        s'.pwr.ir = 1 ∧ s'.pwr.pd = p.pd ∧ s'.mem.ue = s.mem.ue)) ∧
  (∀ (ns : Nat) (take : Bool) (s : State),
    (ns < 200 ∨ (ns < 1000 ∧ take = false) → exec (.modRstNPulse ns take) s = .next s) ∧
    (1000 ≤ ns ∨ (200 ≤ ns ∧ take = true) →
      ∃ s', exec (.modRstNPulse ns take) s = .next s' ∧ Cleared s s' ∧ s'.boot.released = false ∧ s'.pwr.rstN = false ∧
        s'.pwr.pd = s.pwr.pd ∧ s'.pwr.pgood = s.pwr.pgood ∧ s'.mem.ue = s.mem.ue)) ∧
  (∀ (adr : BitVec 3) (s : State), let p := s.pwr
    let g := p.groups
    p.en = true → p.upFail = false → p.inputFault = false → p.trip = false → p.pgood = false → g < 58 →
    Tab.get 2 p.pd ((groupDomains g).headD 0) = 1 →
    ∃ s', exec (.powerGroupInLimits adr) s = .next s' ∧ OnlyPower s s' ∧ s'.pwr.groups = g + 1 ∧ s'.pwr.groupAt = s.now ∧
      s'.pwr.pgood = decide (g = 57) ∧ s'.pwr.adr = (if g = 0 then adr else p.adr) ∧
      ∀ i, i < 64 → Tab.get 2 s'.pwr.pd i =
        (if i ∈ groupDomains g then 2 else if g < 57 ∧ i ∈ groupDomains (g + 1) then 1 else Tab.get 2 p.pd i)) ∧
  (∀ (d : BitVec 6) (s : State), let p := s.pwr
    p.en = true → p.upFail = false → p.pgood = false → p.groups < 58 → Tab.get 2 p.pd d.toNat = 1 →
    (s.now - p.groupAt < 150000 → exec (.powerGroupTimeout d) s = .next s) ∧
    (150000 ≤ s.now - p.groupAt →
      ∃ s', exec (.powerGroupTimeout d) s = .next s' ∧ OnlyPower s s' ∧ s'.alert = true ∧ s'.pwr.pgood = false ∧
        s'.pwr = { p with pd := Tab.put 2 p.pd d.toNat 3, upFail := true, failed := some (p.failed.getD d.toNat) }))

/-- R418, R429 to R431: the thermal loop raises a cluster's level at either limit, lowers it after ten evaluations in succession
below both, and holds it between; the power loop does so for the module at the cap; the fast limit sets the level 8.
The model's choices in it: log 6, 44, 64. -/
def Obligations.ThrottlingResult : Prop :=
  (∀ (c : BitVec 4) (tj td : BitVec 8) (s : State),
    let n := c.toNat
    let x := s.cluster n
    let y := { x with tj := tj.toNat, td := td.toNat }
    (s.boot.stage < 5 ∨ s.boot.stage = 8 → exec (.thermalLoopEval c tj td) s = .next s) ∧
    (5 ≤ s.boot.stage → s.boot.stage ≠ 8 →
      ∃ s', exec (.thermalLoopEval c tj td) s = .next s' ∧ OnlyCluster n s s' ∧
        (100 ≤ tj.toNat ∨ 92 ≤ td.toNat → s'.cluster n = { y with kt := min 8 (x.kt + 1), cool := 0 }) ∧
        (tj.toNat ≤ 97 → td.toNat ≤ 89 → x.cool < 9 → s'.cluster n = { y with cool := x.cool + 1 }) ∧
        (tj.toNat ≤ 97 → td.toNat ≤ 89 → 9 ≤ x.cool → s'.cluster n = { y with kt := x.kt - 1, cool := 0 }) ∧
        (tj.toNat < 100 → td.toNat < 92 → 97 < tj.toNat ∨ 89 < td.toNat → s'.cluster n = { y with cool := 0 }))) ∧
  (∀ (pin vin : W16) (s : State),
    let cap := fld (s.reg 0x60000) 0 12
    let q := { s.pwr with pin := pin.toNat, vin := vin.toNat, peak := max s.pwr.peak pin.toNat }
    (s.pwr.pgood = false ∨ s.boot.released = false →
      exec (.powerLoopEval pin vin) s = .next s ∧ exec .powerFastLimit s = .next s) ∧
    (s.pwr.pgood = true → s.boot.released = true →
      exec .powerFastLimit s = .next { s with pwr := { s.pwr with kp := 8, low := 0 } } ∧
      ∃ s', exec (.powerLoopEval pin vin) s = .next s' ∧ OnlyPower s s' ∧
        (cap < pin.toNat → s'.pwr = { q with kp := min 8 (s.pwr.kp + 1), low := 0 }) ∧
        (100 * pin.toNat ≤ 95 * cap → s.pwr.low < 9 → s'.pwr = { q with low := s.pwr.low + 1 }) ∧
        (100 * pin.toNat ≤ 95 * cap → 9 ≤ s.pwr.low → s'.pwr = { q with kp := s.pwr.kp - 1, low := 0 }) ∧
        (pin.toNat ≤ cap → 95 * cap < 100 * pin.toNat → s'.pwr = { q with low := 0 })))

/-- R387 to R393, R405, R406: the boot stages in their order, the slot that boots, the trial, the fall-back and RECOVERY; the flash
devices' modes; the decision about the domain.
The model's choices in it: log 5, 6, 39, 63. -/
def Obligations.StartUpResult : Prop :=
  (∀ (a b : BitVec 3) (imgs : List ImgPart) (adds : List AddUnit) (bad : List (BitVec 4 × BitVec 5)) (s : State),
    let ends := exec (.bootStageEnd a b imgs adds bad) s
    let goes (n : Nat) : State := { s with boot := { s.boot with stage := n, since := s.now } }
    let mode (f : Flash) (x : Nat) : Flash := { f with mode := if x ≤ 1 then x else min 3 (x - 1), ro := decide (x = 1), tries := 0 }
    let bc := s.bootctl
    let runs (s1 s' : State) (d trial : Bool) (st : W16) (fell : Bool) : Prop :=
      ends = .next s' ∧ s'.boot.stage = 4 ∧ s'.boot.slot = d ∧ s'.boot.trial = trial ∧ s'.boot.status = st ∧
      s'.boot.fellBack = fell ∧ s'.boot.man = s1.slotRead d 0 4096 ∧ (s'.port .pxu).live = true ∧ (s'.port .pxd).live = true ∧
      (∀ p, s'.port (.fab p) = { s.port (.fab p) with live := true, since := s.now, subSince := s.now }) ∧ s'.regs = s.regs ∧ s'.mem = s.mem
    let recovers (s' : State) (e : W16) (fell : Bool) : Prop :=
      ends = .next s' ∧ s'.boot.stage = 8 ∧ s'.boot.status = e ∧ s'.boot.man = [] ∧ s'.boot.fellBack = fell ∧
      (s'.port .pxu).live = true ∧ (s'.port .pxd).live = true ∧ (∀ p, s'.port (.fab p) = s.port (.fab p)) ∧ s'.regs = s.regs
    let w := s.writeBootctl { bc with trialEn := false, prevValid := false }
    let t := s.writeBootctl { bc with boots := bc.boots + 1, secs := min 900 (bc.secs + 60) }
    (s.boot.released = false ∨ 6 < s.boot.stage → ends = .next s) ∧
    (s.boot.released = true →
      (s.boot.stage = 0 → ends = .next (goes 1)) ∧
      (s.boot.stage = 1 → ends =
        .next { s with boot := { s.boot with fl0 := mode s.boot.fl0 a.toNat, fl1 := mode s.boot.fl1 b.toNat, stage := 2, since := s.now } }) ∧
      (s.boot.stage = 2 → s.tieTypes = [] →
        ∃ s', ends = .next s' ∧ s'.boot.stage = 3 ∧ s'.mem = s.mem ∧ s'.ports = s.ports ∧
          (∀ o, o ≠ 0x30000 → o ≠ 0x50020 → o ≠ 0x50028 → s'.reg o = s.reg o) ∧
          (∀ r, s.evenRecs.setting 2 = some r → fld (s'.reg 0x30000) 0 2 = bitsAt r 0 2 ∧ fld (s'.reg 0x50020) 0 7 = bitsAt r 2 7 ∧
            fld (s'.reg 0x50020) 7 16 = bitsAt r 9 16 ∧ s'.reg 0x50028 = BitVec.ofNat 64 (leAt r 8 8)) ∧
          (s.evenRecs.setting 2 = none → s'.reg 0x30000 = 0 ∧ fld (s'.reg 0x50020) 0 7 = 1 ∧ s'.reg 0x50028 = 0)) ∧
      (s.boot.stage = 3 → bc.trialEn = false →
        (s.slotFault bc.conf = none → ∃ s', runs s s' bc.conf false (if s.boot.fellBack then 0x0903 else 0) s.boot.fellBack ∧
          s'.boot.svnMin = (if Man.raise (s.slotRead bc.conf 0 4096) then max s.boot.svnMin (Man.svn (s.slotRead bc.conf 0 4096)) else s.boot.svnMin)) ∧
        (∀ e, s.slotFault bc.conf = some e → bc.prevValid = true → s.slotFault (!bc.conf) = none → ∃ s', runs s s' (!bc.conf) false 0x0903 true) ∧
        (∀ e e2, s.slotFault bc.conf = some e → bc.prevValid = true → s.slotFault (!bc.conf) = some e2 → ∃ s', recovers s' e2 s.boot.fellBack) ∧
        (∀ e, s.slotFault bc.conf = some e → bc.prevValid = false → ∃ s', recovers s' e s.boot.fellBack)) ∧
      (s.boot.stage = 3 → bc.trialEn = true → bc.boots = 3 ∨ 900 ≤ bc.secs →
        (w.slotFault bc.conf = none → ∃ s', runs w s' bc.conf false 0x0903 true) ∧
        (∀ e, w.slotFault bc.conf = some e → ∃ s', recovers s' e true)) ∧
      (s.boot.stage = 3 → bc.trialEn = true → bc.boots ≠ 3 → bc.secs < 900 →
        (t.slotFault (!bc.conf) = none →
          ∃ s', runs t s' (!bc.conf) true 0 false ∧ s'.boot.upd = 4 ∧ s'.boot.svnMin = s.boot.svnMin) ∧
        (∀ e, t.slotFault (!bc.conf) = some e →
          ∃ s', ends = .next s' ∧ s'.boot.trial = false ∧ s'.boot.fellBack = true ∧
            (s'.boot.stage = 4 ∨ s'.boot.stage = 8))) ∧
      (s.boot.stage = 4 → ∃ s', ends = .next s' ∧ s' = { goes 5 with mem := s'.mem } ∧ s'.mem.byte = s.mem.byte ∧
        (s.repairs = [] → s'.mem = s.mem)) ∧
      (s.boot.stage = 5 → s.setting 4 = none →
        (s.boot.trial = false → ends = .next (goes 6)) ∧
        (s.boot.trial = true → imgs = [] → adds = [] → bad = [] → s.flt.fenced = false → s.flt.selftests = [] → s.tl.moves = [] →
          (∀ t, t < 256 → (s.tile t).hasContext = false) →
          ∃ s', ends = .next s' ∧ s' = { s with boot := { s.boot with selfOk := true, stage := 6, since := s.now },
                                                flt := { s.flt with cnt := s'.flt.cnt, cluster := s'.flt.cluster } }) ∧
        (s.boot.trial = true → imgs ≠ [] ∨ adds ≠ [] →
          ∃ s', ends = .next s' ∧ s'.boot.trial = false ∧ s'.boot.fellBack = true ∧ (s'.boot.stage = 4 ∨ s'.boot.stage = 8))) ∧
      (s.boot.stage = 6 → ends = .next (if (s.port .pxu).st = .active then goes 7 else s)))) ∧
  (∀ (d : Bool) (s : State),
    let f := s.dev d
    (f.mode = 0 → exec (.flashReadTimeout d) s = .next s ∧ exec (.flashWriteTimeout d) s = .next s) ∧
    (f.mode ≠ 0 →
      (∃ s', exec (.flashWriteTimeout d) s = .next s' ∧ OnlyBoot s s' ∧ s'.dev d = { f with ro := true } ∧ s'.dev (!d) = s.dev (!d)) ∧
      ∃ s', exec (.flashReadTimeout d) s = .next s' ∧ OnlyBoot s s' ∧ s'.dev (!d) = s.dev (!d) ∧
        s'.dev d = (if f.tries < 3 then { f with tries := f.tries + 1 } else { f with tries := 0, mode := f.mode - 1 }) ∧
        s'.boot.retries = (if f.tries < 3 ∨ 1 < f.mode then min 0xFFFF (s.boot.retries + 1) else s.boot.retries))) ∧
  (∀ s : State,
    (s.domMaster = false → exec .domainDecision s = .next s ∧ exec .formTimeout s = .next s) ∧
    (s.domMaster = true → s.dom.decided = true →
      (s.presentNow = s.dom.present → exec .domainDecision s = .next s) ∧ exec .formTimeout s = .next s ∧
      (s.presentNow ≠ s.dom.present → ∃ s', exec .domainDecision s = .next s' ∧ Decided s s')) ∧
    (s.domMaster = true → s.dom.decided = false →
      (s.domExpect &&& s.presentNow = s.domExpect → ∃ s', exec .domainDecision s = .next s' ∧ Decided s s') ∧
      (s.domExpect &&& s.presentNow ≠ s.domExpect →
        exec .domainDecision s = .next { s with dom := { s.dom with present := s.presentNow } }) ∧
      (s.now - s.dom.electAt < s.formTo * 100000 → exec .formTimeout s = .next s) ∧
      (s.formTo * 100000 ≤ s.now - s.dom.electAt → ∃ s', exec .formTimeout s = .next s' ∧ Decided s s'))) ∧
  (∀ (k : Packet) (s : State) (w : W64), BootWrites s k 0x50040 w →
    (fld w 1 63 ≠ 0 → TurnedAway (.domFormGo k) s k) ∧
    (w = 0 ∨ (w = 1 ∧ s.domMaster = true ∧ s.dom.st = 2) → ∃ s', exec (.domFormGo k) s = .next s' ∧ OnlyAnswered s s' k 0x3 0 0 []) ∧
    (w = 1 → s.domMaster = true → s.dom.st ≠ 2 →
      ∃ s' r, exec (.domFormGo k) s = .next s' ∧ Decided { s with ports := s'.ports } s' ∧ s'.host.upTx.getLast? = some r ∧
        Answers s k r 0x3 0 0 []) ∧
    (w = 1 → s.domMaster = false → s.host.ident.isSome = true → fld (s.reg 0x30000) 0 2 ≠ 0 → s.isMaster = false →
      ∃ s', exec (.domFormGo k) s = .next s' ∧ WriteAnswered s s' k 0 ∧ Posted s s' [(s.master, .ctl .formGo)] ∧ s'.dom = s.dom))

/-- R404 to R407, R409 to R412: PROGRAM, ACTIVATE, CONFIRM, CANCEL and SAVE_DOMAIN in their update states and turned away in every
other; the end of PROGRAM by its checks; a trial's time and its fall-back; the request for a report and its delivery.
The model's choices in it: log 5, 39, 63. -/
def Obligations.FirmwareUpdateResult : Prop :=
  (∀ (k : Packet) (s : State),
    let b := s.bootctl
    let u := s.boot.upd
    let end_ (x : BootSt) (n : Nat) : BootSt := { x with upd := n, updStatus := 0, failBlk := 0 }
    (BootWrites s k 0x50108 1 →
      (u = 0 ∨ u = 2 → BootActs (.program k) s k (fun s0 => end_
        { (s0.writeBootctl { b with prevValid := false, otherVer := 0 }).boot with
          updSlot := if s.recovery = true ∧ b.prevValid = false then b.conf else !b.conf } 1)) ∧
      (u ≠ 0 → u ≠ 2 → TurnedAway (.program k) s k)) ∧
    (BootWrites s k 0x50108 2 →
      let v := Man.ver (s.slotRead s.boot.updSlot 0 4096)
      (u = 2 → s.recovery = true → BootActs (.activate k) s k (fun s0 => end_ (s0.writeBootctl
        { b with conf := s.boot.updSlot, prevValid := false, trialEn := false, confVer := v, otherVer := 0 }).boot 0)) ∧
      (u = 2 → s.recovery = false → BootActs (.activate k) s k (fun s0 => end_ (s0.writeBootctl
        { b with trialEn := true, boots := 0, secs := 0, otherVer := v }).boot 3)) ∧
      (u ≠ 2 → TurnedAway (.activate k) s k)) ∧
    (BootWrites s k 0x50108 3 →
      (u = 4 → s.boot.selfOk = true → s.recovery = false →
        let c : BootCtl := { b with conf := s.boot.slot, prevValid := true, trialEn := false, boots := 0, secs := 0, confVer := Man.ver s.boot.man, otherVer := b.confVer }
        let svn := if Man.raise s.boot.man then max s.boot.svnMin (Man.svn s.boot.man) else s.boot.svnMin
        BootActs (.confirm k) s k (fun s0 => end_ { (s0.writeBootctl c).boot with trial := false, svnMin := svn } 0)) ∧
      (u ≠ 4 ∨ s.boot.selfOk = false ∨ s.recovery = true → TurnedAway (.confirm k) s k)) ∧
    (BootWrites s k 0x50108 4 →
      (u = 2 ∨ u = 3 → s.recovery = false →
        BootActs (.cancel k) s k (fun s0 => end_ (s0.writeBootctl { b with trialEn := false }).boot 0)) ∧
      ((u ≠ 2 ∧ u ≠ 3) ∨ s.recovery = true → TurnedAway (.cancel k) s k)) ∧
    (BootWrites s k 0x50108 5 →
      (u = 0 → s.recovery = false → BootActs (.saveDomain k) s k (fun s0 => end_ (s0.writeRec 2 s0.domainBody).boot 0)) ∧
      (u ≠ 0 ∨ s.recovery = true → TurnedAway (.saveDomain k) s k)) ∧
    (∀ w, BootWrites s k 0x50200 w →
      let a := fld w 0 42
      let ok := s.boot.att = none ∧ a % 32 = 0 ∧ inOneTier a 14912 = true ∧ (s.recovery = true → inOuter a = true)
      (fld w 43 21 ≠ 0 ∨ (bit w 42 = true ∧ ¬ ok) → TurnedAway (.attCtlGo k) s k) ∧
      (fld w 43 21 = 0 → bit w 42 = false → BootActs (.attCtlGo k) s k (fun s0 => s0.boot)) ∧
      (fld w 43 21 = 0 → bit w 42 = true → ok →
        BootActs (.attCtlGo k) s k (fun s0 => { s0.boot with att := some (a, s.nonce), attDone := false, attStatus := 0 })))) ∧
  (∀ (ok : Bool) (blk : BitVec 15) (s : State),
    let fails (st : W16) (n : Nat) : Prop := exec (.programComplete ok blk) s =
      .next { s with boot := { s.boot with upd := 0, updStatus := st, failBlk := n } }
    let d := s.boot.updSlot
    let n := 4096 * s.updBlocks
    (s.boot.upd ≠ 1 → exec (.programComplete ok blk) s = .next s) ∧
    (s.boot.upd = 1 →
      (∀ b, s.updUe = some b → fails 0x0902 b) ∧
      (∀ st b, s.updUe = none → imageFault s.updRead s.boot.svnMin s.boot.revoked = some (st, b) → fails st b) ∧
      (s.updUe = none → imageFault s.updRead s.boot.svnMin s.boot.revoked = none → (s.dev d).writable = false → fails 0x0902 0) ∧
      (s.updUe = none → imageFault s.updRead s.boot.svnMin s.boot.revoked = none → (s.dev d).writable = true →
        ∃ s', exec (.programComplete ok blk) s = .next s' ∧ OnlyBoot s s' ∧ s'.slotRead d 0 n = s.updRead 0 n ∧
          (∀ a, a < 0x1000000 ∨ 0x7000000 ≤ a → Tab.get 0xFF (s'.dev d).byte a = Tab.get 0xFF (s.dev d).byte a) ∧
          s'.dev (!d) = s.dev (!d) ∧ s'.boot.upd = (if ok then 2 else 0) ∧ s'.boot.updStatus = (if ok then 0 else 0x0902) ∧
          s'.boot.failBlk = (if ok then 0 else blk.toNat)))) ∧
  (∀ s : State,
    let b := s.bootctl
    let due := s.boot.trial = true ∧ s.boot.upd = 4 ∧ s.boot.fallAt = none ∧ 6000000000 ≤ s.now - s.boot.trialAt
    (¬ due → exec .trialTimer s = .next s) ∧
    (due → exec .trialTimer s = .next { s with boot :=
      { (s.writeBootctl { b with secs := min 900 (b.secs + 60) }).boot with trialAt := s.boot.trialAt + 6000000000 } }) ∧
    (s.boot.fallAt = none → s.boot.trial = true → s.boot.upd = 4 → 900 ≤ b.secs → s.flt.fenced = false →
      ∃ s', exec .trialFallback s = .next s' ∧ Fenced s s' ∧
        s'.boot = { (s.writeBootctl { b with trialEn := false, prevValid := false }).boot with fallAt := some s.now }) ∧
    (s.boot.fallAt = none → s.boot.trial = false ∨ s.boot.upd ≠ 4 ∨ b.secs < 900 → exec .trialFallback s = .next s) ∧
    (∀ t, s.boot.fallAt = some t →
      (s.now - t < 10000000 → exec .trialFallback s = .next s) ∧
      (10000000 ≤ s.now - t → ∃ s', exec .trialFallback s = .next s' ∧ Cleared s s' ∧ s'.boot.released = true ∧ s'.boot.fellBack = true)) ∧
    (s.boot.att = none → exec .attReportDone s = .next s) ∧
    (∀ (a : Nat) (nonce : List Byte), s.boot.att = some (a, nonce) → Whole s a (s.report nonce).length →
      ∃ s', exec .attReportDone s = .next s' ∧ Holds s' a (s.report nonce) ∧ BytesOutside s s' a (s.report nonce).length ∧
        s'.boot = { s.boot with att := none, attDone := true } ∧ s'.regs = s.regs ∧ s'.host = s.host ∧ s'.tl = s.tl))

/-- R426, R427: every SMBus read answers its content and, where asked, its PEC, from 20 ms after MOD_PWR_EN rose; a JTAG
instruction loads with what its register captures, those that drive pins only while MOD_RST_N is low and BYPASS in their
place at any other time. Neither touches any other state.
The model's choices in it: log 3, 6, 40, 44. -/
def Obligations.SidebandResult : Prop :=
  (∀ (pec : Bool) (s : State),
    let on := s.pwr.en = true ∧ Tab.get 2 s.pwr.pd 62 = 2 ∧ 2000000 ≤ s.now - s.pwr.enAt
    let ready := s.serving && decide ((s.port .pxu).st = .active)
    let reads_ (s' : State) (code : Byte) (data : List Byte) : Prop :=
      let a : Byte := 0xB0 + 2 * s.pwr.adr.setWidth 8
      s' = { s' with pwr := { s.pwr with smb := data ++ (if pec then [crc8 ([a, code, a + 1] ++ data)] else []) } }
    (∀ x ∈ ([(Instr.smbStatus, 0x01, toBytesLE 1 (b2n s.pwr.pgood + 2 * b2n s.alert + 4 * b2n s.flt.fenced + 8 * b2n ready +
        16 * b2n s.pwr.trip + 32 * b2n s.pwr.upFail)),
      (Instr.smbAlertCause, 0x02, toBytesLE 2 (b2n s.pxlDown + 2 * b2n s.flt.fenced + 4 * b2n s.pwr.upFail + 8 * b2n s.pwr.inputFault)),
      (Instr.smbFailedDomain, 0x03, toBytesLE 1 (s.pwr.failed.getD 0xFF)),
      (Instr.smbBootStat, 0x04, toBytesLE 2 (fld s.bootStat 0 8)),
      (Instr.smbVinMv, 0x10, toBytesLE 2 s.pwr.vin), (Instr.smbPinW, 0x11, toBytesLE 2 s.pwr.pin),
      (Instr.smbTjMax, 0x20, toBytesLE 1 s.tjMax), (Instr.smbTdMax, 0x21, toBytesLE 1 s.tdMax),
      (Instr.smbDevnum, 0x30, (8 : Byte) :: toBytesLE 8 Config.deviceNumber.toNat),
      (Instr.smbModId, 0x31, toBytesLE 2 s.modId)] : List ((Bool → Instr) × Byte × List Byte)),
      (¬ on → exec (x.1 pec) s = .next s) ∧
      (on → ∃ s', exec (x.1 pec) s = .next s' ∧ OnlyPower s s' ∧ reads_ s' x.2.1 x.2.2)) ∧
    (∀ x ∈ ([(Instr.smbTIn, 0x22), (Instr.smbTOut, 0x23)] : List ((Bool → Instr) × Byte)),
      (¬ on → exec (x.1 pec) s = .next { s with drawn := s.drawn + 1 }) ∧
      (on → ∃ s' v, exec (x.1 pec) s = .next s' ∧ OnlyPower { s with drawn := s.drawn + 1 } s' ∧ reads_ s' x.2 [v])) ∧
    exec .smbusSclTimeout s = .next { s with pwr := { s.pwr with smb := [] } }) ∧
  (∀ (pins load : BitVec 480) (s : State),
    let tapTo (ir : Nat) (dr bsr : BitVec 480) : State := { s with pwr := { s.pwr with ir := ir, dr := dr, bsr := bsr } }
    (Tab.get 2 s.pwr.pd 62 ≠ 2 →
      ∀ i ∈ ([.bypass, .idcode, .samplePreload pins load, .extest pins load, .clamp, .highz, .extestPulse pins load, .extestTrain pins load] :
        List Instr), exec i s = .next s) ∧
    (Tab.get 2 s.pwr.pd 62 = 2 →
      exec .bypass s = .next (tapTo 0 0 s.pwr.bsr) ∧ exec .idcode s = .next (tapTo 1 0x16448A5B s.pwr.bsr) ∧
      exec (.samplePreload pins load) s = .next (tapTo 2 pins load) ∧
      (s.pwr.rstN = true → ∀ i ∈ ([.extest pins load, .clamp, .highz, .extestPulse pins load, .extestTrain pins load] : List Instr),
        exec i s = .next (tapTo 0 0 s.pwr.bsr)) ∧
      (s.pwr.rstN = false → exec (.extest pins load) s = .next (tapTo 3 pins load) ∧ exec .clamp s = .next (tapTo 4 0 s.pwr.bsr) ∧
        exec .highz s = .next (tapTo 5 0 s.pwr.bsr) ∧ exec (.extestPulse pins load) s = .next (tapTo 6 pins load) ∧
        exec (.extestTrain pins load) s = .next (tapTo 7 pins load))))

/-! ## The machine as a whole -/

/-- The block's step: the command at the front of the queue is run on the state with the queue's rest, every one of them answers a
next state (no fault and no refusal is left in the model), and with nothing waiting a reference period passes: the model's
choice (log 41).
Events that do not apply leave the state as it is: log 6. -/
def Obligations.StepRunsTheFrontCommand : Prop :=
  (∀ (c : Instr) (s : State) (l : List Instr), s.pending = c :: l → step s = exec c { s with pending := l }) ∧
  (∀ s : State, s.pending = [] → step s = .next s.tick) ∧
  (∀ (c : Instr) (s : State), ∃ s', exec c s = .next s') ∧
  (∀ s : State, s.pending = [] → s.boot.released = true → ∃ s', step s = .next s' ∧ s'.now = s.now + 1 ∧ s'.stb.tick = s.stb.tick + 1) ∧
  (∀ s : State, s.pending = [] → s.boot.released = false → step s = .next { s with now := s.now + 1 })

/-- R60: s0 reads 0 and k0 all ones whatever is written to them; every other scalar, mask, event, descriptor and accumulator
register holds what was last written to it; the start of a LAUNCH clears neither the scratchpad nor the accumulator file.
The model's choices in it: log 72. -/
def Obligations.TileRegistersHoldWhatWasWritten : Prop :=
  ∀ (x : Tile) (n m : Nat) (v : W64) (k : BitVec 256) (e : BitVec 4) (a : A36),
    x.rd 0 = 0 ∧ x.wr 0 v = x ∧ x.rdK 0 = BitVec.allOnes 256 ∧ x.wrK 0 k = x ∧
    (n ≠ 0 → (x.wr n v).rd n = v ∧ (x.wrK n k).rdK n = k) ∧ (m ≠ n → (x.wr n v).rd m = x.rd m ∧ (x.wrK n k).rdK m = x.rdK m) ∧
    (x.setEv n e).ev n = e ∧ (m ≠ n → (x.setEv n e).ev m = x.ev m) ∧
    (x.setDesc n k).desc n = k ∧ (m ≠ n → (x.setDesc n k).desc m = x.desc m) ∧
    (∀ h, h < 2 → (x.setAcc h n a).acc h n = a ∧ (m ≠ n → (x.setAcc h n a).acc h m = x.acc h m) ∧
      (x.setAcc h n a).acc (1 - h) m = x.acc (1 - h) m) ∧
    ∀ (s : State) (l : Launch) (tile i : Nat), (s.startTile l tile i).spad = (s.tile tile).spad ∧
      (s.startTile l tile i).acc0 = (s.tile tile).acc0 ∧ (s.startTile l tile i).acc1 = (s.tile tile).acc1

/-- What reset leaves: the registers at the reset values of their tables, no command, nothing in flight, ports in DETECT; no byte of
memory listed, in canonical form. Memory reads as zero until written: the model's choice (log 1).
Other choices in it: log 4, 43. -/
def Obligations.ResetState : Prop :=
  let s := State.reset
  s.pending = [] ∧ Memory.wf s.mem = true ∧ (∀ l, s.memByte l = 0) ∧ s.host.ident = none ∧ s.busy = false ∧ s.flt.fenced = false ∧
  s.dom.st = 0 ∧ s.boot.stage = 0 ∧ s.trn.st = 0 ∧ s.flt.log = [] ∧ s.flt.next = 0 ∧
  (∀ p, (s.port p).st = .detect) ∧ (∀ t, (s.tile t).core = .idle) ∧ (∀ o, s.obj o = 0) ∧ (∀ i, (s.slot i).st = .idle) ∧
  s.reg 0x60 = 0x13F ∧ s.reg 0x100 = 0x0000271027100000 ∧ s.reg 0x108 = 0 ∧ (∀ q, q < 64 → s.reg (0x1000 + 16 * q) = 0xC1) ∧
  s.reg 0x20000 = 0x41C ∧ s.reg 0x20008 = 0x00989680000003E8 ∧ s.reg 0x40010 = 11 ∧ s.reg 0x40018 = 24 ∧ s.reg 0x60000 = 2400 ∧
  s.reg 0x50020 = 0x138801 ∧ s.reg 0xB0000 = 10000 ∧ (∀ g, g < 256 → s.reg (0xB1000 + 16 * g) = 0x10000)

/-- The invariant of memory: from every state whose memory is in canonical form, every step of every command and every idle step leaves
it in canonical form.
The model's choices in it: log 2. -/
def Obligations.MemoryStaysCanonical : Prop :=
  ∀ s s' : State, Memory.wf s.mem = true → step s = .next s' → Memory.wf s'.mem = true

/-- R402, R406: whatever happens, resets and losses of power included, the SVN minimum never falls and a signing key once revoked stays
revoked; and a step takes the front command from the queue and nothing else.
The model's choices in it: log 6. -/
def Obligations.FusesAndQueueAreKept : Prop :=
  ∀ s s' : State, step s = .next s' →
    s.boot.svnMin ≤ s'.boot.svnMin ∧ (∀ i, s.boot.revoked.getLsbD i = true → s'.boot.revoked.getLsbD i = true) ∧
    s'.pending = s.pending.tail

/-- R326: a fabric packet as built reads back field by field and passes the checks of its lane, for every value of every field.
The model's choices in it: log 7, 26. -/
def Obligations.FabricPacketReadsBack : Prop :=
  ∀ (sl : Bool) (dst src : BitVec 12) (ty hops : Nat) (eseq : W32) (arg : W64) (pl : List Byte),
    ty ≤ 4 → hops < 16 → pl.length % 4 = 0 → pl.length ≤ (if sl then 256 else 8192) →
    let b := mkFab dst src ty hops eseq arg pl
    Fab.dst b = dst ∧ Fab.src b = src ∧ Fab.ty b = ty ∧ Fab.hops b = hops ∧ Fab.len b = pl.length ∧ Fab.eseq b = eseq ∧
    Fab.arg b = arg ∧ Fab.payload b = pl ∧ Fab.good sl b = true

/-- R147 and Table 6.3: JOB_SEED is 0 at reset and reads as it was last written; a write while the job has a command queued or
running is not applied, is answered with ERR_RANGE, and changes nothing.
The model's choices in it: log 18. -/
def Obligations.JobSeedRegister : Prop :=
  State.reset.jobSeed = 0 ∧
  ∀ (k : Packet) (s : State) (w : W64),
    (Writes s k 0x108 w → s.busy = false →
      ∃ s', exec (.registerWrite k) s = .next s' ∧ s'.jobSeed = w ∧ OtherRegisters 0x108 s s' ∧ WriteAnswered s s' k 0 ∧
        s' = { s with ports := s'.ports, regs := s'.regs, host := { s.host with upTx := s'.host.upTx } }) ∧
    (Writes s k 0x108 w → s.busy = true → TurnedAway (.registerWrite k) s k) ∧
    (OnPxu s k 0x2 → fld k.dw1 0 20 = 0x108 → s.putWaits = false → s.recovery = false →
      ∃ s', exec (.regRd k) s = .next s' ∧ OnlyAnswered s s' k 0x2 0 s.jobSeed [])

/-- R378: the fault counters start at 0 at the release, count modulo 2^64 and are read-only; saturations of a tensor with no valid slot go
to SAT_OTHER, those of one with a slot to the slot's own count. -/
def Obligations.FaultCountersCountAndAreReadOnly : Prop :=
  (∀ (s : State) (n : Nat), Tab.get 0 State.reset.flt.cnt n = 0 ∧ Tab.get 0 (s.hardReset true false).flt.cnt n = 0) ∧
  (∀ (s : State) (n k : Nat), Tab.get 0 (s.count n k).flt.cnt n = Tab.get 0 s.flt.cnt n + BitVec.ofNat 64 k ∧
    ∀ m, m ≠ n → Tab.get 0 (s.count n k).flt.cnt m = Tab.get 0 s.flt.cnt m) ∧
  (∀ (s : State) (t k : Nat), s.tensorSlot t = none → k ≠ 0 → s.countSat t k = s.count 27 k) ∧
  (∀ (s : State) (t k j : Nat), s.tensorSlot t = some j →
    Tab.get 0 (s.countSat t k).flt.tcnt j = Tab.get 0 s.flt.tcnt j + BitVec.ofNat 64 k ∧ (s.countSat t k).flt.cnt = s.flt.cnt) ∧
  (∀ (k : Packet) (s : State) (w : W64) (n : Nat), n < 28 →
    (Writes s k (0x40100 + 8 * n) w → ∃ s', exec (.registerWrite k) s = .next s' ∧ OnlyAnswered s s' k 0x3 0 0 []) ∧
    (OnPxu s k 0x2 → fld k.dw1 0 20 = 0x40100 + 8 * n → s.putWaits = false → s.recovery = false →
      ∃ s', exec (.regRd k) s = .next s' ∧ OnlyAnswered s s' k 0x2 0 (Tab.get 0 s.flt.cnt n) []))
end

