-- ==== Sys2Proof/Laws/Tab.lean ====
section
/-! SUPPORT. Laws of the sparse table: what a read after a write gives, and that a write keeps the canonical form. -/
namespace Sys2Proof

variable {α : Type}

theorem Tab.get_del_same (d : α) (m : Tab α) (k : Nat) : Tab.get d (Tab.del m k) k = d := by
  induction m with
  | nil => rfl
  | cons p m ih =>
    obtain ⟨j, v⟩ := p
    by_cases h : j = k
    · simpa [Tab.del, List.filter, h] using ih
    · have hk : (j != k) = true := by simpa using h
      simp only [Tab.del, List.filter, hk, Tab.get, h, if_false]
      exact ih

theorem Tab.get_del_other (d : α) (m : Tab α) {j k : Nat} (h : j ≠ k) : Tab.get d (Tab.del m k) j = Tab.get d m j := by
  induction m with
  | nil => rfl
  | cons p m ih =>
    obtain ⟨i, v⟩ := p
    by_cases hi : i = k
    · subst hi
      simpa [Tab.del, List.filter, Tab.get, Ne.symm h] using ih
    · have hk : (i != k) = true := by simpa using hi
      simp only [Tab.del, List.filter, hk, Tab.get]
      split
      · rfl
      · exact ih

theorem Tab.get_ins_same (d : α) (m : Tab α) (k : Nat) (v : α) (h : ∀ p ∈ m, p.1 ≠ k) : Tab.get d (Tab.ins m k v) k = v := by
  induction m with
  | nil => simp [Tab.ins, Tab.get]
  | cons p m ih =>
    obtain ⟨j, u⟩ := p
    have hj : j ≠ k := h (j, u) (by simp)
    simp only [Tab.ins]
    split
    · simp [Tab.get]
    · simp only [Tab.get, hj, if_false]
      exact ih (fun p hp => h p (by simp [hp]))

theorem Tab.get_ins_other (d : α) (m : Tab α) {j k : Nat} (v : α) (h : j ≠ k) : Tab.get d (Tab.ins m k v) j = Tab.get d m j := by
  induction m with
  | nil => simp [Tab.ins, Tab.get, Ne.symm h]
  | cons p m ih =>
    obtain ⟨i, u⟩ := p
    simp only [Tab.ins]
    split
    · simp [Tab.get, Ne.symm h]
    · simp only [Tab.get]
      split
      · rfl
      · exact ih

theorem Tab.mem_del {m : Tab α} {k : Nat} {p : Nat × α} : p ∈ Tab.del m k ↔ p ∈ m ∧ p.1 ≠ k := by
  simp [Tab.del]

theorem Tab.mem_ins {m : Tab α} {k : Nat} {v : α} {p : Nat × α} (h : p ∈ Tab.ins m k v) : p = (k, v) ∨ p ∈ m := by
  induction m with
  | nil => simpa [Tab.ins] using h
  | cons q m ih =>
    obtain ⟨j, u⟩ := q
    simp only [Tab.ins] at h
    split at h
    · simpa using h
    · rcases List.mem_cons.mp h with rfl | h
      · simp
      · rcases ih h with h | h
        · exact Or.inl h
        · simp [h]

variable [DecidableEq α]

/-- A read after a write at the same key gives what was written. -/
@[simp] theorem Tab.get_put_same (d : α) (m : Tab α) (k : Nat) (v : α) : Tab.get d (Tab.put d m k v) k = v := by
  unfold Tab.put
  split
  · rename_i h; rw [Tab.get_del_same, h]
  · exact Tab.get_ins_same d _ k v (fun p hp => (Tab.mem_del.mp hp).2)

/-- A write leaves every other key alone. -/
theorem Tab.get_put_other (d : α) (m : Tab α) {j k : Nat} (v : α) (h : j ≠ k) : Tab.get d (Tab.put d m k v) j = Tab.get d m j := by
  unfold Tab.put
  split
  · exact Tab.get_del_other d m h
  · rw [Tab.get_ins_other d _ v h, Tab.get_del_other d m h]

/-- The same where the write has a default of its own. -/
theorem Tab.get_put_other_default (d e : α) (m : Tab α) {j k : Nat} (v : α) (h : j ≠ k) :
    Tab.get d (Tab.put e m k v) j = Tab.get d m j := by
  unfold Tab.put
  split
  · exact Tab.get_del_other d m h
  · rw [Tab.get_ins_other d _ v h, Tab.get_del_other d m h]

theorem Tab.get_put (d : α) (m : Tab α) (j k : Nat) (v : α) :
    Tab.get d (Tab.put d m k v) j = if j = k then v else Tab.get d m j := by
  split
  · rename_i h; subst h; exact Tab.get_put_same d m j v
  · rename_i h; exact Tab.get_put_other d m v h

@[simp] theorem Tab.get_upd_same (d : α) (m : Tab α) (k : Nat) (f : α → α) : Tab.get d (Tab.upd d m k f) k = f (Tab.get d m k) :=
  Tab.get_put_same d m k _

theorem Tab.get_upd_other (d : α) (m : Tab α) {j k : Nat} (f : α → α) (h : j ≠ k) :
    Tab.get d (Tab.upd d m k f) j = Tab.get d m j := Tab.get_put_other d m _ h

/-! ## The canonical form -/

/-- The form, as a statement about every entry. -/
theorem Tab.wf_cons {d : α} {j : Nat} {v : α} {m : Tab α} :
    Tab.wf d ((j, v) :: m) = true ↔ v ≠ d ∧ (∀ p ∈ m, j < p.1) ∧ Tab.wf d m = true := by
  induction m generalizing j v with
  | nil => simp [Tab.wf]
  | cons p m ih =>
    obtain ⟨k, u⟩ := p
    rw [Tab.wf]
    simp only [Bool.and_eq_true, decide_eq_true_eq, bne_iff_ne, ne_eq]
    constructor
    · rintro ⟨⟨hjk, hv⟩, hw⟩
      refine ⟨hv, ?_, hw⟩
      obtain ⟨_, hm, _⟩ := ih.mp hw
      intro p hp
      rcases List.mem_cons.mp hp with rfl | hp
      · exact hjk
      · exact Nat.lt_trans hjk (hm p hp)
    · rintro ⟨hv, hm, hw⟩
      exact ⟨⟨hm (k, u) (by simp), hv⟩, hw⟩

theorem Tab.wf_del (d : α) (m : Tab α) (k : Nat) (h : Tab.wf d m = true) : Tab.wf d (Tab.del m k) = true := by
  induction m with
  | nil => rfl
  | cons p m ih =>
    obtain ⟨j, v⟩ := p
    obtain ⟨hv, hm, hw⟩ := Tab.wf_cons.mp h
    by_cases hj : j = k
    · simpa [Tab.del, List.filter, hj] using ih hw
    · have hk : (j != k) = true := by simpa using hj
      have : Tab.del ((j, v) :: m) k = (j, v) :: Tab.del m k := by simp [Tab.del, List.filter, hk]
      rw [this]
      exact Tab.wf_cons.mpr ⟨hv, fun p hp => hm p (Tab.mem_del.mp hp).1, ih hw⟩

theorem Tab.wf_ins (d : α) (m : Tab α) (k : Nat) (v : α) (hv : v ≠ d) (hk : ∀ p ∈ m, p.1 ≠ k) (h : Tab.wf d m = true) :
    Tab.wf d (Tab.ins m k v) = true := by
  induction m with
  | nil => simp [Tab.ins, Tab.wf, hv]
  | cons p m ih =>
    obtain ⟨j, u⟩ := p
    obtain ⟨hu, hm, hw⟩ := Tab.wf_cons.mp h
    simp only [Tab.ins]
    split
    · rename_i hlt
      refine Tab.wf_cons.mpr ⟨hv, ?_, h⟩
      intro p hp
      rcases List.mem_cons.mp hp with rfl | hp
      · exact hlt
      · exact Nat.lt_trans hlt (hm p hp)
    · rename_i hlt
      have hj : j ≠ k := hk (j, u) (by simp)
      refine Tab.wf_cons.mpr ⟨hu, ?_, ih (fun p hp => hk p (by simp [hp])) hw⟩
      intro p hp
      rcases Tab.mem_ins hp with rfl | hp
      · simp only; omega
      · exact hm p hp

/-- A write keeps the canonical form. -/
theorem Tab.wf_put (d : α) (m : Tab α) (k : Nat) (v : α) (h : Tab.wf d m = true) : Tab.wf d (Tab.put d m k v) = true := by
  unfold Tab.put
  split
  · exact Tab.wf_del d m k h
  · rename_i hv
    exact Tab.wf_ins d _ k v hv (fun p hp => (Tab.mem_del.mp hp).2) (Tab.wf_del d m k h)

/-- Dropping entries keeps the canonical form. -/
theorem Tab.wf_filter (d : α) (m : Tab α) (p : Nat × α → Bool) (h : Tab.wf d m = true) : Tab.wf d (m.filter p) = true := by
  induction m with
  | nil => rfl
  | cons q m ih =>
    obtain ⟨j, v⟩ := q
    obtain ⟨hv, hm, hw⟩ := Tab.wf_cons.mp h
    rw [List.filter_cons]
    split
    · exact Tab.wf_cons.mpr ⟨hv, fun q hq => hm q (List.mem_filter.mp hq).1, ih hw⟩
    · exact ih hw

theorem Tab.wf_upd (d : α) (m : Tab α) (k : Nat) (f : α → α) (h : Tab.wf d m = true) : Tab.wf d (Tab.upd d m k f) = true :=
  Tab.wf_put d m k _ h

end Sys2Proof
end

