-- ==== Sys2Proof/Laws/State.lean ====
section
/-! SUPPORT. What each named update of the state leaves as it was, and what the accessors read after it. -/
namespace Sys2Proof.Machine

/-! ### setReg -/

@[simp] theorem State.setReg_pending (s : State) (o : Nat) (v : W64) : (s.setReg o v).pending = s.pending := rfl
@[simp] theorem State.setReg_now (s : State) (o : Nat) (v : W64) : (s.setReg o v).now = s.now := rfl
@[simp] theorem State.setReg_drawn (s : State) (o : Nat) (v : W64) : (s.setReg o v).drawn = s.drawn := rfl
@[simp] theorem State.setReg_ports (s : State) (o : Nat) (v : W64) : (s.setReg o v).ports = s.ports := rfl
@[simp] theorem State.setReg_host (s : State) (o : Nat) (v : W64) : (s.setReg o v).host = s.host := rfl
@[simp] theorem State.setReg_tl (s : State) (o : Nat) (v : W64) : (s.setReg o v).tl = s.tl := rfl
@[simp] theorem State.setReg_sync (s : State) (o : Nat) (v : W64) : (s.setReg o v).sync = s.sync := rfl
@[simp] theorem State.setReg_cx (s : State) (o : Nat) (v : W64) : (s.setReg o v).cx = s.cx := rfl
@[simp] theorem State.setReg_mem (s : State) (o : Nat) (v : W64) : (s.setReg o v).mem = s.mem := rfl
@[simp] theorem State.setReg_fab (s : State) (o : Nat) (v : W64) : (s.setReg o v).fab = s.fab := rfl
@[simp] theorem State.setReg_flt (s : State) (o : Nat) (v : W64) : (s.setReg o v).flt = s.flt := rfl
@[simp] theorem State.setReg_trn (s : State) (o : Nat) (v : W64) : (s.setReg o v).trn = s.trn := rfl
@[simp] theorem State.setReg_stb (s : State) (o : Nat) (v : W64) : (s.setReg o v).stb = s.stb := rfl
@[simp] theorem State.setReg_coll (s : State) (o : Nat) (v : W64) : (s.setReg o v).coll = s.coll := rfl
@[simp] theorem State.setReg_och (s : State) (o : Nat) (v : W64) : (s.setReg o v).och = s.och := rfl
@[simp] theorem State.setReg_ring (s : State) (o : Nat) (v : W64) : (s.setReg o v).ring = s.ring := rfl
@[simp] theorem State.setReg_boot (s : State) (o : Nat) (v : W64) : (s.setReg o v).boot = s.boot := rfl
@[simp] theorem State.setReg_dom (s : State) (o : Nat) (v : W64) : (s.setReg o v).dom = s.dom := rfl
@[simp] theorem State.setReg_pwr (s : State) (o : Nat) (v : W64) : (s.setReg o v).pwr = s.pwr := rfl

/-! ### setQueue -/

@[simp] theorem State.setQueue_pending (s : State) (q : Nat) (x : Queue) : (s.setQueue q x).pending = s.pending := rfl
@[simp] theorem State.setQueue_now (s : State) (q : Nat) (x : Queue) : (s.setQueue q x).now = s.now := rfl
@[simp] theorem State.setQueue_drawn (s : State) (q : Nat) (x : Queue) : (s.setQueue q x).drawn = s.drawn := rfl
@[simp] theorem State.setQueue_regs (s : State) (q : Nat) (x : Queue) : (s.setQueue q x).regs = s.regs := rfl
@[simp] theorem State.setQueue_ports (s : State) (q : Nat) (x : Queue) : (s.setQueue q x).ports = s.ports := rfl
@[simp] theorem State.setQueue_tl (s : State) (q : Nat) (x : Queue) : (s.setQueue q x).tl = s.tl := rfl
@[simp] theorem State.setQueue_sync (s : State) (q : Nat) (x : Queue) : (s.setQueue q x).sync = s.sync := rfl
@[simp] theorem State.setQueue_cx (s : State) (q : Nat) (x : Queue) : (s.setQueue q x).cx = s.cx := rfl
@[simp] theorem State.setQueue_mem (s : State) (q : Nat) (x : Queue) : (s.setQueue q x).mem = s.mem := rfl
@[simp] theorem State.setQueue_fab (s : State) (q : Nat) (x : Queue) : (s.setQueue q x).fab = s.fab := rfl
@[simp] theorem State.setQueue_flt (s : State) (q : Nat) (x : Queue) : (s.setQueue q x).flt = s.flt := rfl
@[simp] theorem State.setQueue_trn (s : State) (q : Nat) (x : Queue) : (s.setQueue q x).trn = s.trn := rfl
@[simp] theorem State.setQueue_stb (s : State) (q : Nat) (x : Queue) : (s.setQueue q x).stb = s.stb := rfl
@[simp] theorem State.setQueue_coll (s : State) (q : Nat) (x : Queue) : (s.setQueue q x).coll = s.coll := rfl
@[simp] theorem State.setQueue_och (s : State) (q : Nat) (x : Queue) : (s.setQueue q x).och = s.och := rfl
@[simp] theorem State.setQueue_ring (s : State) (q : Nat) (x : Queue) : (s.setQueue q x).ring = s.ring := rfl
@[simp] theorem State.setQueue_boot (s : State) (q : Nat) (x : Queue) : (s.setQueue q x).boot = s.boot := rfl
@[simp] theorem State.setQueue_dom (s : State) (q : Nat) (x : Queue) : (s.setQueue q x).dom = s.dom := rfl
@[simp] theorem State.setQueue_pwr (s : State) (q : Nat) (x : Queue) : (s.setQueue q x).pwr = s.pwr := rfl

/-! ### setSlot -/

@[simp] theorem State.setSlot_pending (s : State) (i : Nat) (x : Slot) : (s.setSlot i x).pending = s.pending := rfl
@[simp] theorem State.setSlot_now (s : State) (i : Nat) (x : Slot) : (s.setSlot i x).now = s.now := rfl
@[simp] theorem State.setSlot_drawn (s : State) (i : Nat) (x : Slot) : (s.setSlot i x).drawn = s.drawn := rfl
@[simp] theorem State.setSlot_regs (s : State) (i : Nat) (x : Slot) : (s.setSlot i x).regs = s.regs := rfl
@[simp] theorem State.setSlot_ports (s : State) (i : Nat) (x : Slot) : (s.setSlot i x).ports = s.ports := rfl
@[simp] theorem State.setSlot_tl (s : State) (i : Nat) (x : Slot) : (s.setSlot i x).tl = s.tl := rfl
@[simp] theorem State.setSlot_sync (s : State) (i : Nat) (x : Slot) : (s.setSlot i x).sync = s.sync := rfl
@[simp] theorem State.setSlot_cx (s : State) (i : Nat) (x : Slot) : (s.setSlot i x).cx = s.cx := rfl
@[simp] theorem State.setSlot_mem (s : State) (i : Nat) (x : Slot) : (s.setSlot i x).mem = s.mem := rfl
@[simp] theorem State.setSlot_fab (s : State) (i : Nat) (x : Slot) : (s.setSlot i x).fab = s.fab := rfl
@[simp] theorem State.setSlot_flt (s : State) (i : Nat) (x : Slot) : (s.setSlot i x).flt = s.flt := rfl
@[simp] theorem State.setSlot_trn (s : State) (i : Nat) (x : Slot) : (s.setSlot i x).trn = s.trn := rfl
@[simp] theorem State.setSlot_stb (s : State) (i : Nat) (x : Slot) : (s.setSlot i x).stb = s.stb := rfl
@[simp] theorem State.setSlot_coll (s : State) (i : Nat) (x : Slot) : (s.setSlot i x).coll = s.coll := rfl
@[simp] theorem State.setSlot_och (s : State) (i : Nat) (x : Slot) : (s.setSlot i x).och = s.och := rfl
@[simp] theorem State.setSlot_ring (s : State) (i : Nat) (x : Slot) : (s.setSlot i x).ring = s.ring := rfl
@[simp] theorem State.setSlot_boot (s : State) (i : Nat) (x : Slot) : (s.setSlot i x).boot = s.boot := rfl
@[simp] theorem State.setSlot_dom (s : State) (i : Nat) (x : Slot) : (s.setSlot i x).dom = s.dom := rfl
@[simp] theorem State.setSlot_pwr (s : State) (i : Nat) (x : Slot) : (s.setSlot i x).pwr = s.pwr := rfl

/-! ### setPort -/

@[simp] theorem State.setPort_pending (s : State) (p : PortId) (x : Port) : (s.setPort p x).pending = s.pending := rfl
@[simp] theorem State.setPort_now (s : State) (p : PortId) (x : Port) : (s.setPort p x).now = s.now := rfl
@[simp] theorem State.setPort_drawn (s : State) (p : PortId) (x : Port) : (s.setPort p x).drawn = s.drawn := rfl
@[simp] theorem State.setPort_regs (s : State) (p : PortId) (x : Port) : (s.setPort p x).regs = s.regs := rfl
@[simp] theorem State.setPort_host (s : State) (p : PortId) (x : Port) : (s.setPort p x).host = s.host := rfl
@[simp] theorem State.setPort_tl (s : State) (p : PortId) (x : Port) : (s.setPort p x).tl = s.tl := rfl
@[simp] theorem State.setPort_sync (s : State) (p : PortId) (x : Port) : (s.setPort p x).sync = s.sync := rfl
@[simp] theorem State.setPort_cx (s : State) (p : PortId) (x : Port) : (s.setPort p x).cx = s.cx := rfl
@[simp] theorem State.setPort_mem (s : State) (p : PortId) (x : Port) : (s.setPort p x).mem = s.mem := rfl
@[simp] theorem State.setPort_fab (s : State) (p : PortId) (x : Port) : (s.setPort p x).fab = s.fab := rfl
@[simp] theorem State.setPort_flt (s : State) (p : PortId) (x : Port) : (s.setPort p x).flt = s.flt := rfl
@[simp] theorem State.setPort_trn (s : State) (p : PortId) (x : Port) : (s.setPort p x).trn = s.trn := rfl
@[simp] theorem State.setPort_stb (s : State) (p : PortId) (x : Port) : (s.setPort p x).stb = s.stb := rfl
@[simp] theorem State.setPort_coll (s : State) (p : PortId) (x : Port) : (s.setPort p x).coll = s.coll := rfl
@[simp] theorem State.setPort_och (s : State) (p : PortId) (x : Port) : (s.setPort p x).och = s.och := rfl
@[simp] theorem State.setPort_ring (s : State) (p : PortId) (x : Port) : (s.setPort p x).ring = s.ring := rfl
@[simp] theorem State.setPort_boot (s : State) (p : PortId) (x : Port) : (s.setPort p x).boot = s.boot := rfl
@[simp] theorem State.setPort_dom (s : State) (p : PortId) (x : Port) : (s.setPort p x).dom = s.dom := rfl
@[simp] theorem State.setPort_pwr (s : State) (p : PortId) (x : Port) : (s.setPort p x).pwr = s.pwr := rfl

/-! ### updPort -/

@[simp] theorem State.updPort_pending (s : State) (p : PortId) (f : Port → Port) : (s.updPort p f).pending = s.pending := rfl
@[simp] theorem State.updPort_now (s : State) (p : PortId) (f : Port → Port) : (s.updPort p f).now = s.now := rfl
@[simp] theorem State.updPort_drawn (s : State) (p : PortId) (f : Port → Port) : (s.updPort p f).drawn = s.drawn := rfl
@[simp] theorem State.updPort_regs (s : State) (p : PortId) (f : Port → Port) : (s.updPort p f).regs = s.regs := rfl
@[simp] theorem State.updPort_host (s : State) (p : PortId) (f : Port → Port) : (s.updPort p f).host = s.host := rfl
@[simp] theorem State.updPort_tl (s : State) (p : PortId) (f : Port → Port) : (s.updPort p f).tl = s.tl := rfl
@[simp] theorem State.updPort_sync (s : State) (p : PortId) (f : Port → Port) : (s.updPort p f).sync = s.sync := rfl
@[simp] theorem State.updPort_cx (s : State) (p : PortId) (f : Port → Port) : (s.updPort p f).cx = s.cx := rfl
@[simp] theorem State.updPort_mem (s : State) (p : PortId) (f : Port → Port) : (s.updPort p f).mem = s.mem := rfl
@[simp] theorem State.updPort_fab (s : State) (p : PortId) (f : Port → Port) : (s.updPort p f).fab = s.fab := rfl
@[simp] theorem State.updPort_flt (s : State) (p : PortId) (f : Port → Port) : (s.updPort p f).flt = s.flt := rfl
@[simp] theorem State.updPort_trn (s : State) (p : PortId) (f : Port → Port) : (s.updPort p f).trn = s.trn := rfl
@[simp] theorem State.updPort_stb (s : State) (p : PortId) (f : Port → Port) : (s.updPort p f).stb = s.stb := rfl
@[simp] theorem State.updPort_coll (s : State) (p : PortId) (f : Port → Port) : (s.updPort p f).coll = s.coll := rfl
@[simp] theorem State.updPort_och (s : State) (p : PortId) (f : Port → Port) : (s.updPort p f).och = s.och := rfl
@[simp] theorem State.updPort_ring (s : State) (p : PortId) (f : Port → Port) : (s.updPort p f).ring = s.ring := rfl
@[simp] theorem State.updPort_boot (s : State) (p : PortId) (f : Port → Port) : (s.updPort p f).boot = s.boot := rfl
@[simp] theorem State.updPort_dom (s : State) (p : PortId) (f : Port → Port) : (s.updPort p f).dom = s.dom := rfl
@[simp] theorem State.updPort_pwr (s : State) (p : PortId) (f : Port → Port) : (s.updPort p f).pwr = s.pwr := rfl

/-! ### updCmd -/

@[simp] theorem State.updCmd_pending (s : State) (q : Nat) (n : W32) (f : Cmd → Cmd) : (s.updCmd q n f).pending = s.pending := rfl
@[simp] theorem State.updCmd_now (s : State) (q : Nat) (n : W32) (f : Cmd → Cmd) : (s.updCmd q n f).now = s.now := rfl
@[simp] theorem State.updCmd_drawn (s : State) (q : Nat) (n : W32) (f : Cmd → Cmd) : (s.updCmd q n f).drawn = s.drawn := rfl
@[simp] theorem State.updCmd_regs (s : State) (q : Nat) (n : W32) (f : Cmd → Cmd) : (s.updCmd q n f).regs = s.regs := rfl
@[simp] theorem State.updCmd_ports (s : State) (q : Nat) (n : W32) (f : Cmd → Cmd) : (s.updCmd q n f).ports = s.ports := rfl
@[simp] theorem State.updCmd_tl (s : State) (q : Nat) (n : W32) (f : Cmd → Cmd) : (s.updCmd q n f).tl = s.tl := rfl
@[simp] theorem State.updCmd_sync (s : State) (q : Nat) (n : W32) (f : Cmd → Cmd) : (s.updCmd q n f).sync = s.sync := rfl
@[simp] theorem State.updCmd_cx (s : State) (q : Nat) (n : W32) (f : Cmd → Cmd) : (s.updCmd q n f).cx = s.cx := rfl
@[simp] theorem State.updCmd_mem (s : State) (q : Nat) (n : W32) (f : Cmd → Cmd) : (s.updCmd q n f).mem = s.mem := rfl
@[simp] theorem State.updCmd_fab (s : State) (q : Nat) (n : W32) (f : Cmd → Cmd) : (s.updCmd q n f).fab = s.fab := rfl
@[simp] theorem State.updCmd_flt (s : State) (q : Nat) (n : W32) (f : Cmd → Cmd) : (s.updCmd q n f).flt = s.flt := rfl
@[simp] theorem State.updCmd_trn (s : State) (q : Nat) (n : W32) (f : Cmd → Cmd) : (s.updCmd q n f).trn = s.trn := rfl
@[simp] theorem State.updCmd_stb (s : State) (q : Nat) (n : W32) (f : Cmd → Cmd) : (s.updCmd q n f).stb = s.stb := rfl
@[simp] theorem State.updCmd_coll (s : State) (q : Nat) (n : W32) (f : Cmd → Cmd) : (s.updCmd q n f).coll = s.coll := rfl
@[simp] theorem State.updCmd_och (s : State) (q : Nat) (n : W32) (f : Cmd → Cmd) : (s.updCmd q n f).och = s.och := rfl
@[simp] theorem State.updCmd_ring (s : State) (q : Nat) (n : W32) (f : Cmd → Cmd) : (s.updCmd q n f).ring = s.ring := rfl
@[simp] theorem State.updCmd_boot (s : State) (q : Nat) (n : W32) (f : Cmd → Cmd) : (s.updCmd q n f).boot = s.boot := rfl
@[simp] theorem State.updCmd_dom (s : State) (q : Nat) (n : W32) (f : Cmd → Cmd) : (s.updCmd q n f).dom = s.dom := rfl
@[simp] theorem State.updCmd_pwr (s : State) (q : Nat) (n : W32) (f : Cmd → Cmd) : (s.updCmd q n f).pwr = s.pwr := rfl

/-! ### endCmd -/

@[simp] theorem State.endCmd_pending (s : State) (q : Nat) (n : W32) (st : W16) (d : List Byte) : (s.endCmd q n st d).pending = s.pending := rfl
@[simp] theorem State.endCmd_now (s : State) (q : Nat) (n : W32) (st : W16) (d : List Byte) : (s.endCmd q n st d).now = s.now := rfl
@[simp] theorem State.endCmd_drawn (s : State) (q : Nat) (n : W32) (st : W16) (d : List Byte) : (s.endCmd q n st d).drawn = s.drawn := rfl
@[simp] theorem State.endCmd_regs (s : State) (q : Nat) (n : W32) (st : W16) (d : List Byte) : (s.endCmd q n st d).regs = s.regs := rfl
@[simp] theorem State.endCmd_ports (s : State) (q : Nat) (n : W32) (st : W16) (d : List Byte) : (s.endCmd q n st d).ports = s.ports := rfl
@[simp] theorem State.endCmd_tl (s : State) (q : Nat) (n : W32) (st : W16) (d : List Byte) : (s.endCmd q n st d).tl = s.tl := rfl
@[simp] theorem State.endCmd_sync (s : State) (q : Nat) (n : W32) (st : W16) (d : List Byte) : (s.endCmd q n st d).sync = s.sync := rfl
@[simp] theorem State.endCmd_cx (s : State) (q : Nat) (n : W32) (st : W16) (d : List Byte) : (s.endCmd q n st d).cx = s.cx := rfl
@[simp] theorem State.endCmd_mem (s : State) (q : Nat) (n : W32) (st : W16) (d : List Byte) : (s.endCmd q n st d).mem = s.mem := rfl
@[simp] theorem State.endCmd_fab (s : State) (q : Nat) (n : W32) (st : W16) (d : List Byte) : (s.endCmd q n st d).fab = s.fab := rfl
@[simp] theorem State.endCmd_flt (s : State) (q : Nat) (n : W32) (st : W16) (d : List Byte) : (s.endCmd q n st d).flt = s.flt := rfl
@[simp] theorem State.endCmd_trn (s : State) (q : Nat) (n : W32) (st : W16) (d : List Byte) : (s.endCmd q n st d).trn = s.trn := rfl
@[simp] theorem State.endCmd_stb (s : State) (q : Nat) (n : W32) (st : W16) (d : List Byte) : (s.endCmd q n st d).stb = s.stb := rfl
@[simp] theorem State.endCmd_coll (s : State) (q : Nat) (n : W32) (st : W16) (d : List Byte) : (s.endCmd q n st d).coll = s.coll := rfl
@[simp] theorem State.endCmd_och (s : State) (q : Nat) (n : W32) (st : W16) (d : List Byte) : (s.endCmd q n st d).och = s.och := rfl
@[simp] theorem State.endCmd_ring (s : State) (q : Nat) (n : W32) (st : W16) (d : List Byte) : (s.endCmd q n st d).ring = s.ring := rfl
@[simp] theorem State.endCmd_boot (s : State) (q : Nat) (n : W32) (st : W16) (d : List Byte) : (s.endCmd q n st d).boot = s.boot := rfl
@[simp] theorem State.endCmd_dom (s : State) (q : Nat) (n : W32) (st : W16) (d : List Byte) : (s.endCmd q n st d).dom = s.dom := rfl
@[simp] theorem State.endCmd_pwr (s : State) (q : Nat) (n : W32) (st : W16) (d : List Byte) : (s.endCmd q n st d).pwr = s.pwr := rfl

/-! ### postUp -/

@[simp] theorem State.postUp_pending (s : State) (k : Packet) : (s.postUp k).pending = s.pending := rfl
@[simp] theorem State.postUp_now (s : State) (k : Packet) : (s.postUp k).now = s.now := rfl
@[simp] theorem State.postUp_drawn (s : State) (k : Packet) : (s.postUp k).drawn = s.drawn := rfl
@[simp] theorem State.postUp_regs (s : State) (k : Packet) : (s.postUp k).regs = s.regs := rfl
@[simp] theorem State.postUp_ports (s : State) (k : Packet) : (s.postUp k).ports = s.ports := rfl
@[simp] theorem State.postUp_tl (s : State) (k : Packet) : (s.postUp k).tl = s.tl := rfl
@[simp] theorem State.postUp_sync (s : State) (k : Packet) : (s.postUp k).sync = s.sync := rfl
@[simp] theorem State.postUp_cx (s : State) (k : Packet) : (s.postUp k).cx = s.cx := rfl
@[simp] theorem State.postUp_mem (s : State) (k : Packet) : (s.postUp k).mem = s.mem := rfl
@[simp] theorem State.postUp_fab (s : State) (k : Packet) : (s.postUp k).fab = s.fab := rfl
@[simp] theorem State.postUp_flt (s : State) (k : Packet) : (s.postUp k).flt = s.flt := rfl
@[simp] theorem State.postUp_trn (s : State) (k : Packet) : (s.postUp k).trn = s.trn := rfl
@[simp] theorem State.postUp_stb (s : State) (k : Packet) : (s.postUp k).stb = s.stb := rfl
@[simp] theorem State.postUp_coll (s : State) (k : Packet) : (s.postUp k).coll = s.coll := rfl
@[simp] theorem State.postUp_och (s : State) (k : Packet) : (s.postUp k).och = s.och := rfl
@[simp] theorem State.postUp_ring (s : State) (k : Packet) : (s.postUp k).ring = s.ring := rfl
@[simp] theorem State.postUp_boot (s : State) (k : Packet) : (s.postUp k).boot = s.boot := rfl
@[simp] theorem State.postUp_dom (s : State) (k : Packet) : (s.postUp k).dom = s.dom := rfl
@[simp] theorem State.postUp_pwr (s : State) (k : Packet) : (s.postUp k).pwr = s.pwr := rfl

/-! ### postDown -/

@[simp] theorem State.postDown_pending (s : State) (k : Packet) : (s.postDown k).pending = s.pending := rfl
@[simp] theorem State.postDown_now (s : State) (k : Packet) : (s.postDown k).now = s.now := rfl
@[simp] theorem State.postDown_drawn (s : State) (k : Packet) : (s.postDown k).drawn = s.drawn := rfl
@[simp] theorem State.postDown_regs (s : State) (k : Packet) : (s.postDown k).regs = s.regs := rfl
@[simp] theorem State.postDown_ports (s : State) (k : Packet) : (s.postDown k).ports = s.ports := rfl
@[simp] theorem State.postDown_tl (s : State) (k : Packet) : (s.postDown k).tl = s.tl := rfl
@[simp] theorem State.postDown_sync (s : State) (k : Packet) : (s.postDown k).sync = s.sync := rfl
@[simp] theorem State.postDown_cx (s : State) (k : Packet) : (s.postDown k).cx = s.cx := rfl
@[simp] theorem State.postDown_mem (s : State) (k : Packet) : (s.postDown k).mem = s.mem := rfl
@[simp] theorem State.postDown_fab (s : State) (k : Packet) : (s.postDown k).fab = s.fab := rfl
@[simp] theorem State.postDown_flt (s : State) (k : Packet) : (s.postDown k).flt = s.flt := rfl
@[simp] theorem State.postDown_trn (s : State) (k : Packet) : (s.postDown k).trn = s.trn := rfl
@[simp] theorem State.postDown_stb (s : State) (k : Packet) : (s.postDown k).stb = s.stb := rfl
@[simp] theorem State.postDown_coll (s : State) (k : Packet) : (s.postDown k).coll = s.coll := rfl
@[simp] theorem State.postDown_och (s : State) (k : Packet) : (s.postDown k).och = s.och := rfl
@[simp] theorem State.postDown_ring (s : State) (k : Packet) : (s.postDown k).ring = s.ring := rfl
@[simp] theorem State.postDown_boot (s : State) (k : Packet) : (s.postDown k).boot = s.boot := rfl
@[simp] theorem State.postDown_dom (s : State) (k : Packet) : (s.postDown k).dom = s.dom := rfl
@[simp] theorem State.postDown_pwr (s : State) (k : Packet) : (s.postDown k).pwr = s.pwr := rfl

/-! ### errCount -/

@[simp] theorem State.errCount_pending (s : State) (i n : Nat) : (s.errCount i n).pending = s.pending := rfl
@[simp] theorem State.errCount_now (s : State) (i n : Nat) : (s.errCount i n).now = s.now := rfl
@[simp] theorem State.errCount_drawn (s : State) (i n : Nat) : (s.errCount i n).drawn = s.drawn := rfl
@[simp] theorem State.errCount_regs (s : State) (i n : Nat) : (s.errCount i n).regs = s.regs := rfl
@[simp] theorem State.errCount_ports (s : State) (i n : Nat) : (s.errCount i n).ports = s.ports := rfl
@[simp] theorem State.errCount_tl (s : State) (i n : Nat) : (s.errCount i n).tl = s.tl := rfl
@[simp] theorem State.errCount_sync (s : State) (i n : Nat) : (s.errCount i n).sync = s.sync := rfl
@[simp] theorem State.errCount_cx (s : State) (i n : Nat) : (s.errCount i n).cx = s.cx := rfl
@[simp] theorem State.errCount_mem (s : State) (i n : Nat) : (s.errCount i n).mem = s.mem := rfl
@[simp] theorem State.errCount_fab (s : State) (i n : Nat) : (s.errCount i n).fab = s.fab := rfl
@[simp] theorem State.errCount_flt (s : State) (i n : Nat) : (s.errCount i n).flt = s.flt := rfl
@[simp] theorem State.errCount_trn (s : State) (i n : Nat) : (s.errCount i n).trn = s.trn := rfl
@[simp] theorem State.errCount_stb (s : State) (i n : Nat) : (s.errCount i n).stb = s.stb := rfl
@[simp] theorem State.errCount_coll (s : State) (i n : Nat) : (s.errCount i n).coll = s.coll := rfl
@[simp] theorem State.errCount_och (s : State) (i n : Nat) : (s.errCount i n).och = s.och := rfl
@[simp] theorem State.errCount_ring (s : State) (i n : Nat) : (s.errCount i n).ring = s.ring := rfl
@[simp] theorem State.errCount_boot (s : State) (i n : Nat) : (s.errCount i n).boot = s.boot := rfl
@[simp] theorem State.errCount_dom (s : State) (i n : Nat) : (s.errCount i n).dom = s.dom := rfl
@[simp] theorem State.errCount_pwr (s : State) (i n : Nat) : (s.errCount i n).pwr = s.pwr := rfl

/-! ### setTile -/

@[simp] theorem State.setTile_pending (s : State) (t : Nat) (x : Tile) : (s.setTile t x).pending = s.pending := rfl
@[simp] theorem State.setTile_now (s : State) (t : Nat) (x : Tile) : (s.setTile t x).now = s.now := rfl
@[simp] theorem State.setTile_drawn (s : State) (t : Nat) (x : Tile) : (s.setTile t x).drawn = s.drawn := rfl
@[simp] theorem State.setTile_regs (s : State) (t : Nat) (x : Tile) : (s.setTile t x).regs = s.regs := rfl
@[simp] theorem State.setTile_ports (s : State) (t : Nat) (x : Tile) : (s.setTile t x).ports = s.ports := rfl
@[simp] theorem State.setTile_host (s : State) (t : Nat) (x : Tile) : (s.setTile t x).host = s.host := rfl
@[simp] theorem State.setTile_sync (s : State) (t : Nat) (x : Tile) : (s.setTile t x).sync = s.sync := rfl
@[simp] theorem State.setTile_cx (s : State) (t : Nat) (x : Tile) : (s.setTile t x).cx = s.cx := rfl
@[simp] theorem State.setTile_mem (s : State) (t : Nat) (x : Tile) : (s.setTile t x).mem = s.mem := rfl
@[simp] theorem State.setTile_fab (s : State) (t : Nat) (x : Tile) : (s.setTile t x).fab = s.fab := rfl
@[simp] theorem State.setTile_flt (s : State) (t : Nat) (x : Tile) : (s.setTile t x).flt = s.flt := rfl
@[simp] theorem State.setTile_trn (s : State) (t : Nat) (x : Tile) : (s.setTile t x).trn = s.trn := rfl
@[simp] theorem State.setTile_stb (s : State) (t : Nat) (x : Tile) : (s.setTile t x).stb = s.stb := rfl
@[simp] theorem State.setTile_coll (s : State) (t : Nat) (x : Tile) : (s.setTile t x).coll = s.coll := rfl
@[simp] theorem State.setTile_och (s : State) (t : Nat) (x : Tile) : (s.setTile t x).och = s.och := rfl
@[simp] theorem State.setTile_ring (s : State) (t : Nat) (x : Tile) : (s.setTile t x).ring = s.ring := rfl
@[simp] theorem State.setTile_boot (s : State) (t : Nat) (x : Tile) : (s.setTile t x).boot = s.boot := rfl
@[simp] theorem State.setTile_dom (s : State) (t : Nat) (x : Tile) : (s.setTile t x).dom = s.dom := rfl
@[simp] theorem State.setTile_pwr (s : State) (t : Nat) (x : Tile) : (s.setTile t x).pwr = s.pwr := rfl

/-! ### updTile -/

@[simp] theorem State.updTile_pending (s : State) (t : Nat) (f : Tile → Tile) : (s.updTile t f).pending = s.pending := rfl
@[simp] theorem State.updTile_now (s : State) (t : Nat) (f : Tile → Tile) : (s.updTile t f).now = s.now := rfl
@[simp] theorem State.updTile_drawn (s : State) (t : Nat) (f : Tile → Tile) : (s.updTile t f).drawn = s.drawn := rfl
@[simp] theorem State.updTile_regs (s : State) (t : Nat) (f : Tile → Tile) : (s.updTile t f).regs = s.regs := rfl
@[simp] theorem State.updTile_ports (s : State) (t : Nat) (f : Tile → Tile) : (s.updTile t f).ports = s.ports := rfl
@[simp] theorem State.updTile_host (s : State) (t : Nat) (f : Tile → Tile) : (s.updTile t f).host = s.host := rfl
@[simp] theorem State.updTile_sync (s : State) (t : Nat) (f : Tile → Tile) : (s.updTile t f).sync = s.sync := rfl
@[simp] theorem State.updTile_cx (s : State) (t : Nat) (f : Tile → Tile) : (s.updTile t f).cx = s.cx := rfl
@[simp] theorem State.updTile_mem (s : State) (t : Nat) (f : Tile → Tile) : (s.updTile t f).mem = s.mem := rfl
@[simp] theorem State.updTile_fab (s : State) (t : Nat) (f : Tile → Tile) : (s.updTile t f).fab = s.fab := rfl
@[simp] theorem State.updTile_flt (s : State) (t : Nat) (f : Tile → Tile) : (s.updTile t f).flt = s.flt := rfl
@[simp] theorem State.updTile_trn (s : State) (t : Nat) (f : Tile → Tile) : (s.updTile t f).trn = s.trn := rfl
@[simp] theorem State.updTile_stb (s : State) (t : Nat) (f : Tile → Tile) : (s.updTile t f).stb = s.stb := rfl
@[simp] theorem State.updTile_coll (s : State) (t : Nat) (f : Tile → Tile) : (s.updTile t f).coll = s.coll := rfl
@[simp] theorem State.updTile_och (s : State) (t : Nat) (f : Tile → Tile) : (s.updTile t f).och = s.och := rfl
@[simp] theorem State.updTile_ring (s : State) (t : Nat) (f : Tile → Tile) : (s.updTile t f).ring = s.ring := rfl
@[simp] theorem State.updTile_boot (s : State) (t : Nat) (f : Tile → Tile) : (s.updTile t f).boot = s.boot := rfl
@[simp] theorem State.updTile_dom (s : State) (t : Nat) (f : Tile → Tile) : (s.updTile t f).dom = s.dom := rfl
@[simp] theorem State.updTile_pwr (s : State) (t : Nat) (f : Tile → Tile) : (s.updTile t f).pwr = s.pwr := rfl

/-! ### updLaunch -/

@[simp] theorem State.updLaunch_pending (s : State) (q : Nat) (n : W32) (f : Launch → Launch) : (s.updLaunch q n f).pending = s.pending := rfl
@[simp] theorem State.updLaunch_now (s : State) (q : Nat) (n : W32) (f : Launch → Launch) : (s.updLaunch q n f).now = s.now := rfl
@[simp] theorem State.updLaunch_drawn (s : State) (q : Nat) (n : W32) (f : Launch → Launch) : (s.updLaunch q n f).drawn = s.drawn := rfl
@[simp] theorem State.updLaunch_regs (s : State) (q : Nat) (n : W32) (f : Launch → Launch) : (s.updLaunch q n f).regs = s.regs := rfl
@[simp] theorem State.updLaunch_ports (s : State) (q : Nat) (n : W32) (f : Launch → Launch) : (s.updLaunch q n f).ports = s.ports := rfl
@[simp] theorem State.updLaunch_host (s : State) (q : Nat) (n : W32) (f : Launch → Launch) : (s.updLaunch q n f).host = s.host := rfl
@[simp] theorem State.updLaunch_sync (s : State) (q : Nat) (n : W32) (f : Launch → Launch) : (s.updLaunch q n f).sync = s.sync := rfl
@[simp] theorem State.updLaunch_cx (s : State) (q : Nat) (n : W32) (f : Launch → Launch) : (s.updLaunch q n f).cx = s.cx := rfl
@[simp] theorem State.updLaunch_mem (s : State) (q : Nat) (n : W32) (f : Launch → Launch) : (s.updLaunch q n f).mem = s.mem := rfl
@[simp] theorem State.updLaunch_fab (s : State) (q : Nat) (n : W32) (f : Launch → Launch) : (s.updLaunch q n f).fab = s.fab := rfl
@[simp] theorem State.updLaunch_flt (s : State) (q : Nat) (n : W32) (f : Launch → Launch) : (s.updLaunch q n f).flt = s.flt := rfl
@[simp] theorem State.updLaunch_trn (s : State) (q : Nat) (n : W32) (f : Launch → Launch) : (s.updLaunch q n f).trn = s.trn := rfl
@[simp] theorem State.updLaunch_stb (s : State) (q : Nat) (n : W32) (f : Launch → Launch) : (s.updLaunch q n f).stb = s.stb := rfl
@[simp] theorem State.updLaunch_coll (s : State) (q : Nat) (n : W32) (f : Launch → Launch) : (s.updLaunch q n f).coll = s.coll := rfl
@[simp] theorem State.updLaunch_och (s : State) (q : Nat) (n : W32) (f : Launch → Launch) : (s.updLaunch q n f).och = s.och := rfl
@[simp] theorem State.updLaunch_ring (s : State) (q : Nat) (n : W32) (f : Launch → Launch) : (s.updLaunch q n f).ring = s.ring := rfl
@[simp] theorem State.updLaunch_boot (s : State) (q : Nat) (n : W32) (f : Launch → Launch) : (s.updLaunch q n f).boot = s.boot := rfl
@[simp] theorem State.updLaunch_dom (s : State) (q : Nat) (n : W32) (f : Launch → Launch) : (s.updLaunch q n f).dom = s.dom := rfl
@[simp] theorem State.updLaunch_pwr (s : State) (q : Nat) (n : W32) (f : Launch → Launch) : (s.updLaunch q n f).pwr = s.pwr := rfl

/-! ### setCluster -/

@[simp] theorem State.setCluster_pending (s : State) (c : Nat) (x : Cluster) : (s.setCluster c x).pending = s.pending := rfl
@[simp] theorem State.setCluster_now (s : State) (c : Nat) (x : Cluster) : (s.setCluster c x).now = s.now := rfl
@[simp] theorem State.setCluster_drawn (s : State) (c : Nat) (x : Cluster) : (s.setCluster c x).drawn = s.drawn := rfl
@[simp] theorem State.setCluster_regs (s : State) (c : Nat) (x : Cluster) : (s.setCluster c x).regs = s.regs := rfl
@[simp] theorem State.setCluster_ports (s : State) (c : Nat) (x : Cluster) : (s.setCluster c x).ports = s.ports := rfl
@[simp] theorem State.setCluster_host (s : State) (c : Nat) (x : Cluster) : (s.setCluster c x).host = s.host := rfl
@[simp] theorem State.setCluster_tl (s : State) (c : Nat) (x : Cluster) : (s.setCluster c x).tl = s.tl := rfl
@[simp] theorem State.setCluster_sync (s : State) (c : Nat) (x : Cluster) : (s.setCluster c x).sync = s.sync := rfl
@[simp] theorem State.setCluster_cx (s : State) (c : Nat) (x : Cluster) : (s.setCluster c x).cx = s.cx := rfl
@[simp] theorem State.setCluster_mem (s : State) (c : Nat) (x : Cluster) : (s.setCluster c x).mem = s.mem := rfl
@[simp] theorem State.setCluster_fab (s : State) (c : Nat) (x : Cluster) : (s.setCluster c x).fab = s.fab := rfl
@[simp] theorem State.setCluster_trn (s : State) (c : Nat) (x : Cluster) : (s.setCluster c x).trn = s.trn := rfl
@[simp] theorem State.setCluster_stb (s : State) (c : Nat) (x : Cluster) : (s.setCluster c x).stb = s.stb := rfl
@[simp] theorem State.setCluster_coll (s : State) (c : Nat) (x : Cluster) : (s.setCluster c x).coll = s.coll := rfl
@[simp] theorem State.setCluster_och (s : State) (c : Nat) (x : Cluster) : (s.setCluster c x).och = s.och := rfl
@[simp] theorem State.setCluster_ring (s : State) (c : Nat) (x : Cluster) : (s.setCluster c x).ring = s.ring := rfl
@[simp] theorem State.setCluster_boot (s : State) (c : Nat) (x : Cluster) : (s.setCluster c x).boot = s.boot := rfl
@[simp] theorem State.setCluster_dom (s : State) (c : Nat) (x : Cluster) : (s.setCluster c x).dom = s.dom := rfl
@[simp] theorem State.setCluster_pwr (s : State) (c : Nat) (x : Cluster) : (s.setCluster c x).pwr = s.pwr := rfl

/-! ### updCluster -/

@[simp] theorem State.updCluster_pending (s : State) (c : Nat) (f : Cluster → Cluster) : (s.updCluster c f).pending = s.pending := rfl
@[simp] theorem State.updCluster_now (s : State) (c : Nat) (f : Cluster → Cluster) : (s.updCluster c f).now = s.now := rfl
@[simp] theorem State.updCluster_drawn (s : State) (c : Nat) (f : Cluster → Cluster) : (s.updCluster c f).drawn = s.drawn := rfl
@[simp] theorem State.updCluster_regs (s : State) (c : Nat) (f : Cluster → Cluster) : (s.updCluster c f).regs = s.regs := rfl
@[simp] theorem State.updCluster_ports (s : State) (c : Nat) (f : Cluster → Cluster) : (s.updCluster c f).ports = s.ports := rfl
@[simp] theorem State.updCluster_host (s : State) (c : Nat) (f : Cluster → Cluster) : (s.updCluster c f).host = s.host := rfl
@[simp] theorem State.updCluster_tl (s : State) (c : Nat) (f : Cluster → Cluster) : (s.updCluster c f).tl = s.tl := rfl
@[simp] theorem State.updCluster_sync (s : State) (c : Nat) (f : Cluster → Cluster) : (s.updCluster c f).sync = s.sync := rfl
@[simp] theorem State.updCluster_cx (s : State) (c : Nat) (f : Cluster → Cluster) : (s.updCluster c f).cx = s.cx := rfl
@[simp] theorem State.updCluster_mem (s : State) (c : Nat) (f : Cluster → Cluster) : (s.updCluster c f).mem = s.mem := rfl
@[simp] theorem State.updCluster_fab (s : State) (c : Nat) (f : Cluster → Cluster) : (s.updCluster c f).fab = s.fab := rfl
@[simp] theorem State.updCluster_trn (s : State) (c : Nat) (f : Cluster → Cluster) : (s.updCluster c f).trn = s.trn := rfl
@[simp] theorem State.updCluster_stb (s : State) (c : Nat) (f : Cluster → Cluster) : (s.updCluster c f).stb = s.stb := rfl
@[simp] theorem State.updCluster_coll (s : State) (c : Nat) (f : Cluster → Cluster) : (s.updCluster c f).coll = s.coll := rfl
@[simp] theorem State.updCluster_och (s : State) (c : Nat) (f : Cluster → Cluster) : (s.updCluster c f).och = s.och := rfl
@[simp] theorem State.updCluster_ring (s : State) (c : Nat) (f : Cluster → Cluster) : (s.updCluster c f).ring = s.ring := rfl
@[simp] theorem State.updCluster_boot (s : State) (c : Nat) (f : Cluster → Cluster) : (s.updCluster c f).boot = s.boot := rfl
@[simp] theorem State.updCluster_dom (s : State) (c : Nat) (f : Cluster → Cluster) : (s.updCluster c f).dom = s.dom := rfl
@[simp] theorem State.updCluster_pwr (s : State) (c : Nat) (f : Cluster → Cluster) : (s.updCluster c f).pwr = s.pwr := rfl

/-! ### count -/

@[simp] theorem State.count_pending (s : State) (n k : Nat) : (s.count n k).pending = s.pending := rfl
@[simp] theorem State.count_now (s : State) (n k : Nat) : (s.count n k).now = s.now := rfl
@[simp] theorem State.count_drawn (s : State) (n k : Nat) : (s.count n k).drawn = s.drawn := rfl
@[simp] theorem State.count_regs (s : State) (n k : Nat) : (s.count n k).regs = s.regs := rfl
@[simp] theorem State.count_ports (s : State) (n k : Nat) : (s.count n k).ports = s.ports := rfl
@[simp] theorem State.count_host (s : State) (n k : Nat) : (s.count n k).host = s.host := rfl
@[simp] theorem State.count_tl (s : State) (n k : Nat) : (s.count n k).tl = s.tl := rfl
@[simp] theorem State.count_sync (s : State) (n k : Nat) : (s.count n k).sync = s.sync := rfl
@[simp] theorem State.count_cx (s : State) (n k : Nat) : (s.count n k).cx = s.cx := rfl
@[simp] theorem State.count_mem (s : State) (n k : Nat) : (s.count n k).mem = s.mem := rfl
@[simp] theorem State.count_fab (s : State) (n k : Nat) : (s.count n k).fab = s.fab := rfl
@[simp] theorem State.count_trn (s : State) (n k : Nat) : (s.count n k).trn = s.trn := rfl
@[simp] theorem State.count_stb (s : State) (n k : Nat) : (s.count n k).stb = s.stb := rfl
@[simp] theorem State.count_coll (s : State) (n k : Nat) : (s.count n k).coll = s.coll := rfl
@[simp] theorem State.count_och (s : State) (n k : Nat) : (s.count n k).och = s.och := rfl
@[simp] theorem State.count_ring (s : State) (n k : Nat) : (s.count n k).ring = s.ring := rfl
@[simp] theorem State.count_boot (s : State) (n k : Nat) : (s.count n k).boot = s.boot := rfl
@[simp] theorem State.count_dom (s : State) (n k : Nat) : (s.count n k).dom = s.dom := rfl
@[simp] theorem State.count_pwr (s : State) (n k : Nat) : (s.count n k).pwr = s.pwr := rfl

/-! ### setObj -/

@[simp] theorem State.setObj_pending (s : State) (i : Nat) (v : W32) : (s.setObj i v).pending = s.pending := rfl
@[simp] theorem State.setObj_now (s : State) (i : Nat) (v : W32) : (s.setObj i v).now = s.now := rfl
@[simp] theorem State.setObj_drawn (s : State) (i : Nat) (v : W32) : (s.setObj i v).drawn = s.drawn := rfl
@[simp] theorem State.setObj_regs (s : State) (i : Nat) (v : W32) : (s.setObj i v).regs = s.regs := rfl
@[simp] theorem State.setObj_ports (s : State) (i : Nat) (v : W32) : (s.setObj i v).ports = s.ports := rfl
@[simp] theorem State.setObj_host (s : State) (i : Nat) (v : W32) : (s.setObj i v).host = s.host := rfl
@[simp] theorem State.setObj_tl (s : State) (i : Nat) (v : W32) : (s.setObj i v).tl = s.tl := rfl
@[simp] theorem State.setObj_cx (s : State) (i : Nat) (v : W32) : (s.setObj i v).cx = s.cx := rfl
@[simp] theorem State.setObj_mem (s : State) (i : Nat) (v : W32) : (s.setObj i v).mem = s.mem := rfl
@[simp] theorem State.setObj_fab (s : State) (i : Nat) (v : W32) : (s.setObj i v).fab = s.fab := rfl
@[simp] theorem State.setObj_flt (s : State) (i : Nat) (v : W32) : (s.setObj i v).flt = s.flt := rfl
@[simp] theorem State.setObj_trn (s : State) (i : Nat) (v : W32) : (s.setObj i v).trn = s.trn := rfl
@[simp] theorem State.setObj_stb (s : State) (i : Nat) (v : W32) : (s.setObj i v).stb = s.stb := rfl
@[simp] theorem State.setObj_coll (s : State) (i : Nat) (v : W32) : (s.setObj i v).coll = s.coll := rfl
@[simp] theorem State.setObj_och (s : State) (i : Nat) (v : W32) : (s.setObj i v).och = s.och := rfl
@[simp] theorem State.setObj_ring (s : State) (i : Nat) (v : W32) : (s.setObj i v).ring = s.ring := rfl
@[simp] theorem State.setObj_boot (s : State) (i : Nat) (v : W32) : (s.setObj i v).boot = s.boot := rfl
@[simp] theorem State.setObj_dom (s : State) (i : Nat) (v : W32) : (s.setObj i v).dom = s.dom := rfl
@[simp] theorem State.setObj_pwr (s : State) (i : Nat) (v : W32) : (s.setObj i v).pwr = s.pwr := rfl

/-! ### signal -/

@[simp] theorem State.signal_pending (s : State) (g : Signal) : (s.signal g).pending = s.pending := rfl
@[simp] theorem State.signal_now (s : State) (g : Signal) : (s.signal g).now = s.now := rfl
@[simp] theorem State.signal_drawn (s : State) (g : Signal) : (s.signal g).drawn = s.drawn := rfl
@[simp] theorem State.signal_regs (s : State) (g : Signal) : (s.signal g).regs = s.regs := rfl
@[simp] theorem State.signal_ports (s : State) (g : Signal) : (s.signal g).ports = s.ports := rfl
@[simp] theorem State.signal_host (s : State) (g : Signal) : (s.signal g).host = s.host := rfl
@[simp] theorem State.signal_tl (s : State) (g : Signal) : (s.signal g).tl = s.tl := rfl
@[simp] theorem State.signal_cx (s : State) (g : Signal) : (s.signal g).cx = s.cx := rfl
@[simp] theorem State.signal_mem (s : State) (g : Signal) : (s.signal g).mem = s.mem := rfl
@[simp] theorem State.signal_fab (s : State) (g : Signal) : (s.signal g).fab = s.fab := rfl
@[simp] theorem State.signal_flt (s : State) (g : Signal) : (s.signal g).flt = s.flt := rfl
@[simp] theorem State.signal_trn (s : State) (g : Signal) : (s.signal g).trn = s.trn := rfl
@[simp] theorem State.signal_stb (s : State) (g : Signal) : (s.signal g).stb = s.stb := rfl
@[simp] theorem State.signal_coll (s : State) (g : Signal) : (s.signal g).coll = s.coll := rfl
@[simp] theorem State.signal_och (s : State) (g : Signal) : (s.signal g).och = s.och := rfl
@[simp] theorem State.signal_ring (s : State) (g : Signal) : (s.signal g).ring = s.ring := rfl
@[simp] theorem State.signal_boot (s : State) (g : Signal) : (s.signal g).boot = s.boot := rfl
@[simp] theorem State.signal_dom (s : State) (g : Signal) : (s.signal g).dom = s.dom := rfl
@[simp] theorem State.signal_pwr (s : State) (g : Signal) : (s.signal g).pwr = s.pwr := rfl

/-! ### sendMsg -/

/-- A message changes what the fabric keeps, and nothing else. -/
theorem State.sendMsg_frame (s : State) (d : BitVec 12) (m : Msg) : s.sendMsg d m = { s with fab := (s.sendMsg d m).fab } := by
  unfold State.sendMsg
  split
  · rfl
  · rename_i n _
    generalize List.range (bulkParts n) = l
    induction l generalizing s with
    | nil => rfl
    | cons i l ih => rw [List.foldl_cons, ih]; rfl

/-- A message without data is one packet of the signal lane. -/
theorem State.sendMsg_ctl (s : State) (d : BitVec 12) (m : Msg) (h : m.load = none) : s.sendMsg d m = (s.fabSend d (.ctl m)).1 := by
  unfold State.sendMsg
  rw [h]

@[simp] theorem State.sendMsg_pending (s : State) (d : BitVec 12) (m : Msg) : (s.sendMsg d m).pending = s.pending := by rw [State.sendMsg_frame]
@[simp] theorem State.sendMsg_now (s : State) (d : BitVec 12) (m : Msg) : (s.sendMsg d m).now = s.now := by rw [State.sendMsg_frame]
@[simp] theorem State.sendMsg_drawn (s : State) (d : BitVec 12) (m : Msg) : (s.sendMsg d m).drawn = s.drawn := by rw [State.sendMsg_frame]
@[simp] theorem State.sendMsg_regs (s : State) (d : BitVec 12) (m : Msg) : (s.sendMsg d m).regs = s.regs := by rw [State.sendMsg_frame]
@[simp] theorem State.sendMsg_ports (s : State) (d : BitVec 12) (m : Msg) : (s.sendMsg d m).ports = s.ports := by rw [State.sendMsg_frame]
@[simp] theorem State.sendMsg_host (s : State) (d : BitVec 12) (m : Msg) : (s.sendMsg d m).host = s.host := by rw [State.sendMsg_frame]
@[simp] theorem State.sendMsg_tl (s : State) (d : BitVec 12) (m : Msg) : (s.sendMsg d m).tl = s.tl := by rw [State.sendMsg_frame]
@[simp] theorem State.sendMsg_sync (s : State) (d : BitVec 12) (m : Msg) : (s.sendMsg d m).sync = s.sync := by rw [State.sendMsg_frame]
@[simp] theorem State.sendMsg_cx (s : State) (d : BitVec 12) (m : Msg) : (s.sendMsg d m).cx = s.cx := by rw [State.sendMsg_frame]
@[simp] theorem State.sendMsg_mem (s : State) (d : BitVec 12) (m : Msg) : (s.sendMsg d m).mem = s.mem := by rw [State.sendMsg_frame]
@[simp] theorem State.sendMsg_flt (s : State) (d : BitVec 12) (m : Msg) : (s.sendMsg d m).flt = s.flt := by rw [State.sendMsg_frame]
@[simp] theorem State.sendMsg_trn (s : State) (d : BitVec 12) (m : Msg) : (s.sendMsg d m).trn = s.trn := by rw [State.sendMsg_frame]
@[simp] theorem State.sendMsg_stb (s : State) (d : BitVec 12) (m : Msg) : (s.sendMsg d m).stb = s.stb := by rw [State.sendMsg_frame]
@[simp] theorem State.sendMsg_coll (s : State) (d : BitVec 12) (m : Msg) : (s.sendMsg d m).coll = s.coll := by rw [State.sendMsg_frame]
@[simp] theorem State.sendMsg_och (s : State) (d : BitVec 12) (m : Msg) : (s.sendMsg d m).och = s.och := by rw [State.sendMsg_frame]
@[simp] theorem State.sendMsg_ring (s : State) (d : BitVec 12) (m : Msg) : (s.sendMsg d m).ring = s.ring := by rw [State.sendMsg_frame]
@[simp] theorem State.sendMsg_boot (s : State) (d : BitVec 12) (m : Msg) : (s.sendMsg d m).boot = s.boot := by rw [State.sendMsg_frame]
@[simp] theorem State.sendMsg_dom (s : State) (d : BitVec 12) (m : Msg) : (s.sendMsg d m).dom = s.dom := by rw [State.sendMsg_frame]
@[simp] theorem State.sendMsg_pwr (s : State) (d : BitVec 12) (m : Msg) : (s.sendMsg d m).pwr = s.pwr := by rw [State.sendMsg_frame]

/-! ### setCtx -/

@[simp] theorem State.setCtx_pending (s : State) (c : Nat) (x : Ctx) : (s.setCtx c x).pending = s.pending := rfl
@[simp] theorem State.setCtx_now (s : State) (c : Nat) (x : Ctx) : (s.setCtx c x).now = s.now := rfl
@[simp] theorem State.setCtx_drawn (s : State) (c : Nat) (x : Ctx) : (s.setCtx c x).drawn = s.drawn := rfl
@[simp] theorem State.setCtx_regs (s : State) (c : Nat) (x : Ctx) : (s.setCtx c x).regs = s.regs := rfl
@[simp] theorem State.setCtx_ports (s : State) (c : Nat) (x : Ctx) : (s.setCtx c x).ports = s.ports := rfl
@[simp] theorem State.setCtx_host (s : State) (c : Nat) (x : Ctx) : (s.setCtx c x).host = s.host := rfl
@[simp] theorem State.setCtx_tl (s : State) (c : Nat) (x : Ctx) : (s.setCtx c x).tl = s.tl := rfl
@[simp] theorem State.setCtx_sync (s : State) (c : Nat) (x : Ctx) : (s.setCtx c x).sync = s.sync := rfl
@[simp] theorem State.setCtx_mem (s : State) (c : Nat) (x : Ctx) : (s.setCtx c x).mem = s.mem := rfl
@[simp] theorem State.setCtx_fab (s : State) (c : Nat) (x : Ctx) : (s.setCtx c x).fab = s.fab := rfl
@[simp] theorem State.setCtx_flt (s : State) (c : Nat) (x : Ctx) : (s.setCtx c x).flt = s.flt := rfl
@[simp] theorem State.setCtx_trn (s : State) (c : Nat) (x : Ctx) : (s.setCtx c x).trn = s.trn := rfl
@[simp] theorem State.setCtx_stb (s : State) (c : Nat) (x : Ctx) : (s.setCtx c x).stb = s.stb := rfl
@[simp] theorem State.setCtx_coll (s : State) (c : Nat) (x : Ctx) : (s.setCtx c x).coll = s.coll := rfl
@[simp] theorem State.setCtx_och (s : State) (c : Nat) (x : Ctx) : (s.setCtx c x).och = s.och := rfl
@[simp] theorem State.setCtx_ring (s : State) (c : Nat) (x : Ctx) : (s.setCtx c x).ring = s.ring := rfl
@[simp] theorem State.setCtx_boot (s : State) (c : Nat) (x : Ctx) : (s.setCtx c x).boot = s.boot := rfl
@[simp] theorem State.setCtx_dom (s : State) (c : Nat) (x : Ctx) : (s.setCtx c x).dom = s.dom := rfl
@[simp] theorem State.setCtx_pwr (s : State) (c : Nat) (x : Ctx) : (s.setCtx c x).pwr = s.pwr := rfl

/-! ### setVault -/

@[simp] theorem State.setVault_pending (s : State) (v : Nat) (x : Vault) : (s.setVault v x).pending = s.pending := rfl
@[simp] theorem State.setVault_now (s : State) (v : Nat) (x : Vault) : (s.setVault v x).now = s.now := rfl
@[simp] theorem State.setVault_drawn (s : State) (v : Nat) (x : Vault) : (s.setVault v x).drawn = s.drawn := rfl
@[simp] theorem State.setVault_regs (s : State) (v : Nat) (x : Vault) : (s.setVault v x).regs = s.regs := rfl
@[simp] theorem State.setVault_ports (s : State) (v : Nat) (x : Vault) : (s.setVault v x).ports = s.ports := rfl
@[simp] theorem State.setVault_host (s : State) (v : Nat) (x : Vault) : (s.setVault v x).host = s.host := rfl
@[simp] theorem State.setVault_tl (s : State) (v : Nat) (x : Vault) : (s.setVault v x).tl = s.tl := rfl
@[simp] theorem State.setVault_sync (s : State) (v : Nat) (x : Vault) : (s.setVault v x).sync = s.sync := rfl
@[simp] theorem State.setVault_cx (s : State) (v : Nat) (x : Vault) : (s.setVault v x).cx = s.cx := rfl
@[simp] theorem State.setVault_fab (s : State) (v : Nat) (x : Vault) : (s.setVault v x).fab = s.fab := rfl
@[simp] theorem State.setVault_flt (s : State) (v : Nat) (x : Vault) : (s.setVault v x).flt = s.flt := rfl
@[simp] theorem State.setVault_trn (s : State) (v : Nat) (x : Vault) : (s.setVault v x).trn = s.trn := rfl
@[simp] theorem State.setVault_stb (s : State) (v : Nat) (x : Vault) : (s.setVault v x).stb = s.stb := rfl
@[simp] theorem State.setVault_coll (s : State) (v : Nat) (x : Vault) : (s.setVault v x).coll = s.coll := rfl
@[simp] theorem State.setVault_och (s : State) (v : Nat) (x : Vault) : (s.setVault v x).och = s.och := rfl
@[simp] theorem State.setVault_ring (s : State) (v : Nat) (x : Vault) : (s.setVault v x).ring = s.ring := rfl
@[simp] theorem State.setVault_boot (s : State) (v : Nat) (x : Vault) : (s.setVault v x).boot = s.boot := rfl
@[simp] theorem State.setVault_dom (s : State) (v : Nat) (x : Vault) : (s.setVault v x).dom = s.dom := rfl
@[simp] theorem State.setVault_pwr (s : State) (v : Nat) (x : Vault) : (s.setVault v x).pwr = s.pwr := rfl

/-! ### setPhys -/

@[simp] theorem State.setPhys_pending (s : State) (c p : Nat) (x : PhysVault) : (s.setPhys c p x).pending = s.pending := rfl
@[simp] theorem State.setPhys_now (s : State) (c p : Nat) (x : PhysVault) : (s.setPhys c p x).now = s.now := rfl
@[simp] theorem State.setPhys_drawn (s : State) (c p : Nat) (x : PhysVault) : (s.setPhys c p x).drawn = s.drawn := rfl
@[simp] theorem State.setPhys_regs (s : State) (c p : Nat) (x : PhysVault) : (s.setPhys c p x).regs = s.regs := rfl
@[simp] theorem State.setPhys_ports (s : State) (c p : Nat) (x : PhysVault) : (s.setPhys c p x).ports = s.ports := rfl
@[simp] theorem State.setPhys_host (s : State) (c p : Nat) (x : PhysVault) : (s.setPhys c p x).host = s.host := rfl
@[simp] theorem State.setPhys_tl (s : State) (c p : Nat) (x : PhysVault) : (s.setPhys c p x).tl = s.tl := rfl
@[simp] theorem State.setPhys_sync (s : State) (c p : Nat) (x : PhysVault) : (s.setPhys c p x).sync = s.sync := rfl
@[simp] theorem State.setPhys_cx (s : State) (c p : Nat) (x : PhysVault) : (s.setPhys c p x).cx = s.cx := rfl
@[simp] theorem State.setPhys_fab (s : State) (c p : Nat) (x : PhysVault) : (s.setPhys c p x).fab = s.fab := rfl
@[simp] theorem State.setPhys_flt (s : State) (c p : Nat) (x : PhysVault) : (s.setPhys c p x).flt = s.flt := rfl
@[simp] theorem State.setPhys_trn (s : State) (c p : Nat) (x : PhysVault) : (s.setPhys c p x).trn = s.trn := rfl
@[simp] theorem State.setPhys_stb (s : State) (c p : Nat) (x : PhysVault) : (s.setPhys c p x).stb = s.stb := rfl
@[simp] theorem State.setPhys_coll (s : State) (c p : Nat) (x : PhysVault) : (s.setPhys c p x).coll = s.coll := rfl
@[simp] theorem State.setPhys_och (s : State) (c p : Nat) (x : PhysVault) : (s.setPhys c p x).och = s.och := rfl
@[simp] theorem State.setPhys_ring (s : State) (c p : Nat) (x : PhysVault) : (s.setPhys c p x).ring = s.ring := rfl
@[simp] theorem State.setPhys_boot (s : State) (c p : Nat) (x : PhysVault) : (s.setPhys c p x).boot = s.boot := rfl
@[simp] theorem State.setPhys_dom (s : State) (c p : Nat) (x : PhysVault) : (s.setPhys c p x).dom = s.dom := rfl
@[simp] theorem State.setPhys_pwr (s : State) (c p : Nat) (x : PhysVault) : (s.setPhys c p x).pwr = s.pwr := rfl

/-! ### setSq -/

@[simp] theorem State.setSq_pending (s : State) (v : Nat) (x : SqReg) : (s.setSq v x).pending = s.pending := rfl
@[simp] theorem State.setSq_now (s : State) (v : Nat) (x : SqReg) : (s.setSq v x).now = s.now := rfl
@[simp] theorem State.setSq_drawn (s : State) (v : Nat) (x : SqReg) : (s.setSq v x).drawn = s.drawn := rfl
@[simp] theorem State.setSq_regs (s : State) (v : Nat) (x : SqReg) : (s.setSq v x).regs = s.regs := rfl
@[simp] theorem State.setSq_ports (s : State) (v : Nat) (x : SqReg) : (s.setSq v x).ports = s.ports := rfl
@[simp] theorem State.setSq_host (s : State) (v : Nat) (x : SqReg) : (s.setSq v x).host = s.host := rfl
@[simp] theorem State.setSq_tl (s : State) (v : Nat) (x : SqReg) : (s.setSq v x).tl = s.tl := rfl
@[simp] theorem State.setSq_sync (s : State) (v : Nat) (x : SqReg) : (s.setSq v x).sync = s.sync := rfl
@[simp] theorem State.setSq_cx (s : State) (v : Nat) (x : SqReg) : (s.setSq v x).cx = s.cx := rfl
@[simp] theorem State.setSq_fab (s : State) (v : Nat) (x : SqReg) : (s.setSq v x).fab = s.fab := rfl
@[simp] theorem State.setSq_flt (s : State) (v : Nat) (x : SqReg) : (s.setSq v x).flt = s.flt := rfl
@[simp] theorem State.setSq_trn (s : State) (v : Nat) (x : SqReg) : (s.setSq v x).trn = s.trn := rfl
@[simp] theorem State.setSq_stb (s : State) (v : Nat) (x : SqReg) : (s.setSq v x).stb = s.stb := rfl
@[simp] theorem State.setSq_coll (s : State) (v : Nat) (x : SqReg) : (s.setSq v x).coll = s.coll := rfl
@[simp] theorem State.setSq_och (s : State) (v : Nat) (x : SqReg) : (s.setSq v x).och = s.och := rfl
@[simp] theorem State.setSq_ring (s : State) (v : Nat) (x : SqReg) : (s.setSq v x).ring = s.ring := rfl
@[simp] theorem State.setSq_boot (s : State) (v : Nat) (x : SqReg) : (s.setSq v x).boot = s.boot := rfl
@[simp] theorem State.setSq_dom (s : State) (v : Nat) (x : SqReg) : (s.setSq v x).dom = s.dom := rfl
@[simp] theorem State.setSq_pwr (s : State) (v : Nat) (x : SqReg) : (s.setSq v x).pwr = s.pwr := rfl

/-! ### setStream -/

@[simp] theorem State.setStream_pending (s : State) (i : Nat) (x : OchStream) : (s.setStream i x).pending = s.pending := rfl
@[simp] theorem State.setStream_now (s : State) (i : Nat) (x : OchStream) : (s.setStream i x).now = s.now := rfl
@[simp] theorem State.setStream_drawn (s : State) (i : Nat) (x : OchStream) : (s.setStream i x).drawn = s.drawn := rfl
@[simp] theorem State.setStream_regs (s : State) (i : Nat) (x : OchStream) : (s.setStream i x).regs = s.regs := rfl
@[simp] theorem State.setStream_ports (s : State) (i : Nat) (x : OchStream) : (s.setStream i x).ports = s.ports := rfl
@[simp] theorem State.setStream_host (s : State) (i : Nat) (x : OchStream) : (s.setStream i x).host = s.host := rfl
@[simp] theorem State.setStream_tl (s : State) (i : Nat) (x : OchStream) : (s.setStream i x).tl = s.tl := rfl
@[simp] theorem State.setStream_sync (s : State) (i : Nat) (x : OchStream) : (s.setStream i x).sync = s.sync := rfl
@[simp] theorem State.setStream_cx (s : State) (i : Nat) (x : OchStream) : (s.setStream i x).cx = s.cx := rfl
@[simp] theorem State.setStream_mem (s : State) (i : Nat) (x : OchStream) : (s.setStream i x).mem = s.mem := rfl
@[simp] theorem State.setStream_fab (s : State) (i : Nat) (x : OchStream) : (s.setStream i x).fab = s.fab := rfl
@[simp] theorem State.setStream_flt (s : State) (i : Nat) (x : OchStream) : (s.setStream i x).flt = s.flt := rfl
@[simp] theorem State.setStream_trn (s : State) (i : Nat) (x : OchStream) : (s.setStream i x).trn = s.trn := rfl
@[simp] theorem State.setStream_stb (s : State) (i : Nat) (x : OchStream) : (s.setStream i x).stb = s.stb := rfl
@[simp] theorem State.setStream_coll (s : State) (i : Nat) (x : OchStream) : (s.setStream i x).coll = s.coll := rfl
@[simp] theorem State.setStream_ring (s : State) (i : Nat) (x : OchStream) : (s.setStream i x).ring = s.ring := rfl
@[simp] theorem State.setStream_boot (s : State) (i : Nat) (x : OchStream) : (s.setStream i x).boot = s.boot := rfl
@[simp] theorem State.setStream_dom (s : State) (i : Nat) (x : OchStream) : (s.setStream i x).dom = s.dom := rfl
@[simp] theorem State.setStream_pwr (s : State) (i : Nat) (x : OchStream) : (s.setStream i x).pwr = s.pwr := rfl

/-! ### setRing -/

@[simp] theorem State.setRing_pending (s : State) (r : Nat) (x : Ring) : (s.setRing r x).pending = s.pending := rfl
@[simp] theorem State.setRing_now (s : State) (r : Nat) (x : Ring) : (s.setRing r x).now = s.now := rfl
@[simp] theorem State.setRing_drawn (s : State) (r : Nat) (x : Ring) : (s.setRing r x).drawn = s.drawn := rfl
@[simp] theorem State.setRing_regs (s : State) (r : Nat) (x : Ring) : (s.setRing r x).regs = s.regs := rfl
@[simp] theorem State.setRing_ports (s : State) (r : Nat) (x : Ring) : (s.setRing r x).ports = s.ports := rfl
@[simp] theorem State.setRing_host (s : State) (r : Nat) (x : Ring) : (s.setRing r x).host = s.host := rfl
@[simp] theorem State.setRing_tl (s : State) (r : Nat) (x : Ring) : (s.setRing r x).tl = s.tl := rfl
@[simp] theorem State.setRing_sync (s : State) (r : Nat) (x : Ring) : (s.setRing r x).sync = s.sync := rfl
@[simp] theorem State.setRing_cx (s : State) (r : Nat) (x : Ring) : (s.setRing r x).cx = s.cx := rfl
@[simp] theorem State.setRing_mem (s : State) (r : Nat) (x : Ring) : (s.setRing r x).mem = s.mem := rfl
@[simp] theorem State.setRing_fab (s : State) (r : Nat) (x : Ring) : (s.setRing r x).fab = s.fab := rfl
@[simp] theorem State.setRing_flt (s : State) (r : Nat) (x : Ring) : (s.setRing r x).flt = s.flt := rfl
@[simp] theorem State.setRing_trn (s : State) (r : Nat) (x : Ring) : (s.setRing r x).trn = s.trn := rfl
@[simp] theorem State.setRing_stb (s : State) (r : Nat) (x : Ring) : (s.setRing r x).stb = s.stb := rfl
@[simp] theorem State.setRing_coll (s : State) (r : Nat) (x : Ring) : (s.setRing r x).coll = s.coll := rfl
@[simp] theorem State.setRing_och (s : State) (r : Nat) (x : Ring) : (s.setRing r x).och = s.och := rfl
@[simp] theorem State.setRing_boot (s : State) (r : Nat) (x : Ring) : (s.setRing r x).boot = s.boot := rfl
@[simp] theorem State.setRing_dom (s : State) (r : Nat) (x : Ring) : (s.setRing r x).dom = s.dom := rfl
@[simp] theorem State.setRing_pwr (s : State) (r : Nat) (x : Ring) : (s.setRing r x).pwr = s.pwr := rfl

/-! ### setEvt -/

@[simp] theorem State.setEvt_pending (s : State) (i : Nat) (e : StepEvt) : (s.setEvt i e).pending = s.pending := rfl
@[simp] theorem State.setEvt_now (s : State) (i : Nat) (e : StepEvt) : (s.setEvt i e).now = s.now := rfl
@[simp] theorem State.setEvt_drawn (s : State) (i : Nat) (e : StepEvt) : (s.setEvt i e).drawn = s.drawn := rfl
@[simp] theorem State.setEvt_regs (s : State) (i : Nat) (e : StepEvt) : (s.setEvt i e).regs = s.regs := rfl
@[simp] theorem State.setEvt_ports (s : State) (i : Nat) (e : StepEvt) : (s.setEvt i e).ports = s.ports := rfl
@[simp] theorem State.setEvt_host (s : State) (i : Nat) (e : StepEvt) : (s.setEvt i e).host = s.host := rfl
@[simp] theorem State.setEvt_tl (s : State) (i : Nat) (e : StepEvt) : (s.setEvt i e).tl = s.tl := rfl
@[simp] theorem State.setEvt_sync (s : State) (i : Nat) (e : StepEvt) : (s.setEvt i e).sync = s.sync := rfl
@[simp] theorem State.setEvt_cx (s : State) (i : Nat) (e : StepEvt) : (s.setEvt i e).cx = s.cx := rfl
@[simp] theorem State.setEvt_mem (s : State) (i : Nat) (e : StepEvt) : (s.setEvt i e).mem = s.mem := rfl
@[simp] theorem State.setEvt_fab (s : State) (i : Nat) (e : StepEvt) : (s.setEvt i e).fab = s.fab := rfl
@[simp] theorem State.setEvt_flt (s : State) (i : Nat) (e : StepEvt) : (s.setEvt i e).flt = s.flt := rfl
@[simp] theorem State.setEvt_trn (s : State) (i : Nat) (e : StepEvt) : (s.setEvt i e).trn = s.trn := rfl
@[simp] theorem State.setEvt_coll (s : State) (i : Nat) (e : StepEvt) : (s.setEvt i e).coll = s.coll := rfl
@[simp] theorem State.setEvt_och (s : State) (i : Nat) (e : StepEvt) : (s.setEvt i e).och = s.och := rfl
@[simp] theorem State.setEvt_ring (s : State) (i : Nat) (e : StepEvt) : (s.setEvt i e).ring = s.ring := rfl
@[simp] theorem State.setEvt_boot (s : State) (i : Nat) (e : StepEvt) : (s.setEvt i e).boot = s.boot := rfl
@[simp] theorem State.setEvt_dom (s : State) (i : Nat) (e : StepEvt) : (s.setEvt i e).dom = s.dom := rfl
@[simp] theorem State.setEvt_pwr (s : State) (i : Nat) (e : StepEvt) : (s.setEvt i e).pwr = s.pwr := rfl

/-! ### setColl -/

@[simp] theorem State.setColl_pending (s : State) (g : Nat) (x : Option Coll) : (s.setColl g x).pending = s.pending := rfl
@[simp] theorem State.setColl_now (s : State) (g : Nat) (x : Option Coll) : (s.setColl g x).now = s.now := rfl
@[simp] theorem State.setColl_drawn (s : State) (g : Nat) (x : Option Coll) : (s.setColl g x).drawn = s.drawn := rfl
@[simp] theorem State.setColl_regs (s : State) (g : Nat) (x : Option Coll) : (s.setColl g x).regs = s.regs := rfl
@[simp] theorem State.setColl_ports (s : State) (g : Nat) (x : Option Coll) : (s.setColl g x).ports = s.ports := rfl
@[simp] theorem State.setColl_host (s : State) (g : Nat) (x : Option Coll) : (s.setColl g x).host = s.host := rfl
@[simp] theorem State.setColl_tl (s : State) (g : Nat) (x : Option Coll) : (s.setColl g x).tl = s.tl := rfl
@[simp] theorem State.setColl_sync (s : State) (g : Nat) (x : Option Coll) : (s.setColl g x).sync = s.sync := rfl
@[simp] theorem State.setColl_cx (s : State) (g : Nat) (x : Option Coll) : (s.setColl g x).cx = s.cx := rfl
@[simp] theorem State.setColl_mem (s : State) (g : Nat) (x : Option Coll) : (s.setColl g x).mem = s.mem := rfl
@[simp] theorem State.setColl_fab (s : State) (g : Nat) (x : Option Coll) : (s.setColl g x).fab = s.fab := rfl
@[simp] theorem State.setColl_flt (s : State) (g : Nat) (x : Option Coll) : (s.setColl g x).flt = s.flt := rfl
@[simp] theorem State.setColl_trn (s : State) (g : Nat) (x : Option Coll) : (s.setColl g x).trn = s.trn := rfl
@[simp] theorem State.setColl_stb (s : State) (g : Nat) (x : Option Coll) : (s.setColl g x).stb = s.stb := rfl
@[simp] theorem State.setColl_och (s : State) (g : Nat) (x : Option Coll) : (s.setColl g x).och = s.och := rfl
@[simp] theorem State.setColl_ring (s : State) (g : Nat) (x : Option Coll) : (s.setColl g x).ring = s.ring := rfl
@[simp] theorem State.setColl_boot (s : State) (g : Nat) (x : Option Coll) : (s.setColl g x).boot = s.boot := rfl
@[simp] theorem State.setColl_dom (s : State) (g : Nat) (x : Option Coll) : (s.setColl g x).dom = s.dom := rfl
@[simp] theorem State.setColl_pwr (s : State) (g : Nat) (x : Option Coll) : (s.setColl g x).pwr = s.pwr := rfl

/-! ### setDev -/

@[simp] theorem State.setDev_pending (s : State) (d : Bool) (f : Flash) : (s.setDev d f).pending = s.pending := by cases d <;> rfl
@[simp] theorem State.setDev_now (s : State) (d : Bool) (f : Flash) : (s.setDev d f).now = s.now := by cases d <;> rfl
@[simp] theorem State.setDev_drawn (s : State) (d : Bool) (f : Flash) : (s.setDev d f).drawn = s.drawn := by cases d <;> rfl
@[simp] theorem State.setDev_regs (s : State) (d : Bool) (f : Flash) : (s.setDev d f).regs = s.regs := by cases d <;> rfl
@[simp] theorem State.setDev_ports (s : State) (d : Bool) (f : Flash) : (s.setDev d f).ports = s.ports := by cases d <;> rfl
@[simp] theorem State.setDev_host (s : State) (d : Bool) (f : Flash) : (s.setDev d f).host = s.host := by cases d <;> rfl
@[simp] theorem State.setDev_tl (s : State) (d : Bool) (f : Flash) : (s.setDev d f).tl = s.tl := by cases d <;> rfl
@[simp] theorem State.setDev_sync (s : State) (d : Bool) (f : Flash) : (s.setDev d f).sync = s.sync := by cases d <;> rfl
@[simp] theorem State.setDev_cx (s : State) (d : Bool) (f : Flash) : (s.setDev d f).cx = s.cx := by cases d <;> rfl
@[simp] theorem State.setDev_mem (s : State) (d : Bool) (f : Flash) : (s.setDev d f).mem = s.mem := by cases d <;> rfl
@[simp] theorem State.setDev_fab (s : State) (d : Bool) (f : Flash) : (s.setDev d f).fab = s.fab := by cases d <;> rfl
@[simp] theorem State.setDev_flt (s : State) (d : Bool) (f : Flash) : (s.setDev d f).flt = s.flt := by cases d <;> rfl
@[simp] theorem State.setDev_trn (s : State) (d : Bool) (f : Flash) : (s.setDev d f).trn = s.trn := by cases d <;> rfl
@[simp] theorem State.setDev_stb (s : State) (d : Bool) (f : Flash) : (s.setDev d f).stb = s.stb := by cases d <;> rfl
@[simp] theorem State.setDev_coll (s : State) (d : Bool) (f : Flash) : (s.setDev d f).coll = s.coll := by cases d <;> rfl
@[simp] theorem State.setDev_och (s : State) (d : Bool) (f : Flash) : (s.setDev d f).och = s.och := by cases d <;> rfl
@[simp] theorem State.setDev_ring (s : State) (d : Bool) (f : Flash) : (s.setDev d f).ring = s.ring := by cases d <;> rfl
@[simp] theorem State.setDev_dom (s : State) (d : Bool) (f : Flash) : (s.setDev d f).dom = s.dom := by cases d <;> rfl
@[simp] theorem State.setDev_pwr (s : State) (d : Bool) (f : Flash) : (s.setDev d f).pwr = s.pwr := by cases d <;> rfl

/-! ### Reads after writes -/

@[simp] theorem State.reg_setReg_same (s : State) (o : Nat) (v : W64) : (s.setReg o v).reg o = v := Tab.get_put_same _ _ _ _
theorem State.reg_setReg_other (s : State) (o : Nat) (v : W64) (j : Nat) (h : j ≠ o) : (s.setReg o v).reg j = s.reg j := Tab.get_put_other_default _ _ _ _ h
@[simp] theorem State.queue_setQueue_same (s : State) (q : Nat) (x : Queue) : (s.setQueue q x).queue q = x := Tab.get_put_same _ _ _ _
theorem State.queue_setQueue_other (s : State) (q : Nat) (x : Queue) (j : Nat) (h : j ≠ q) : (s.setQueue q x).queue j = s.queue j := Tab.get_put_other _ _ _ h
@[simp] theorem State.slot_setSlot_same (s : State) (i : Nat) (x : Slot) : (s.setSlot i x).slot i = x := Tab.get_put_same _ _ _ _
theorem State.slot_setSlot_other (s : State) (i : Nat) (x : Slot) (j : Nat) (h : j ≠ i) : (s.setSlot i x).slot j = s.slot j := Tab.get_put_other _ _ _ h
@[simp] theorem State.tile_setTile_same (s : State) (t : Nat) (x : Tile) : (s.setTile t x).tile t = x := Tab.get_put_same _ _ _ _
theorem State.tile_setTile_other (s : State) (t : Nat) (x : Tile) (j : Nat) (h : j ≠ t) : (s.setTile t x).tile j = s.tile j := Tab.get_put_other _ _ _ h
@[simp] theorem State.cluster_setCluster_same (s : State) (c : Nat) (x : Cluster) : (s.setCluster c x).cluster c = x := Tab.get_put_same _ _ _ _
theorem State.cluster_setCluster_other (s : State) (c : Nat) (x : Cluster) (j : Nat) (h : j ≠ c) : (s.setCluster c x).cluster j = s.cluster j := Tab.get_put_other _ _ _ h
@[simp] theorem State.obj_setObj_same (s : State) (i : Nat) (v : W32) : (s.setObj i v).obj i = v := Tab.get_put_same _ _ _ _
theorem State.obj_setObj_other (s : State) (i : Nat) (v : W32) (j : Nat) (h : j ≠ i) : (s.setObj i v).obj j = s.obj j := Tab.get_put_other _ _ _ h
@[simp] theorem State.ctx_setCtx_same (s : State) (c : Nat) (x : Ctx) : (s.setCtx c x).ctx c = x := Tab.get_put_same _ _ _ _
theorem State.ctx_setCtx_other (s : State) (c : Nat) (x : Ctx) (j : Nat) (h : j ≠ c) : (s.setCtx c x).ctx j = s.ctx j := Tab.get_put_other _ _ _ h
@[simp] theorem State.vaultSt_setVault_same (s : State) (v : Nat) (x : Vault) : (s.setVault v x).vaultSt v = x := Tab.get_put_same _ _ _ _
theorem State.vaultSt_setVault_other (s : State) (v : Nat) (x : Vault) (j : Nat) (h : j ≠ v) : (s.setVault v x).vaultSt j = s.vaultSt j := Tab.get_put_other _ _ _ h
@[simp] theorem State.ochStream_setStream_same (s : State) (i : Nat) (x : OchStream) : (s.setStream i x).ochStream i = x := Tab.get_put_same _ _ _ _
theorem State.ochStream_setStream_other (s : State) (i : Nat) (x : OchStream) (j : Nat) (h : j ≠ i) : (s.setStream i x).ochStream j = s.ochStream j := Tab.get_put_other _ _ _ h
@[simp] theorem State.evt_setEvt_same (s : State) (i : Nat) (e : StepEvt) : (s.setEvt i e).evt i = e := Tab.get_put_same _ _ _ _
theorem State.evt_setEvt_other (s : State) (i : Nat) (e : StepEvt) (j : Nat) (h : j ≠ i) : (s.setEvt i e).evt j = s.evt j := Tab.get_put_other _ _ _ h
@[simp] theorem State.curColl_setColl_same (s : State) (g : Nat) (x : Option Coll) : (s.setColl g x).curColl g = x := Tab.get_put_same _ _ _ _
theorem State.curColl_setColl_other (s : State) (g : Nat) (x : Option Coll) (j : Nat) (h : j ≠ g) : (s.setColl g x).curColl j = s.curColl j := Tab.get_put_other _ _ _ h

/-- Ports lie under keys of their own. -/
theorem PortId.idx_inj {p q : PortId} (h : p.idx = q.idx) : p = q := by
  cases p <;> cases q <;> simp_all [PortId.idx] <;> first | omega | skip
  all_goals (apply BitVec.eq_of_toNat_eq; omega)

@[simp] theorem State.port_setPort_same (s : State) (p : PortId) (x : Port) : (s.setPort p x).port p = x := Tab.get_put_same _ _ _ _
theorem State.port_setPort_other (s : State) (p q : PortId) (x : Port) (h : q ≠ p) : (s.setPort p x).port q = s.port q :=
  Tab.get_put_other _ _ _ (fun e => h (PortId.idx_inj e))

/-! ### Tile registers (03 R60) -/

@[simp] theorem Tile.rd_zero (x : Tile) : x.rd 0 = 0 := rfl
@[simp] theorem Tile.wr_zero (x : Tile) (v : W64) : x.wr 0 v = x := rfl
@[simp] theorem Tile.rdK_zero (x : Tile) : x.rdK 0 = BitVec.allOnes 256 := rfl
theorem Tile.rd_wr_same (x : Tile) (n : Nat) (v : W64) (h : n ≠ 0) : (x.wr n v).rd n = v := by simp [Tile.wr, Tile.rd, h]
theorem Tile.rd_wr_other (x : Tile) (n m : Nat) (v : W64) (h : m ≠ n) : (x.wr n v).rd m = x.rd m := by
  unfold Tile.wr Tile.rd
  split
  · rfl
  · split
    · rfl
    · exact Tab.get_put_other _ _ _ h

/-! ### Events and the log (02 R56, 14 R379) -/

/-- An EVENT goes up or nothing happens. -/
theorem State.event_cases (s : State) (c : Nat) (st : W16) (a b : W32) : s.event c st a b = s ∨ ∃ k, s.event c st a b = s.postUp k := by
  unfold State.event
  split
  · exact Or.inr ⟨_, rfl⟩
  · exact Or.inl rfl

/-- A log entry changes failure handling's log and may send an event; nothing else. -/
theorem State.log_frame (s : State) (c a : Nat) (st u : W16) (i : BitVec 12) (d : W64) :
    s.log c a st u i d = { s with flt := (s.log c a st u i d).flt, host := { s.host with upTx := (s.log c a st u i d).host.upTx } } := by
  unfold State.log
  rcases State.event_cases _ 0x04 st _ _ with h | ⟨k, h⟩ <;> rw [h] <;> rfl

end Sys2Proof.Machine
end

