-- ==== Sys2Proof/Laws/Issue.lean ====
section
/-! SUPPORT. What the shared operations of issue, packets and register writes can do, said once: the gate of a tile's next
instruction, a scalar instruction and an engine instruction that issue, a packet on PXU, a register write. -/
namespace Sys2Proof.Machine

/-! ## Issue (03 R66, R68; 04 R89, R91) -/

/-- What an open gate says. -/
theorem State.gate_go {s : State} {t c o : Nat} {w : W64} {l : Launch} (h : s.gate t c o w = .go l) :
    s.launchOf t = some l ∧ W.cls w = c ∧ W.op w = o ∧ (s.tile t).core = .run ∧ (s.tile t).imiss = none ∧ s.tileHeld t = false ∧
    ((s.tile t).pc - BitVec.ofNat 64 l.prog).toNat < l.ilen ∧
    (s.tile t).cached (lineOf ((s.tile t).pc - BitVec.ofNat 64 l.prog).toNat) = true ∧
    staticCheck w l.dbg = none ∧ (s.tile t).regBusy w = false := by
  unfold State.gate at h
  cases hm : s.launchOf t with
  | none => simp [hm] at h
  | some m =>
    simp only [hm] at h
    by_cases h1 : rowTakes c o w m.dbg = false ∨ (s.tile t).core ≠ .run ∨ (s.tile t).imiss ≠ none ∨ s.tileHeld t = true
    · rw [if_pos h1] at h; cases h
    rw [if_neg h1] at h
    by_cases h2 : ((s.tile t).pc - BitVec.ofNat 64 m.prog).toNat ≥ m.ilen
    · rw [if_pos h2] at h; cases h
    rw [if_neg h2] at h
    by_cases h3 : (!(s.tile t).cached (lineOf ((s.tile t).pc - BitVec.ofNat 64 m.prog).toNat)) = true
    · rw [if_pos h3] at h; cases h
    rw [if_neg h3] at h
    cases h4 : staticCheck w m.dbg with
    | some e => simp [h4] at h
    | none =>
      simp only [h4] at h
      by_cases h5 : (s.tile t).regBusy w = true
      · rw [if_pos h5] at h; cases h
      rw [if_neg h5] at h
      cases h
      simp only [not_or, Classical.not_not] at h1
      have h0 : W.cls w = c ∧ W.op w = o := by
        have := h1.1
        simpa [rowTakes, h4] using this
      exact ⟨rfl, h0.1, h0.2, h1.2.1, h1.2.2.1, by simpa using h1.2.2.2, by omega, by simpa using h3, h4, by simpa using h5⟩

/-- An instruction that issues runs its body on a tile whose line has just been used. -/
theorem State.issue_go {s : State} {t c o : Nat} {w : W64} {l : Launch} (body : State → Launch → State)
    (h : s.gate t c o w = .go l) :
    s.issue t c o w body = body (s.updTile t (fun x => x.touch (lineOf (x.pc - BitVec.ofNat 64 l.prog).toNat))) l := by
  unfold State.issue
  rw [h]

@[simp] theorem Tile.rd_touch (x : Tile) (a n : Nat) : (x.touch a).rd n = x.rd n := rfl
@[simp] theorem Tile.rd_retire (x : Tile) (w : W64) (a : Nat) (b : Option Bool) (n : Nat) : (x.retire w a b).rd n = x.rd n := rfl
@[simp] theorem predicate_touch (x : Tile) (a : Nat) (w : W64) : predicate (x.touch a) w = predicate x w := rfl

theorem State.tile_updTile_same (s : State) (t : Nat) (f : Tile → Tile) : (s.updTile t f).tile t = f (s.tile t) := by simp [State.updTile]
theorem State.tile_updTile_other (s : State) (t : Nat) (f : Tile → Tile) (u : Nat) (h : u ≠ t) : (s.updTile t f).tile u = s.tile u :=
  State.tile_setTile_other _ _ _ _ h

/-- A write to one tile is seen by no other. -/
theorem State.onlyTile_setTile (s : State) (t : Nat) (x : Tile) : OnlyTile t s (s.setTile t x) :=
  ⟨fun _ hu => State.tile_setTile_other _ _ _ _ hu, rfl⟩

theorem OnlyTile.trans {t : Nat} {a b c : State} (h : OnlyTile t a b) (k : OnlyTile t b c) : OnlyTile t a c := by
  refine ⟨fun u hu => (k.1 u hu).trans (h.1 u hu), ?_⟩
  have h2 := k.2
  rw [h.2] at h2
  exact h2

/-- A scalar instruction that issues with a result: its tile is the result's, retired; nothing else changes. -/
theorem State.scalar_ok {s : State} {t o : Nat} {w : W64} {l : Launch} {f : Tile → Launch → SRes} {y : Tile} {pc : W64} {cy : Nat}
    {br : Option Bool} (h : Issues s t 1 o w l)
    (hf : f ((s.tile t).touch (lineOf ((s.tile t).pc - BitVec.ofNat 64 l.prog).toNat)) l = .ok y pc cy br) :
    OnlyTile t s (s.scalar t o w f) ∧ (s.scalar t o w f).tile t = ({ y with pc := pc } : Tile).retire w cy br := by
  unfold State.scalar
  rw [State.issue_go _ h.1]
  simp only [State.tile_updTile_same, predicate_touch, h.2, hf]
  exact ⟨(State.onlyTile_setTile _ _ _).trans (State.onlyTile_setTile _ _ _), State.tile_setTile_same _ _ _⟩

/-- One whose predicate is off only moves on. -/
theorem State.scalar_off {s : State} {t o : Nat} {w : W64} {l : Launch} (f : Tile → Launch → SRes) (h : s.gate t 1 o w = .go l)
    (hp : predicate (s.tile t) w = some false) :
    let x := (s.tile t).touch (lineOf ((s.tile t).pc - BitVec.ofNat 64 l.prog).toNat)
    OnlyTile t s (s.scalar t o w f) ∧ (s.scalar t o w f).tile t = ({ x with pc := x.pc + 8 } : Tile).retire w 1 none := by
  unfold State.scalar
  rw [State.issue_go _ h]
  simp only [State.tile_updTile_same, predicate_touch, hp]
  exact ⟨(State.onlyTile_setTile _ _ _).trans (State.onlyTile_setTile _ _ _), State.tile_setTile_same _ _ _⟩

/-- An engine instruction that issues into a queue with room. -/
theorem State.enqueue_ok {s : State} {t c o : Nat} {w : W64} {l : Launch} {e : Eng} (h : s.gate t c o w = .go l)
    (hq : ((s.tile t).queue e).length < Eng.depth e) :
    let x := (s.tile t).touch (lineOf ((s.tile t).pc - BitVec.ofNat 64 l.prog).toNat)
    OnlyTile t s (s.enqueue t c o w e) ∧ (s.enqueue t c o w e).tile t =
      ((({ x with pc := x.pc + 8 } : Tile).setQueue e (x.queue e ++ [{ w := w, pc := x.pc, sr := x.s }])).retire w 1 none) := by
  have hq' : ¬ ((((s.tile t).touch (lineOf ((s.tile t).pc - BitVec.ofNat 64 l.prog).toNat)).queue e).length ≥ Eng.depth e) := by
    simpa [Tile.touch, Tile.queue] using hq
  unfold State.enqueue
  rw [State.issue_go _ h]
  simp only [State.tile_updTile_same, if_neg hq']
  exact ⟨(State.onlyTile_setTile _ _ _).trans (State.onlyTile_setTile _ _ _), State.tile_setTile_same _ _ _⟩

/-! ## Packets and register writes (02 R41, R42) -/

/-- Taking a packet from a port changes that port alone. -/
theorem State.takeRx_frame (s : State) (p : PortId) (k : Packet) : s.takeRx p k = { s with ports := (s.takeRx p k).ports } := rfl

/-- A packet for this module alone, good under R41, is taken and handled. -/
theorem State.pxu_here {s : State} {k : Packet} {ty : Nat} (body : State → State) (h : OnPxu s k ty) :
    s.pxu k ty body = body (s.takeRx .pxu k) := by
  obtain ⟨h1, h2, h3, h4, h5, h6, h7⟩ := h
  unfold State.pxu
  simp [h1, h2, Packet.ty, h3, h5, Packet.len, h6, h7, Packet.bcast, h4]

/-- A REG_WR to a group's register, outside RECOVERY: the group's function decides the state and the status of the answer. -/
theorem State.regWrS_here {s : State} {k : Packet} {o : Nat} {v : W64} {mine : Nat → Bool} (f : State → Nat → W64 → State × W16)
    (h : Writes s k o v) (hm : mine o = true) :
    s.regWrS k mine f = (f (s.takeRx .pxu k) o v).1.respond k (f (s.takeRx .pxu k) o v).2 0 [] := by
  obtain ⟨h1, h2, h3, h4⟩ := h
  have ho : Packet.off k = o := h2
  have hv : Packet.qw k = v := h3
  have hb : Packet.bcast k = false := h1.2.2.2.1
  have hr : regServed (s.takeRx .pxu k) o = true := by
    have : (s.takeRx .pxu k).recovery = false := h4
    unfold regServed
    rw [this]
    rfl
  unfold State.regWrS
  simp only [ho, hv, hm, Bool.not_true, Bool.false_eq_true, if_false]
  rw [State.pxu_here _ h1]
  simp only [hr, if_true, hb, Bool.false_eq_true, if_false]

/-- The same for a write that is accepted. -/
theorem State.regWr_ok {s s1 : State} {k : Packet} {o : Nat} {v : W64} {mine : Nat → Bool} {f : State → Nat → W64 → Option State}
    (h : Writes s k o v) (hm : mine o = true) (hf : f (s.takeRx .pxu k) o v = some s1) :
    s.regWr k mine f = s1.respond k Status.ok 0 [] := by
  unfold State.regWr
  rw [State.regWrS_here _ h hm]
  simp only [State.orRange, hf]

/-- The same for a write that is turned away. -/
theorem State.regWr_no {s : State} {k : Packet} {o : Nat} {v : W64} {mine : Nat → Bool} {f : State → Nat → W64 → Option State}
    (h : Writes s k o v) (hm : mine o = true) (hf : f (s.takeRx .pxu k) o v = none) :
    s.regWr k mine f = (s.takeRx .pxu k).respond k Status.errRange 0 [] := by
  unfold State.regWr
  rw [State.regWrS_here _ h hm]
  simp only [State.orRange, hf]

/-- A module with nothing to do but wait passes a reference period. -/
theorem step_idle {s : State} (h : s.pending = []) : step s = .next s.tick := by
  unfold step
  rw [h]

end Sys2Proof.Machine
end

