-- ==== Sys2Proof/Laws/KeepsBase.lean ====
section
/-! SUPPORT. What no operation of the block breaks, said once: the queue of waiting commands is not touched,
the SVN minimum never falls, no revocation is taken back and memory keeps its canonical form. One lemma per
pattern of update; the files Keeps*.lean hold one lemma per shared operation. -/

namespace Sys2Proof.Machine

/-- What every operation between two states keeps. -/
structure Keeps (s t : State) : Prop where
  pending : t.pending = s.pending
  svn : s.boot.svnMin ≤ t.boot.svnMin
  revoked : s.boot.revoked &&& t.boot.revoked = s.boot.revoked
  mem : Memory.wf s.mem = true → Memory.wf t.mem = true

theorem Keeps.refl (s : State) : Keeps s s := ⟨rfl, Nat.le_refl _, by simp, id⟩

theorem Keeps.same {s t u : State} (h : Keeps s t) (hp : u.pending = t.pending) (hs : u.boot.svnMin = t.boot.svnMin)
    (hr : u.boot.revoked = t.boot.revoked) (hm : u.mem.byte = t.mem.byte) : Keeps s u :=
  ⟨hp.trans h.pending, hs ▸ h.svn, hr ▸ h.revoked, fun w => by have := h.mem w; unfold Memory.wf at *; rw [hm]; exact this⟩

theorem Keeps.mk0 {s t : State} (h : Keeps s t) (now_ : Nat) (drawn_ : Nat) (regs_ : Tab W64) (ports_ : Tab Port) (host_ : HostSt) (tl_ : TileSt) (sync_ : SyncSt) (cx_ : CtxSt) (fab_ : FabSt) (flt_ : FltSt) (trn_ : TrnSt) (stb_ : StbSt) (coll_ : CollSt) (och_ : OchSt) (ring_ : Tab Ring) (dom_ : DomSt) (pwr_ : PwrSt) :
    Keeps s (State.mk t.pending now_ drawn_ regs_ ports_ host_ tl_ sync_ cx_ t.mem fab_ flt_ trn_ stb_ coll_ och_ ring_ t.boot dom_ pwr_) := h.same rfl rfl rfl rfl

theorem Keeps.mkM {s t : State} (h : Keeps s t) (now_ : Nat) (drawn_ : Nat) (regs_ : Tab W64) (ports_ : Tab Port) (host_ : HostSt) (tl_ : TileSt) (sync_ : SyncSt) (cx_ : CtxSt) (fab_ : FabSt) (flt_ : FltSt) (trn_ : TrnSt) (stb_ : StbSt) (coll_ : CollSt) (och_ : OchSt) (ring_ : Tab Ring) (dom_ : DomSt) (pwr_ : PwrSt) (ueM_ : List Nat) (ordcM_ : Tab W16) (heldM_ : List Contrib) (flyM_ : List Contrib) (sqM_ : Tab SqReg) (vaultM_ : Tab Vault) (pvM_ : Tab PhysVault) (sysRemapM_ : Tab Nat) (reserveM_ : Tab Nat) (dpmM_ : Tab (Option DpmBuf)) (dpmNextM_ : Nat) (dpmResultM_ : W64) (planAddrM_ : Option Nat) (planStatusM_ : W16) (planM_ : Option Plan) :
    Keeps s (State.mk t.pending now_ drawn_ regs_ ports_ host_ tl_ sync_ cx_ (MemSt.mk t.mem.byte ueM_ ordcM_ heldM_ flyM_ sqM_ vaultM_ pvM_ sysRemapM_ reserveM_ dpmM_ dpmNextM_ dpmResultM_ planAddrM_ planStatusM_ planM_) fab_ flt_ trn_ stb_ coll_ och_ ring_ t.boot dom_ pwr_) := h.same rfl rfl rfl rfl

theorem Keeps.mkB {s t : State} (h : Keeps s t) (now_ : Nat) (drawn_ : Nat) (regs_ : Tab W64) (ports_ : Tab Port) (host_ : HostSt) (tl_ : TileSt) (sync_ : SyncSt) (cx_ : CtxSt) (fab_ : FabSt) (flt_ : FltSt) (trn_ : TrnSt) (stb_ : StbSt) (coll_ : CollSt) (och_ : OchSt) (ring_ : Tab Ring) (dom_ : DomSt) (pwr_ : PwrSt) (releasedB_ : Bool) (relAtB_ : Nat) (stageB_ : Nat) (sinceB_ : Nat) (slotB_ : Bool) (trialB_ : Bool) (fellBackB_ : Bool) (selfOkB_ : Bool) (statusB_ : W16) (tellB_ : Bool) (manB_ : List Byte) (fl0B_ : Flash) (fl1B_ : Flash) (retriesB_ : Nat) (updB_ : Nat) (updStatusB_ : W16) (failBlkB_ : Nat) (updSlotB_ : Bool) (trialAtB_ : Nat) (fallAtB_ : Option Nat) (attB_ : Option (Nat × List Byte)) (attDoneB_ : Bool) (attStatusB_ : W16) :
    Keeps s (State.mk t.pending now_ drawn_ regs_ ports_ host_ tl_ sync_ cx_ t.mem fab_ flt_ trn_ stb_ coll_ och_ ring_ (BootSt.mk releasedB_ relAtB_ stageB_ sinceB_ slotB_ trialB_ fellBackB_ selfOkB_ statusB_ tellB_ manB_ fl0B_ fl1B_ retriesB_ updB_ updStatusB_ failBlkB_ updSlotB_ trialAtB_ fallAtB_ attB_ attDoneB_ attStatusB_ t.boot.svnMin t.boot.revoked) dom_ pwr_) := h.same rfl rfl rfl rfl

theorem Keeps.mkMB {s t : State} (h : Keeps s t) (now_ : Nat) (drawn_ : Nat) (regs_ : Tab W64) (ports_ : Tab Port) (host_ : HostSt) (tl_ : TileSt) (sync_ : SyncSt) (cx_ : CtxSt) (fab_ : FabSt) (flt_ : FltSt) (trn_ : TrnSt) (stb_ : StbSt) (coll_ : CollSt) (och_ : OchSt) (ring_ : Tab Ring) (dom_ : DomSt) (pwr_ : PwrSt) (ueM_ : List Nat) (ordcM_ : Tab W16) (heldM_ : List Contrib) (flyM_ : List Contrib) (sqM_ : Tab SqReg) (vaultM_ : Tab Vault) (pvM_ : Tab PhysVault) (sysRemapM_ : Tab Nat) (reserveM_ : Tab Nat) (dpmM_ : Tab (Option DpmBuf)) (dpmNextM_ : Nat) (dpmResultM_ : W64) (planAddrM_ : Option Nat) (planStatusM_ : W16) (planM_ : Option Plan) (releasedB_ : Bool) (relAtB_ : Nat) (stageB_ : Nat) (sinceB_ : Nat) (slotB_ : Bool) (trialB_ : Bool) (fellBackB_ : Bool) (selfOkB_ : Bool) (statusB_ : W16) (tellB_ : Bool) (manB_ : List Byte) (fl0B_ : Flash) (fl1B_ : Flash) (retriesB_ : Nat) (updB_ : Nat) (updStatusB_ : W16) (failBlkB_ : Nat) (updSlotB_ : Bool) (trialAtB_ : Nat) (fallAtB_ : Option Nat) (attB_ : Option (Nat × List Byte)) (attDoneB_ : Bool) (attStatusB_ : W16) :
    Keeps s (State.mk t.pending now_ drawn_ regs_ ports_ host_ tl_ sync_ cx_ (MemSt.mk t.mem.byte ueM_ ordcM_ heldM_ flyM_ sqM_ vaultM_ pvM_ sysRemapM_ reserveM_ dpmM_ dpmNextM_ dpmResultM_ planAddrM_ planStatusM_ planM_) fab_ flt_ trn_ stb_ coll_ och_ ring_ (BootSt.mk releasedB_ relAtB_ stageB_ sinceB_ slotB_ trialB_ fellBackB_ selfOkB_ statusB_ tellB_ manB_ fl0B_ fl1B_ retriesB_ updB_ updStatusB_ failBlkB_ updSlotB_ trialAtB_ fallAtB_ attB_ attDoneB_ attStatusB_ t.boot.svnMin t.boot.revoked) dom_ pwr_) := h.same rfl rfl rfl rfl

theorem Keeps.ite {s t u : State} {p : Prop} [Decidable p] (ht : Keeps s t) (hu : Keeps s u) : Keeps s (if p then t else u) := by
  split
  · exact ht
  · exact hu

theorem Keeps.foldl {α : Type} {s t : State} {f : State → α → State} (h : Keeps s t) (hf : ∀ u a, Keeps s u → Keeps s (f u a))
    (l : List α) : Keeps s (l.foldl f t) := by
  induction l generalizing t with
  | nil => exact h
  | cons a l ih => exact ih (hf t a h)

theorem putBytes_wf (m : Tab Byte) (off : Nat) (bs : List Byte) (h : Tab.wf 0 m = true) : Tab.wf 0 (putBytes m off bs) = true := by
  induction bs generalizing m off with
  | nil => exact h
  | cons b bs ih => exact ih _ _ (Tab.wf_put 0 m off b h)

theorem Keeps.bytes {s t u : State} (h : Keeps s t) (hp : u.pending = t.pending) (hb : u.boot = t.boot)
    (hm : Memory.wf t.mem = true → Memory.wf u.mem = true) : Keeps s u :=
  ⟨hp.trans h.pending, hb ▸ h.svn, hb ▸ h.revoked, fun w => hm (h.mem w)⟩
/-- The same for a fold that carries the state inside something else. -/
theorem Keeps.foldlOf {α β : Type} {s : State} {f : β → α → β} (g : β → State) {b : β} (h : Keeps s (g b))
    (hf : ∀ c a, Keeps s (g c) → Keeps s (g (f c a))) (l : List α) : Keeps s (g (l.foldl f b)) := by
  induction l generalizing b with
  | nil => exact h
  | cons a l ih => exact ih (hf b a h)

end Sys2Proof.Machine
end

