-- ==== Sys2Proof/Laws/KeepsOps.lean ====
section
/-! SUPPORT. What the shared operations, the link, packets and memory keep (see KeepsBase.lean): one lemma per operation. -/

namespace Sys2Proof.Machine

/-! ## Machine/Ops.lean -/

theorem State.setReg_keeps {s t : State} (h : Keeps s t) (off : Nat) (v : W64) :
    Keeps s (State.setReg t off v) := by
  grind [State.setReg, Keeps.mk0]

theorem State.draw_keeps {s t : State} (h : Keeps s t)  :
    Keeps s (State.draw t).2 := by
  grind [State.draw, Keeps.mk0]

theorem State.setQueue_keeps {s t : State} (h : Keeps s t) (q : Nat) (x : Queue) :
    Keeps s (State.setQueue t q x) := by
  grind [State.setQueue, Keeps.mk0]

theorem State.setSlot_keeps {s t : State} (h : Keeps s t) (i : Nat) (x : Slot) :
    Keeps s (State.setSlot t i x) := by
  grind [State.setSlot, Keeps.mk0]

theorem State.setPort_keeps {s t : State} (h : Keeps s t) (p : PortId) (x : Port) :
    Keeps s (State.setPort t p x) := by
  grind [State.setPort, Keeps.mk0]

theorem State.updCmd_keeps {s t : State} (h : Keeps s t) (q : Nat) (seq : W32) (f : Cmd → Cmd) :
    Keeps s (State.updCmd t q seq f) := by
  grind [State.updCmd, State.setQueue_keeps, Keeps.mk0]

theorem State.endCmd_keeps {s t : State} (h : Keeps s t) (q : Nat) (seq : W32) (st : W16) (data : List Byte) :
    Keeps s (State.endCmd t q seq st data) := by
  grind [State.endCmd, State.updCmd_keeps, Keeps.mk0]

theorem State.postUp_keeps {s t : State} (h : Keeps s t) (k : Packet) :
    Keeps s (State.postUp t k) := by
  grind [State.postUp, Keeps.mk0]

theorem State.postDown_keeps {s t : State} (h : Keeps s t) (k : Packet) :
    Keeps s (State.postDown t k) := by
  grind [State.postDown, Keeps.mk0]

theorem State.event_keeps {s t : State} (h : Keeps s t) (c : Nat) (st : W16) (dw2 : W32) (dw3 : W32) :
    Keeps s (State.event t c st dw2 dw3) := by
  grind [State.event, State.postUp_keeps, Keeps.mk0]

theorem State.errCount_keeps {s t : State} (h : Keeps s t) (i : Nat) (n : Nat) :
    Keeps s (State.errCount t i n) := by
  grind [State.errCount, Keeps.mk0]

theorem State.setTile_keeps {s t : State} (h : Keeps s t) (t_ : Nat) (x : Tile) :
    Keeps s (State.setTile t t_ x) := by
  grind [State.setTile, Keeps.mk0]

theorem State.updTile_keeps {s t : State} (h : Keeps s t) (t_ : Nat) (f : Tile → Tile) :
    Keeps s (State.updTile t t_ f) := by
  grind [State.updTile, State.setTile_keeps, Keeps.mk0]

theorem State.setCluster_keeps {s t : State} (h : Keeps s t) (c : Nat) (x : Cluster) :
    Keeps s (State.setCluster t c x) := by
  grind [State.setCluster, Keeps.mk0]

theorem State.updCluster_keeps {s t : State} (h : Keeps s t) (c : Nat) (f : Cluster → Cluster) :
    Keeps s (State.updCluster t c f) := by
  grind [State.updCluster, State.setCluster_keeps, Keeps.mk0]

theorem State.updLaunch_keeps {s t : State} (h : Keeps s t) (q : Nat) (seq : W32) (f : Launch → Launch) :
    Keeps s (State.updLaunch t q seq f) := by
  grind [State.updLaunch, Keeps.mk0]

theorem State.setObj_keeps {s t : State} (h : Keeps s t) (i : Nat) (v : W32) :
    Keeps s (State.setObj t i v) := by
  grind [State.setObj, Keeps.mk0]

theorem State.signal_keeps {s t : State} (h : Keeps s t) (g : Signal) :
    Keeps s (State.signal t g) := by
  grind [State.signal, Keeps.mk0]

theorem State.homeAdd_keeps {s t : State} (h : Keeps s t) (o : Nat) (v : W32) :
    Keeps s (State.homeAdd t o v) := by
  grind [State.homeAdd, State.setObj_keeps, State.signal_keeps, Keeps.mk0]

theorem State.fabSend_keeps {s t : State} (h : Keeps s t) (dst : BitVec 12) (b : FabBody) :
    Keeps s (State.fabSend t dst b).1 := by
  grind [State.fabSend, Keeps.mk0]

theorem State.sendMsg_keeps {s t : State} (h : Keeps s t) (dst : BitVec 12) (m : Msg) : Keeps s (t.sendMsg dst m) := by
  unfold State.sendMsg
  split
  · exact State.fabSend_keeps h _ _
  · exact Keeps.foldl h (fun u a hu => State.fabSend_keeps hu _ _) _

theorem State.sendAll_keeps {s t : State} (h : Keeps s t) (l : List (BitVec 12)) (m : Msg) :
    Keeps s (State.sendAll t l m) := by
  grind [State.sendAll, State.sendMsg_keeps, Keeps.mk0, Keeps.foldl]

theorem State.setCtx_keeps {s t : State} (h : Keeps s t) (c : Nat) (x : Ctx) :
    Keeps s (State.setCtx t c x) := by
  grind [State.setCtx, Keeps.mk0]

/-! ## Machine/Log.lean -/

theorem State.count_keeps {s t : State} (h : Keeps s t) (n : Nat) (k : Nat) :
    Keeps s (State.count t n k) := by
  grind [State.count, Keeps.mk0]

theorem State.log_keeps {s t : State} (h : Keeps s t) (cls : Nat) (action : Nat) (st : W16) (unit : W16) (ident : BitVec 12) (detail : W64) :
    Keeps s (State.log t cls action st unit ident detail) := by
  grind [State.log, State.event_keeps, Keeps.mk0]

theorem State.notice_keeps {s t : State} (h : Keeps s t) (unit : W16) (detail : W64) :
    Keeps s (State.notice t unit detail) := by
  grind [State.notice, State.log_keeps, Keeps.mk0]

theorem State.countSat_keeps {s t : State} (h : Keeps s t) (tensor : Nat) (k : Nat) :
    Keeps s (State.countSat t tensor k) := by
  grind [State.countSat, State.count_keeps, Keeps.mk0]

theorem State.stepFlags_keeps {s t : State} (h : Keeps s t) (ver : W64) (step : Bool) (fl : Fl) :
    Keeps s (State.stepFlags t ver step fl) := by
  grind [State.stepFlags, Keeps.mk0]

/-! ## Machine/Link.lean -/

theorem State.linkCount_keeps {s t : State} (h : Keeps s t) (p : PortId) (i : Nat) (n : Nat) :
    Keeps s (State.linkCount t p i n) := by
  unfold State.linkCount
  (repeat' split) <;> grind [State.errCount_keeps, Keeps.mk0]

theorem State.logOpen_keeps {s t : State} (h : Keeps s t) (cls : Nat) (action : Nat) (st : W16) (unit : W16) :
    Keeps s (State.logOpen t cls action st unit) := by
  grind [State.logOpen, State.draw_keeps, State.log_keeps, Keeps.mk0]

theorem State.updPort_keeps {s t : State} (h : Keeps s t) (p : PortId) (f : Port → Port) :
    Keeps s (State.updPort t p f) := by
  grind [State.updPort, State.setPort_keeps, Keeps.mk0]

theorem State.enterRetrain_keeps {s t : State} (h : Keeps s t) (p : PortId) :
    Keeps s (State.enterRetrain t p) := by
  grind [State.enterRetrain, State.notice_keeps, State.linkCount_keeps, State.logOpen_keeps, State.updPort_keeps, Keeps.mk0]

theorem State.enterDown_keeps {s t : State} (h : Keeps s t) (p : PortId) :
    Keeps s (State.enterDown t p) := by
  unfold State.enterDown
  (repeat' split) <;> grind [State.enterDown, State.setPort_keeps, State.event_keeps, State.linkCount_keeps, State.logOpen_keeps, Keeps.mk0]

theorem State.trainFail_keeps {s t : State} (h : Keeps s t) (p : PortId) :
    Keeps s (State.trainFail t p) := by
  grind [State.trainFail, State.setPort_keeps, State.updPort_keeps, State.enterRetrain_keeps, State.enterDown_keeps, Keeps.mk0]

theorem State.trainDone_keeps {s t : State} (h : Keeps s t) (p : PortId) (r : TrainReport) :
    Keeps s (State.trainDone t p r) := by
  grind [State.trainDone, State.setPort_keeps, State.updPort_keeps, State.enterDown_keeps, Keeps.mk0]

theorem State.discardFlit_keeps {s t : State} (h : Keeps s t) (p : PortId) (nak : Bool) :
    Keeps s (State.discardFlit t p nak) := by
  grind [State.discardFlit, State.linkCount_keeps, State.updPort_keeps, Keeps.mk0]

theorem State.takeCtrl_keeps {s t : State} (h : Keeps s t) (p : PortId) (f : Flit) :
    Keeps s (State.takeCtrl t p f) := by
  grind [State.takeCtrl, State.setPort_keeps, State.updPort_keeps, State.enterRetrain_keeps, Keeps.mk0, Keeps.foldl]

theorem State.recvFlit_keeps {s t : State} (h : Keeps s t) (p : PortId) (bytes : List Byte) (ctrl : Bool) :
    Keeps s (State.recvFlit t p bytes ctrl) := by
  grind [State.recvFlit, State.setPort_keeps, State.linkCount_keeps, State.logOpen_keeps, State.updPort_keeps, State.discardFlit_keeps, State.takeCtrl_keeps, Keeps.mk0]

/-! ## Machine/Packets.lean -/

theorem State.respondAs_keeps {s t : State} (h : Keeps s t) (k : Packet) (ty : Nat) (m : Nat) (dw1 : W32) (v : W64) (payload : List Byte) :
    Keeps s (State.respondAs t k ty m dw1 v payload) := by
  grind [State.respondAs, State.postUp_keeps, Keeps.mk0]

theorem State.respond_keeps {s t : State} (h : Keeps s t) (k : Packet) (st : W16) (v : W64) (payload : List Byte) :
    Keeps s (State.respond t k st v payload) := by
  grind [State.respond, State.respondAs_keeps, Keeps.mk0]

theorem State.cmdReply_keeps {s t : State} (h : Keeps s t) (k : Packet) (m : Nat) (st : W16) (idx : Option Nat) (fld_ : Option Nat) (first : Option W32) :
    Keeps s (State.cmdReply t k m st idx fld_ first) := by
  grind [State.cmdReply, State.draw_keeps, State.respondAs_keeps, Keeps.mk0]

theorem State.failResponse_keeps {s t : State} (h : Keeps s t) (k : Packet) (st : W16) (m : Nat) :
    Keeps s (State.failResponse t k st m) := by
  grind [State.failResponse, State.draw_keeps, State.respondAs_keeps, State.cmdReply_keeps, Keeps.mk0]

theorem State.packetError_keeps {s t : State} (h : Keeps s t) (k : Packet) (st : W16) :
    Keeps s (State.packetError t k st) := by
  grind [State.packetError, State.event_keeps, Keeps.mk0]

theorem State.dropped_keeps {s t : State} (h : Keeps s t)  :
    Keeps s (State.dropped t) := by
  grind [State.dropped, State.errCount_keeps, Keeps.mk0]

theorem State.badPacket_keeps {s t : State} (h : Keeps s t) (k : Packet) (st : W16) :
    Keeps s (State.badPacket t k st) := by
  grind [State.badPacket, State.failResponse_keeps, State.packetError_keeps, State.dropped_keeps, Keeps.mk0]

theorem State.forwardDown_keeps {s t : State} (h : Keeps s t) (k : Packet) (dest : Nat) :
    Keeps s (State.forwardDown t k dest) := by
  grind [State.forwardDown, State.postDown_keeps, State.event_keeps, State.failResponse_keeps, Keeps.mk0]

theorem State.takeRx_keeps {s t : State} (h : Keeps s t) (p : PortId) (k : Packet) :
    Keeps s (State.takeRx t p k) := by
  grind [State.takeRx, State.updPort_keeps, Keeps.mk0]

theorem State.badLen_keeps {s t : State} (h : Keeps s t) (p : PortId) (k : Packet) :
    Keeps s (State.badLen t p k) := by
  grind [State.badLen, State.updPort_keeps, State.packetError_keeps, State.dropped_keeps, Keeps.mk0]

theorem State.badAndOn_keeps {s t : State} (h : Keeps s t) (k : Packet) (st : W16) :
    Keeps s (State.badAndOn t k st) := by
  grind [State.badAndOn, State.badPacket_keeps, State.forwardDown_keeps, Keeps.mk0]

theorem State.pxu_keeps {s t : State} (h : Keeps s t) (k : Packet) (ty : Nat) (body : State → State)
    (hb : ∀ u, Keeps s u → Keeps s (body u)) : Keeps s (t.pxu k ty body) := by
  grind [State.pxu, State.takeRx_keeps, State.badLen_keeps, State.badAndOn_keeps, State.forwardDown_keeps]

theorem State.wait_keeps {s t : State} (h : Keeps s t) (i : Instr) :
    Keeps s (State.wait t i) := by
  grind [State.wait, Keeps.mk0]

theorem State.inTurn_keeps {s t u : State} (h : Keeps s t) (i : Instr) (held : Bool) (hu : Keeps s u) : Keeps s (t.inTurn i held u) := by
  grind [State.inTurn, State.wait_keeps]

theorem State.joins_keeps {s t : State} (h : Keeps s t)  :
    Keeps s (State.joins t) := by
  grind [State.joins, State.log_keeps, Keeps.mk0, Keeps.mkB]

/-! ## Machine/Mem.lean -/

theorem State.clearRound_keeps {s t : State} (h : Keeps s t) (g : Nat) :
    Keeps s (State.clearRound t g) := by
  grind [State.clearRound, State.count_keeps, Keeps.mk0, Keeps.mkM]

theorem State.putPiece_keeps {s t : State} (h : Keeps s t) (loc : Nat) (bs : List Byte) : Keeps s ((t.putPiece loc bs)).1 := by
  unfold State.putPiece
  split
  · exact h
  · exact (State.clearRound_keeps h (loc / 64)).bytes rfl rfl (fun w => putBytes_wf _ _ _ w)

theorem State.putRefPiece_keeps {s t : State} (h : Keeps s t) (r : Ref) (bs : List Byte) :
    Keeps s (State.putRefPiece t r bs).1 := by
  grind [State.putRefPiece, State.putPiece_keeps, Keeps.mk0]

theorem State.putBytesAt_keeps {s t : State} (h : Keeps s t) (n : Nat) (r : Ref) (bs : List Byte) :
    Keeps s ((t.putBytesAt n r bs)).1 := by
  induction n generalizing t r bs with
  | zero => simpa [State.putBytesAt] using h
  | succ n ih =>
    cases bs with
    | nil => simpa [State.putBytesAt] using h
    | cons b bs => exact ih (State.putRefPiece_keeps h _ _) _ _

theorem State.writeRef_keeps {s t : State} (h : Keeps s t) (r : Ref) (bs : List Byte) :
    Keeps s (State.writeRef t r bs).1 := by
  grind [State.writeRef, State.putBytesAt_keeps, Keeps.mk0]

theorem State.writeLoc_keeps {s t : State} (h : Keeps s t) (loc : Nat) (bs : List Byte) :
    Keeps s (State.writeLoc t loc bs) := by
  grind [State.writeLoc, State.putPiece_keeps, Keeps.mk0, Keeps.foldl]

theorem State.setVault_keeps {s t : State} (h : Keeps s t) (v : Nat) (x : Vault) :
    Keeps s (State.setVault t v x) := by
  grind [State.setVault, Keeps.mk0, Keeps.mkM]

theorem State.logMem_keeps {s t : State} (h : Keeps s t) (cls : Nat) (action : Nat) (loc : Nat) :
    Keeps s (State.logMem t cls action loc) := by
  grind [State.logMem, State.log_keeps, Keeps.mk0]

theorem State.rewrite_keeps {s t : State} (h : Keeps s t) (g : Nat) (bs : List Byte) : Keeps s (t.rewrite g bs) :=
  h.bytes rfl rfl (fun w => putBytes_wf _ _ _ w)

theorem State.repairGranule_keeps {s t : State} (h : Keeps s t) (g : Nat) :
    Keeps s (State.repairGranule t g).1 := by
  grind [State.repairGranule, State.count_keeps, State.logMem_keeps, State.rewrite_keeps, Keeps.mk0]

theorem State.readAt_keeps {s t : State} (h : Keeps s t) (n : Nat) (r : Ref) (k : Nat) : Keeps s ((t.readAt n r k)).2.1 := by
  induction n generalizing t r k with
  | zero => simpa [State.readAt] using h
  | succ n ih => grind [State.readAt, State.repairGranule_keeps]

theorem State.readRef_keeps {s t : State} (h : Keeps s t) (r : Ref) (n : Nat) :
    Keeps s (State.readRef t r n).2.1 := by
  grind [State.readRef, State.readAt_keeps, Keeps.mk0]

theorem State.setSq_keeps {s t : State} (h : Keeps s t) (v : Nat) (x : SqReg) :
    Keeps s (State.setSq t v x) := by
  grind [State.setSq, Keeps.mk0, Keeps.mkM]

theorem State.fileFlags_keeps {s t : State} (h : Keeps s t) (c : Contrib) (fl : Fl) :
    Keeps s (State.fileFlags t c fl) := by
  grind [State.fileFlags, State.countSat_keeps, State.stepFlags_keeps, Keeps.mk0]

theorem State.applyContrib_keeps {s t : State} (h : Keeps s t) (c : Contrib) : Keeps s ((t.applyContrib c)).1 := by
  unfold State.applyContrib
  dsimp only
  split
  · exact State.fileFlags_keeps (State.setSq_keeps h _ _) _ _
  · apply State.fileFlags_keeps
    split
    · exact h.bytes rfl rfl (fun w => putBytes_wf _ _ _ w)
    · exact h.bytes rfl rfl (fun w => putBytes_wf _ _ _ (putBytes_wf _ _ _ w))

theorem State.applyHeld_keeps {s t : State} (h : Keeps s t) (n : Nat) (k : Nat × Nat) (fl : Fl) : Keeps s ((t.applyHeld n k fl)).1 := by
  induction n generalizing t fl with
  | zero => simpa [State.applyHeld] using h
  | succ n ih => grind [State.applyHeld, State.applyContrib_keeps, Keeps.mkM]

theorem State.sqStart_keeps {s t : State} (h : Keeps s t) (c : Contrib) :
    Keeps s (State.sqStart t c) := by
  grind [State.sqStart, State.setSq_keeps, Keeps.mk0]

theorem State.offer_keeps {s t : State} (h : Keeps s t) (c : Contrib) :
    Keeps s (State.offer t c).1 := by
  grind [State.offer, State.count_keeps, State.applyContrib_keeps, State.applyHeld_keeps, State.sqStart_keeps, Keeps.mk0, Keeps.mkM]

theorem State.zeroWhere_keeps {s t : State} (h : Keeps s t) (p : Nat → Bool) : Keeps s (t.zeroWhere p) := by
  unfold State.zeroWhere
  dsimp only
  split
  · exact h.bytes rfl rfl (fun w => Tab.wf_filter _ _ _ w)
  · apply State.count_keeps
    exact h.bytes rfl rfl (fun w => Tab.wf_filter _ _ _ w)

theorem State.zeroRange_keeps {s t : State} (h : Keeps s t) (a : Nat) (n : Nat) :
    Keeps s (State.zeroRange t a n) := by
  grind [State.zeroRange, State.zeroWhere_keeps, Keeps.mk0]

theorem State.copyRange_keeps {s t : State} (h : Keeps s t) (a b n : Nat) : Keeps s (t.copyRange a b n) := by
  have fold : ∀ (l : List (Nat × Byte)) (d : Nat → Nat) (m : Tab Byte), Tab.wf 0 m = true →
      Tab.wf 0 (l.foldl (fun m p => Tab.put 0 m (d p.1) p.2) m) = true := by
    intro l d
    induction l with
    | nil => exact fun _ w => w
    | cons p l ih => exact fun m w => ih _ (Tab.wf_put _ _ _ _ w)
  unfold State.copyRange
  extract_lets s1 dst bytes ues
  exact (State.zeroRange_keeps h b n).bytes rfl rfl (fun w => fold bytes dst _ w)

/-! ## Machine/Protect.lean -/

theorem State.markOpt_keeps {s t : State} (h : Keeps s t) (r : Ref) (n : Nat) :
    Keeps s (State.markOpt t r n) := by
  grind [State.markOpt, Keeps.mk0]

end Sys2Proof.Machine
end

