-- ==== Sys2Proof/Laws/KeepsTile.lean ====
section
/-! SUPPORT. What issue, streams, sync, tiles, capacity, the codes, matrix, contexts and engines keep (see KeepsBase.lean): one lemma per operation. -/

namespace Sys2Proof.Machine

/-! ## Machine/Issue.lean -/

theorem State.settleFault_keeps {s t : State} (h : Keeps s t) (l : Launch) :
    Keeps s (State.settleFault t l) := by
  grind [State.settleFault, State.endCmd_keeps, Keeps.mk0]

theorem State.settle_keeps {s t : State} (h : Keeps s t) (t_ : Nat) :
    Keeps s (State.settle t t_) := by
  grind [State.settle, State.settleFault_keeps, Keeps.mk0]

theorem State.stopTiles_keeps {s t : State} (h : Keeps s t) (l : Launch) :
    Keeps s (State.stopTiles t l) := by
  grind [State.stopTiles, State.updTile_keeps, Keeps.mk0, Keeps.foldl]

theorem State.stopSet_keeps {s t : State} (h : Keeps s t) (l : Launch) (st : W16) (data : List Byte) :
    Keeps s (State.stopSet t l st data) := by
  grind [State.stopSet, State.updLaunch_keeps, State.stopTiles_keeps, Keeps.mk0]

theorem State.progFault_keeps {s t : State} (h : Keeps s t) (t_ : Nat) (pc : W64) (f : TFault) :
    Keeps s (State.progFault t t_ pc f) := by
  grind [State.progFault, State.updTile_keeps, State.updLaunch_keeps, State.settle_keeps, Keeps.mk0]

theorem State.stopFaulted_keeps {s t : State} (h : Keeps s t)  :
    Keeps s (State.stopFaulted t) := by
  grind [State.stopFaulted, State.settleFault_keeps, State.stopTiles_keeps, Keeps.mk0, Keeps.foldl]

theorem State.issue_keeps {s u : State} (h : Keeps s u) (t c o : Nat) (w : W64) (body : State → Launch → State)
    (hb : ∀ v l, Keeps s v → Keeps s (body v l)) : Keeps s (State.issue u t c o w body) := by
  unfold State.issue
  split
  · exact h
  · exact State.updTile_keeps h _ _
  · exact State.progFault_keeps h _ _ _
  · exact hb _ _ (State.updTile_keeps h _ _)

theorem State.scalar_keeps {s u : State} (h : Keeps s u) (t o : Nat) (w : W64) (f : Tile → Launch → SRes) : Keeps s (State.scalar u t o w f) := by
  unfold State.scalar
  refine State.issue_keeps h _ _ _ _ _ ?_
  grind [State.progFault_keeps, State.setTile_keeps, State.updTile_keeps]

theorem State.alu_keeps {s u : State} (h : Keeps s u) (t o : Nat) (w : W64) (f : W64 → W64 → W64) : Keeps s (State.alu u t o w f) :=
  State.scalar_keeps h _ _ _ _

theorem State.alui_keeps {s u : State} (h : Keeps s u) (t o : Nat) (w : W64) (f : W64 → W64 → W64) : Keeps s (State.alui u t o w f) :=
  State.scalar_keeps h _ _ _ _

theorem State.shimm_keeps {s u : State} (h : Keeps s u) (t o : Nat) (w : W64) (f : W64 → Nat → W64) : Keeps s (State.shimm u t o w f) :=
  State.scalar_keeps h _ _ _ _

theorem State.load_keeps {s t : State} (h : Keeps s t) (t_ : Nat) (o : Nat) (w : W64) (n : Nat) (sx : Bool) :
    Keeps s (State.load t t_ o w n sx) := by
  grind [State.load, State.scalar_keeps, Keeps.mk0]

theorem State.store_keeps {s t : State} (h : Keeps s t) (t_ : Nat) (o : Nat) (w : W64) (n : Nat) :
    Keeps s (State.store t t_ o w n) := by
  grind [State.store, State.scalar_keeps, Keeps.mk0]

theorem State.branch_keeps {s u : State} (h : Keeps s u) (t o : Nat) (w : W64) (f : W64 → W64 → Bool) : Keeps s (State.branch u t o w f) :=
  State.scalar_keeps h _ _ _ _

theorem State.enqueue_keeps {s u : State} (h : Keeps s u) (t c o : Nat) (w : W64) (eng : Eng) : Keeps s (State.enqueue u t c o w eng) := by
  unfold State.enqueue
  refine State.issue_keeps h _ _ _ _ _ ?_
  grind [State.progFault_keeps, State.setTile_keeps, State.updTile_keeps]

/-! ## Machine/Stream.lean -/

theorem State.descOp_keeps {s u : State} (h : Keeps s u) (t o : Nat) (w : W64) (f : Tile → Option TFault × Tile) : Keeps s (State.descOp u t o w f) := by
  unfold State.descOp
  refine State.issue_keeps h _ _ _ _ _ ?_
  grind [State.progFault_keeps, State.setTile_keeps, State.updTile_keeps]

theorem State.issueXfer_keeps {s u : State} (h : Keeps s u) (t o : Nat) (w : W64) (eng : Eng) : Keeps s (State.issueXfer u t o w eng) := by
  unfold State.issueXfer
  refine State.issue_keeps h _ _ _ _ _ ?_
  grind [State.progFault_keeps, State.setTile_keeps, State.updTile_keeps]

theorem State.sldRun_keeps {s t : State} (h : Keeps s t) (t_ : Nat) (i : EInstr) (k : Nat) :
    Keeps s (State.sldRun t t_ i k).1 := by
  grind [State.sldRun, State.updTile_keeps, State.readRef_keeps, Keeps.mk0]

theorem State.sstRun_keeps {s t : State} (h : Keeps s t) (t_ : Nat) (i : EInstr) (k : Nat) :
    Keeps s (State.sstRun t t_ i k).1 := by
  grind [State.sstRun, State.writeRef_keeps, State.markOpt_keeps, Keeps.mk0]

theorem State.saccRun_keeps {s t : State} (h : Keeps s t) (t_ : Nat) (i : EInstr) (k : Nat) :
    Keeps s (State.saccRun t t_ i k).1 := by
  grind [State.saccRun, State.markOpt_keeps, Keeps.mk0, Keeps.mkM]

theorem State.runs_keeps {s t : State} (step : State → Nat → State × Option TFault)
    (hs : ∀ u k, Keeps s u → Keeps s (step u k).1) (h : Keeps s t) (n k : Nat) : Keeps s (State.runs step n t k).1 := by
  induction n generalizing t k with
  | zero => exact h
  | succ n ih => grind [State.runs]

/-! ## Machine/Sync.lean -/

theorem State.issueWait_keeps {s t : State} (h : Keeps s t) (t_ : Nat) (o : Nat) (w : W64) :
    Keeps s (State.issueWait t t_ o w) := by
  grind [State.issueWait, State.updTile_keeps, State.enqueue_keeps, Keeps.mk0]

theorem State.remoteSig_keeps {s t : State} (h : Keeps s t) (o : SigOwner) (m : BitVec 12) (obj : Nat) (add : W32) :
    Keeps s (State.remoteSig t o m obj add) := by
  grind [State.remoteSig, State.fabSend_keeps, Keeps.mk0]

theorem State.sigLost_keeps {s t : State} (h : Keeps s t) (o : SigOwner) :
    Keeps s (State.sigLost t o) := by
  unfold State.sigLost
  (repeat' split) <;> grind [State.endCmd_keeps, State.updLaunch_keeps, Keeps.mk0]

theorem State.sigToHolder_keeps {s t : State} (h : Keeps s t) (o : SigOwner) (d : Option (BitVec 12)) (obj : Nat) (add : W32) :
    Keeps s (State.sigToHolder t o d obj add) := by
  unfold State.sigToHolder
  (repeat' split) <;> grind [State.endCmd_keeps, State.signal_keeps, State.homeAdd_keeps, State.remoteSig_keeps, State.sigLost_keeps, Keeps.mk0]

theorem State.peerSig_keeps {s t : State} (h : Keeps s t) (o : SigOwner) (m : BitVec 12) (obj : Nat) (add : W32) :
    Keeps s (State.peerSig t o m obj add) := by
  grind [State.peerSig, State.sigToHolder_keeps, Keeps.mk0]

theorem State.sendSig_keeps {s t : State} (h : Keeps s t) (t_ : Nat) (peer : Option (BitVec 12)) (obj : Nat) (add : W32) :
    Keeps s (State.sendSig t t_ peer obj add) := by
  unfold State.sendSig
  (repeat' split) <;> grind [State.signal_keeps, State.peerSig_keeps, Keeps.mk0]

theorem State.startSig_keeps {s t : State} (h : Keeps s t) (t_ : Nat) (i : EInstr) :
    Keeps s (State.startSig t t_ i) := by
  grind [State.startSig, State.sendSig_keeps, Keeps.mk0]

theorem State.reclaim_keeps {s t : State} (h : Keeps s t) (c : Nat) :
    Keeps s (State.reclaim t c) := by
  grind [State.reclaim, State.signal_keeps, State.setCtx_keeps, Keeps.mk0, Keeps.foldl]

theorem State.unpin_keeps {s t : State} (h : Keeps s t) (p : Pin) :
    Keeps s (State.unpin t p) := by
  grind [State.unpin, State.reclaim_keeps, Keeps.mk0]

theorem State.unpinAppend_keeps {s t : State} (h : Keeps s t) (q : Nat) (seq : W32) :
    Keeps s (State.unpinAppend t q seq) := by
  grind [State.unpinAppend, State.unpin_keeps, Keeps.mk0]

theorem State.syncEffect_keeps {s t : State} (h : Keeps s t) (t_ : Nat) (i : EInstr) :
    Keeps s (State.syncEffect t t_ i) := by
  grind [State.syncEffect, State.updTile_keeps, State.unpin_keeps, Keeps.mk0]

theorem State.endWait_keeps {s t : State} (h : Keeps s t) (t_ : Nat) (i : EInstr) (outcome : W64) :
    Keeps s (State.endWait t t_ i outcome) := by
  grind [State.endWait, State.setTile_keeps, State.settle_keeps, State.progFault_keeps, Keeps.mk0]

theorem State.stageStall_keeps {s t : State} (h : Keeps s t) (t_ : Nat) (x : Tile) :
    Keeps s (State.stageStall t t_ x) := by
  grind [State.stageStall, State.updLaunch_keeps, State.count_keeps, State.notice_keeps, Keeps.mk0]

/-! ## Machine/Tiles.lean -/

theorem State.openUse_keeps {s t : State} (h : Keeps s t) (l : Launch) (t_ : Nat) :
    Keeps s (State.openUse t l t_) := by
  grind [State.openUse, Keeps.mk0]

theorem State.closeUse_keeps {s t : State} (h : Keeps s t) (q : Nat) (seq : W32) (p : Use → Bool) :
    Keeps s (State.closeUse t q seq p) := by
  grind [State.closeUse, Keeps.mk0]

theorem State.startAll_keeps {s t : State} (h : Keeps s t) (l : Launch) :
    Keeps s (State.startAll t l) := by
  grind [State.startAll, State.setTile_keeps, State.updLaunch_keeps, State.openUse_keeps, Keeps.mk0, Keeps.foldl]

theorem State.tileReady_keeps {s t : State} (h : Keeps s t) (q : Nat) (seq : W32) (t_ : Nat) :
    Keeps s (State.tileReady t q seq t_) := by
  grind [State.tileReady, State.updLaunch_keeps, State.startAll_keeps, Keeps.mk0]

theorem State.addMove_keeps {s t : State} (h : Keeps s t) (m : Move) :
    Keeps s (State.addMove t m) := by
  grind [State.addMove, Keeps.mk0]

theorem State.dropMoves_keeps {s t : State} (h : Keeps s t) (p : Move → Bool) :
    Keeps s (State.dropMoves t p) := by
  grind [State.dropMoves, Keeps.mk0]

theorem State.releasePins_keeps {s t : State} (h : Keeps s t) (q : Nat) (seq : W32) :
    Keeps s (State.releasePins t q seq) := by
  grind [State.releasePins, State.count_keeps, State.unpin_keeps, Keeps.mk0, Keeps.foldl]

theorem State.freeLaunch_keeps {s t : State} (h : Keeps s t) (q : Nat) (seq : W32) :
    Keeps s (State.freeLaunch t q seq) := by
  unfold State.freeLaunch
  (repeat' split) <;> grind [State.setTile_keeps, State.closeUse_keeps, State.tileReady_keeps, State.addMove_keeps, State.releasePins_keeps, Keeps.mk0, Keeps.foldl]

/-! ## Machine/Manage.lean -/

theorem State.resume_keeps {s t : State} (h : Keeps s t) (b : Bool) : Keeps s (t.resume b) := by
  unfold State.resume
  dsimp only
  have h1 := State.count_keeps h Cnt.resumes 1
  split
  · exact h1.same rfl rfl rfl rfl
  · split
    · exact (State.zeroWhere_keeps h1 _).same rfl rfl rfl rfl
    · exact h1.same rfl rfl rfl rfl

theorem State.cutLaunch_keeps {s t : State} (h : Keeps s t) (q : Nat) (seq : W32) (st : W16) :
    Keeps s (State.cutLaunch t q seq st) := by
  grind [State.cutLaunch, State.endCmd_keeps, State.stopSet_keeps, Keeps.mk0]

theorem State.dropCmd_keeps {s t : State} (h : Keeps s t) (q : Nat) (seq : W32) :
    Keeps s (State.dropCmd t q seq) := by
  grind [State.dropCmd, State.setQueue_keeps, State.updCmd_keeps, State.dropped_keeps, State.freeLaunch_keeps, Keeps.mk0]

theorem State.recallOne_keeps {s t : State} (h : Keeps s t) (cls : Nat) (unit : W16) (st : W16) (u_ : Use) :
    Keeps s (State.recallOne t cls unit st u_) := by
  grind [State.recallOne, State.setSlot_keeps, State.count_keeps, State.log_keeps, State.cutLaunch_keeps, Keeps.mk0]

theorem State.suspect_keeps {s t : State} (h : Keeps s t) (cls : Nat) (unit : W16) (p : Use → Bool) (ivl : Nat) (st : W16) :
    Keeps s (State.suspect t cls unit p ivl st).1 := by
  grind [State.suspect, State.resume_keeps, State.dropCmd_keeps, State.recallOne_keeps, Keeps.mk0, Keeps.foldl]

theorem State.detect_keeps {s t : State} (h : Keeps s t) (cls : Nat) (unit : W16) (p : Use → Bool) (ivl : Nat) (st : W16) (action : Nat) (detail : W64) :
    Keeps s (State.detect t cls unit p ivl st action detail) := by
  grind [State.detect, State.event_keeps, State.log_keeps, State.suspect_keeps, Keeps.mk0]

theorem State.fence_keeps {s t : State} (h : Keeps s t)  :
    Keeps s (State.fence t) := by
  unfold State.fence
  split
  · exact h
  extract_lets f1 s1 s2 s3 f2 fb s4
  have h1 : Keeps s s1 := h.mk0 ..
  have h2 : Keeps s s2 := Keeps.foldl h1 (fun u a hu => State.stopSet_keeps hu _ _ _) _
  have h3 : Keeps s s3 := Keeps.foldl h2 (fun u a hu => State.endCmd_keeps (State.unpinAppend_keeps hu _ _) _ _ _ _) _
  have h4 : Keeps s s4 := h3.mk0 ..
  exact State.log_keeps h4 _ _ _ _ _ _

theorem State.declareSelf_keeps {s t : State} (h : Keeps s t)  :
    Keeps s (State.declareSelf t) := by
  grind [State.declareSelf, State.sendMsg_keeps, State.sendAll_keeps, State.log_keeps, State.fence_keeps, Keeps.mk0]

theorem State.retire_keeps {s t : State} (h : Keeps s t) (c : Nat) (p : Nat) :
    Keeps s (State.retire t c p) := by
  unfold State.retire
  (repeat' split) <;> grind [State.setCluster_keeps, State.log_keeps, State.addMove_keeps, State.declareSelf_keeps, Keeps.mk0]

theorem State.relock_keeps {s t : State} (h : Keeps s t) (c : Nat) :
    Keeps s (State.relock t c) := by
  grind [State.relock, State.updCluster_keeps, Keeps.mk0]

theorem State.applyTrim_keeps {s t : State} (h : Keeps s t) (c : Nat) :
    Keeps s (State.applyTrim t c) := by
  grind [State.applyTrim, State.updCluster_keeps, Keeps.mk0]

theorem State.marginStep_keeps {s t : State} (h : Keeps s t) (c : Nat) (p : Nat) :
    Keeps s (State.marginStep t c p).1 := by
  grind [State.marginStep, State.setCluster_keeps, State.count_keeps, State.log_keeps, State.retire_keeps, State.relock_keeps, State.applyTrim_keeps, Keeps.mk0]

theorem State.marginBack_keeps {s t : State} (h : Keeps s t) (c : Nat) (p : Nat) (k : StepKind) :
    Keeps s (State.marginBack t c p k) := by
  unfold State.marginBack
  (repeat' split) <;> grind [State.setCluster_keeps, State.relock_keeps, State.applyTrim_keeps, Keeps.mk0]

theorem State.detectTile_keeps {s t : State} (h : Keeps s t) (cls : Nat) (c : Nat) (p : Nat) (ivl : Nat) (st : W16) (margin : Bool) (detail : W64) :
    Keeps s (State.detectTile t cls c p ivl st margin detail) := by
  grind [State.detectTile, State.detect_keeps, State.marginStep_keeps, Keeps.mk0]

/-! ## Machine/Ecc.lean -/

theorem State.setPhys_keeps {s t : State} (h : Keeps s t) (c : Nat) (p : Nat) (x : PhysVault) :
    Keeps s (State.setPhys t c p x) := by
  grind [State.setPhys, Keeps.mk0, Keeps.mkM]

theorem State.takeReserve_keeps {s t : State} (h : Keeps s t) (c : Nat) (k : Nat) :
    Keeps s (State.takeReserve t c k) := by
  grind [State.takeReserve, Keeps.mk0, Keeps.mkM]

theorem State.remapVault_keeps {s t : State} (h : Keeps s t) (v : Nat) :
    Keeps s (State.remapVault t v) := by
  grind [State.remapVault, State.setVault_keeps, State.declareSelf_keeps, State.takeReserve_keeps, Keeps.mk0]

theorem State.remapSys_keeps {s t : State} (h : Keeps s t) (c : Nat) :
    Keeps s (State.remapSys t c) := by
  grind [State.remapSys, State.declareSelf_keeps, State.takeReserve_keeps, Keeps.mk0, Keeps.mkM]

theorem State.remapAt_keeps {s t : State} (h : Keeps s t) (c : Nat) (p : Nat) :
    Keeps s (State.remapAt t c p) := by
  grind [State.remapAt, State.remapVault_keeps, State.remapSys_keeps, Keeps.mk0]

theorem State.vaultMoved_keeps {s t : State} (h : Keeps s t) (v : Nat) (remap : Nat) :
    Keeps s (State.vaultMoved t v remap) := by
  grind [State.vaultMoved, State.log_keeps, State.setVault_keeps, Keeps.mk0]

theorem State.sysMoved_keeps {s t : State} (h : Keeps s t) (c : Nat) :
    Keeps s (State.sysMoved t c) := by
  grind [State.sysMoved, State.log_keeps, Keeps.mk0, Keeps.mkM]

theorem State.retireRow_keeps {s t : State} (h : Keeps s t) (c : Nat) (p : Nat) (row : Nat) :
    Keeps s (State.retireRow t c p row) := by
  grind [State.retireRow, State.count_keeps, State.setPhys_keeps, State.remapAt_keeps, Keeps.mk0]

theorem State.corrected_keeps {s t : State} (h : Keeps s t) (g : Nat) :
    Keeps s (State.corrected t g) := by
  grind [State.corrected, State.count_keeps, State.notice_keeps, State.setPhys_keeps, State.retireRow_keeps, Keeps.mk0]

theorem State.markUe_keeps {s t : State} (h : Keeps s t) (g : Nat) :
    Keeps s (State.markUe t g) := by
  grind [State.markUe, Keeps.mk0, Keeps.mkM]

theorem State.foundUe_keeps {s t : State} (h : Keeps s t) (g : Nat) :
    Keeps s (State.foundUe t g) := by
  grind [State.foundUe, State.retireRow_keeps, State.markUe_keeps, Keeps.mk0]

theorem State.adderMiss_keeps {s t : State} (h : Keeps s t) (g n : Nat) : Keeps s (t.adderMiss g n) := by
  unfold State.adderMiss
  extract_lets v s1 x s2 s3
  have h1 : Keeps s s1 := State.logMem_keeps (State.count_keeps h _ _) _ _ _
  have h2 : Keeps s s2 := State.logMem_keeps (State.setVault_keeps h1 _ _) _ _ _
  have h3 : Keeps s s3 := by
    unfold s3
    split
    · exact h2
    · exact State.remapVault_keeps h2 _
  clear_value s1 s2 s3
  (repeat' split) <;> grind [State.markUe_keeps, State.logMem_keeps]

theorem State.found_keeps {s t : State} (h : Keeps s t) (f : MemFind) :
    Keeps s (State.found t f) := by
  unfold State.found
  (repeat' split) <;> grind [State.corrected_keeps, State.foundUe_keeps, State.adderMiss_keeps, Keeps.mk0, Keeps.foldl]

theorem State.unmasked_keeps {s t : State} (h : Keeps s t) (loc : Nat) :
    Keeps s (State.unmasked t loc) := by
  grind [State.unmasked, State.logMem_keeps, State.resume_keeps, Keeps.mk0]

theorem State.unmaskedAt_keeps {s t : State} (h : Keeps s t) (r : Ref) :
    Keeps s (State.unmaskedAt t r) := by
  grind [State.unmaskedAt, State.unmasked_keeps, Keeps.mk0]

theorem State.readGranules_keeps {s t : State} (h : Keeps s t) (l : List Nat) : Keeps s (t.readGranules l).1 := by
  induction l generalizing t with
  | nil => simpa [State.readGranules] using h
  | cons a l ih => grind [State.readGranules, State.repairGranule_keeps, State.unmasked_keeps]

theorem State.contribLost_keeps {s t : State} (h : Keeps s t) (c : Contrib) :
    Keeps s (State.contribLost t c) := by
  grind [State.contribLost, State.progFault_keeps, State.dropCmd_keeps, State.unmasked_keeps, Keeps.mk0]

theorem State.vaultUe_keeps {s t : State} (h : Keeps s t) (v : Nat) :
    Keeps s (State.vaultUe t v) := by
  grind [State.vaultUe, Keeps.mk0, Keeps.mkM]

theorem State.vaultGone_keeps {s t : State} (h : Keeps s t) (v : Nat) :
    Keeps s (State.vaultGone t v) := by
  grind [State.vaultGone, State.declareSelf_keeps, State.takeReserve_keeps, State.vaultMoved_keeps, State.vaultUe_keeps, Keeps.mk0]

theorem State.sysGone_keeps {s t : State} (h : Keeps s t) (c : Nat) :
    Keeps s (State.sysGone t c) := by
  grind [State.sysGone, State.stopSet_keeps, State.declareSelf_keeps, State.takeReserve_keeps, State.sysMoved_keeps, State.contribLost_keeps, Keeps.mk0, Keeps.mkM, Keeps.foldl]

/-! ## Machine/Matrix.lean -/

theorem State.runPark_keeps {s t : State} (h : Keeps s t) (t_ : Nat) (i : EInstr) :
    Keeps s (State.runPark t t_ i) := by
  grind [State.runPark, State.setTile_keeps, State.writeLoc_keeps, Keeps.mk0]

theorem State.runUnpark_keeps {s t : State} (h : Keeps s t) (t_ : Nat) (i : EInstr) :
    Keeps s (State.runUnpark t t_ i).1 := by
  grind [State.runUnpark, State.updTile_keeps, State.readRef_keeps, Keeps.mk0]

/-! ## Machine/Ctx.lean -/

theorem State.writeCtxCfg_keeps {s t : State} (h : Keeps s t) (c : Nat) (v : W64) :
    ∀ u, State.writeCtxCfg t c v = some u → Keeps s u := by
  grind [State.writeCtxCfg, State.setReg_keeps, State.setCtx_keeps, State.zeroRange_keeps, Keeps.mk0]

theorem State.regWrS_keeps {s t : State} (h : Keeps s t) (k : Packet) (mine : Nat → Bool) (write : State → Nat → W64 → State × W16)
    (hw : ∀ u o w, Keeps s u → Keeps s (write u o w).1) : Keeps s (t.regWrS k mine write) := by
  unfold State.regWrS
  split
  · exact h
  · refine State.pxu_keeps h _ _ _ (fun u hu => ?_)
    grind [State.respond_keeps]

theorem State.orRange_keeps {s t : State} (h : Keeps s t) (o : Option State) (ho : ∀ u, o = some u → Keeps s u) :
    Keeps s (t.orRange o).1 := by
  cases o with
  | none => exact h
  | some u => exact ho u rfl

theorem State.regWr_keeps {s t : State} (h : Keeps s t) (k : Packet) (mine : Nat → Bool) (write : State → Nat → W64 → Option State)
    (hw : ∀ u o w v, Keeps s u → write u o w = some v → Keeps s v) : Keeps s (t.regWr k mine write) :=
  State.regWrS_keeps h _ _ _ (fun u o w hu => State.orRange_keeps hu _ (fun v hv => hw u o w v hu hv))

theorem State.editEntries_keeps {s t : State} (h : Keeps s t) (c : Cmd) (ctx : Nat) :
    Keeps s (State.editEntries t c ctx).1 := by
  grind [State.editEntries, State.count_keeps, State.readRef_keeps, State.unmaskedAt_keeps, Keeps.mk0]

theorem State.kvPut_keeps {s u : State} (h : Keeps s u) (ctx : Nat) (e : W64) (t hh kv : Nat) (el sc : List Byte) :
    Keeps s (u.kvPut ctx e t hh kv el sc).1 := by
  unfold State.kvPut
  dsimp only
  exact Keeps.foldlOf (fun p : State × Bool => p.1) h
    (fun c a hc => State.writeRef_keeps (State.writeRef_keeps hc _ _) _ _) _

theorem kvStep_keeps {s : State} (a : KvArgs) (plain : Bool) (pos0 : Nat) (ver seed : W64) (r : KvRun) (i : Nat) (h : Keeps s r.s) :
    Keeps s (kvStep a plain pos0 ver seed r i).s := by
  unfold kvStep
  dsimp only
  split
  · exact h
  · split
    · exact State.readRef_keeps h _ _
    · exact State.readRef_keeps h _ _

theorem State.kvWrite_keeps {s t : State} (h : Keeps s t) (ctx : Nat) (epoch : W32) (rows : List KvRow) :
    Keeps s (t.kvWrite ctx epoch rows).1 := by
  unfold State.kvWrite
  refine Keeps.foldlOf (fun p : State × Bool => p.1) (b := (t, true)) h (fun c a hc => ?_) _
  exact State.kvPut_keeps hc _ _ _ _ _ _ _

theorem State.kvEnd_keeps {s t : State} (h : Keeps s t) (q : Nat) (seq : W32) (st : W16) (data : List Byte) :
    Keeps s (State.kvEnd t q seq st data) := by
  grind [State.kvEnd, State.endCmd_keeps, State.unpinAppend_keeps, Keeps.mk0]

theorem State.kvRun_keeps {s t : State} (h : Keeps s t) (q : Nat) (c : Cmd) (epoch : W32) : Keeps s (t.kvRun q c epoch) := by
  unfold State.kvRun
  extract_lets a pages r
  have hr : Keeps s r.s :=
    Keeps.foldlOf (fun x : KvRun => x.s) (b := ({ s := t } : KvRun)) h (fun x i hx => kvStep_keeps a _ _ _ _ x i hx) _
  clear_value r
  split
  · split
    · exact State.kvEnd_keeps (State.unmaskedAt_keeps hr _) _ _ _ _
    · have hw := State.kvWrite_keeps hr a.ctx epoch r.rows
      split
      · exact State.kvEnd_keeps hr _ _ _ _
      · rename_i heq
        rw [heq] at hw
        exact State.kvEnd_keeps hw _ _ _ _
  · exact State.kvEnd_keeps h _ _ _ _

/-! ## Machine/Engine.lean -/

theorem State.checkUnit_keeps {s t : State} (h : Keeps s t) (t_ : Nat) (i : EInstr) :
    Keeps s (State.checkUnit t t_ i) := by
  grind [State.checkUnit, State.updCluster_keeps, Keeps.mk0]

theorem State.engEffect_keeps {s t : State} (h : Keeps s t) (t_ : Nat) (i : EInstr) :
    Keeps s (State.engEffect t t_ i).1 := by
  grind [State.engEffect, State.draw_keeps, State.setTile_keeps, State.countSat_keeps, State.sldRun_keeps, State.sstRun_keeps, State.runs_keeps, State.syncEffect_keeps, State.runPark_keeps, State.runUnpark_keeps, Keeps.mk0]

end Sys2Proof.Machine
end

