-- ==== Sys2Proof/Laws/KeepsMem.lean ====
section
/-! SUPPORT. What the memory side, DPM, the ring, collectives and training keep (see KeepsBase.lean): one lemma per operation. -/

namespace Sys2Proof.Machine

/-! ## Machine/MemSide.lean -/

theorem State.orderFault_keeps {s t : State} (h : Keeps s t) (c : Contrib) :
    Keeps s (State.orderFault t c) := by
  grind [State.orderFault, State.progFault_keeps, Keeps.mk0]

theorem State.arrive_keeps {s t : State} (h : Keeps s t) (i : Nat) (c : Contrib) (lost : Bool) :
    Keeps s (State.arrive t i c lost) := by
  grind [State.arrive, State.repairGranule_keeps, State.offer_keeps, State.contribLost_keeps, State.orderFault_keeps, Keeps.mk0, Keeps.mkM]

theorem State.writeMsaSq_keeps {s t : State} (h : Keeps s t) (v : Nat) (w : W64) :
    Keeps s (State.writeMsaSq t v w) := by
  grind [State.writeMsaSq, State.setSq_keeps, Keeps.mk0, Keeps.mkM]

theorem State.writeMemCfg_keeps {s t : State} (h : Keeps s t) (w : W64) :
    ∀ u, State.writeMemCfg t w = some u → Keeps s u := by
  grind [State.writeMemCfg, State.setReg_keeps, Keeps.mk0]

theorem State.putUntil_keeps {s t : State} (h : Keeps s t) (n : Nat) (r : Ref) (bs : List Byte) : Keeps s (t.putUntil n r bs).1 := by
  induction n generalizing t r bs with
  | zero => simpa [State.putUntil] using h
  | succ n ih =>
    cases bs with
    | nil => simpa [State.putUntil] using h
    | cons b bs => grind [State.putUntil, State.putRefPiece_keeps]

theorem State.copyEnd_keeps {s t : State} (h : Keeps s t) (q : Nat) (seq : W32) (n : Nat) (stop : Option (W16 × Nat)) :
    Keeps s (State.copyEnd t q seq n stop) := by
  unfold State.copyEnd
  (repeat' split) <;> grind [State.endCmd_keeps, Keeps.mk0]

theorem State.copyAcc_keeps {s t : State} (h : Keeps s t) (c : Cmd) (step : Bool) (n k : Nat) : Keeps s (t.copyAcc c step n k).1 := by
  induction n generalizing t k with
  | zero => simpa [State.copyAcc] using h
  | succ n ih =>
    unfold State.copyAcc
    extract_lets src dst
    have h1 := State.readRef_keeps h src 64
    split
    rename_i bs s1 bad heq
    rw [heq] at h1
    split
    · exact h1
    split
    · exact State.unmaskedAt_keeps h1 _
    rename_i loc _ _
    have h2 := State.repairGranule_keeps h1 (loc / 64)
    split
    rename_i s2 ok heq2
    rw [heq2] at h2
    split
    · exact State.unmasked_keeps h2 _
    extract_lets x
    have h3 := State.offer_keeps h2 x
    split
    · rename_i heq3
      rw [heq3] at h3
      exact h3
    · rename_i heq3
      rw [heq3] at h3
      exact ih (State.markOpt_keeps h3 _ _) _

theorem State.copyRun_keeps {s t : State} (h : Keeps s t) (q : Nat) (c : Cmd) : Keeps s (t.copyRun q c) := by
  unfold State.copyRun
  split
  · exact State.endCmd_keeps h _ _ _ _
  split
  · have h1 := State.copyAcc_keeps h c (t.isStep q) (copyLen c / 64) 0
    split
    rename_i heq
    rw [heq] at h1
    exact State.copyEnd_keeps h1 _ _ _ _
  extract_lets src
  have h1 := State.readRef_keeps h src (copyLen c)
  split
  rename_i bs s1 bad heq
  rw [heq] at h1
  have h2 := State.putUntil_keeps h1 (bs.length + 1) (s1.copyDst c) bs
  split
  rename_i s2 n heq2
  rw [heq2] at h2
  extract_lets s3 s4
  have h3 : Keeps s s3 := State.markOpt_keeps h2 _ _
  have h4 : Keeps s s4 := State.unmaskedAt_keeps h3 _
  clear_value s3 s4
  (repeat' split) <;> grind [State.copyEnd_keeps]

theorem State.putNow_keeps {s t : State} (h : Keeps s t) (k : Packet) :
    Keeps s (State.putNow t k) := by
  grind [State.putNow, State.respond_keeps, State.writeRef_keeps, State.markOpt_keeps, Keeps.mk0]

theorem State.getNow_keeps {s t : State} (h : Keeps s t) (k : Packet) (f : MemFind) :
    Keeps s (State.getNow t k f) := by
  grind [State.getNow, State.respond_keeps, State.readRef_keeps, State.found_keeps, State.unmaskedAt_keeps, Keeps.mk0]

/-! ## Machine/Dpm.lean -/

theorem State.addBuf_keeps {s t : State} (h : Keeps s t) (b : DpmBuf) : Keeps s (t.addBuf b).1 := by
  unfold State.addBuf
  split
  · exact h
  · exact h.same rfl rfl rfl rfl

theorem State.setDpmResult_keeps {s t : State} (h : Keeps s t) (v : W64) :
    Keeps s (State.setDpmResult t v) := by
  grind [State.setDpmResult, Keeps.mk0, Keeps.mkM]

theorem State.placed_keeps {s t : State} (h : Keeps s t) (b : Option DpmBuf) (n : Nat) : Keeps s (t.placed b n) := by
  unfold State.placed
  split
  · exact State.setDpmResult_keeps h _
  · rename_i b
    have ha := State.addBuf_keeps h b
    split
    · exact State.setDpmResult_keeps h _
    · rename_i heq
      rw [heq] at ha
      exact State.setDpmResult_keeps ha _

theorem State.writeDpmAlloc_keeps {s t : State} (h : Keeps s t) (w : W64) :
    ∀ u, State.writeDpmAlloc t w = some u → Keeps s u := by
  grind [State.writeDpmAlloc, State.setDpmResult_keeps, State.placed_keeps, Keeps.mk0]

theorem State.writeDpmFree_keeps {s t : State} (h : Keeps s t) (w : W64) :
    ∀ u, State.writeDpmFree t w = some u → Keeps s u := by
  grind [State.writeDpmFree, Keeps.mk0, Keeps.mkM]

theorem State.writePlanReq_keeps {s t : State} (h : Keeps s t) (w : W64) :
    ∀ u, State.writePlanReq t w = some u → Keeps s u := by
  grind [State.writePlanReq, Keeps.mk0, Keeps.mkM]

theorem State.planEnd_keeps {s t : State} (h : Keeps s t) (st : W16) :
    Keeps s (State.planEnd t st) := by
  grind [State.planEnd, Keeps.mk0, Keeps.mkM]

theorem State.planRun_keeps {s t : State} (h : Keeps s t) (a : Nat) (h_ : List Byte) :
    Keeps s (State.planRun t a h_) := by
  grind [State.planRun, State.writeRef_keeps, State.readRef_keeps, State.unmaskedAt_keeps, State.planEnd_keeps, Keeps.mk0, Keeps.mkM, Keeps.foldl]

/-! ## Machine/Ring.lean -/

theorem State.setRing_keeps {s t : State} (h : Keeps s t) (r : Nat) (x : Ring) :
    Keeps s (State.setRing t r x) := by
  grind [State.setRing, Keeps.mk0]

theorem State.writeWrCfg_keeps {s t : State} (h : Keeps s t) (r : Nat) (v : W64) :
    ∀ u, State.writeWrCfg t r v = some u → Keeps s u := by
  grind [State.writeWrCfg, State.setReg_keeps, State.setRing_keeps, Keeps.mk0]

theorem State.writeParkCfg_keeps {s t : State} (h : Keeps s t) (v : W64) :
    ∀ u, State.writeParkCfg t v = some u → Keeps s u := by
  grind [State.writeParkCfg, State.setReg_keeps, Keeps.mk0]

theorem State.ringHashFrom_keeps {s t : State} (h : Keeps s t) (r : Nat) (src : BitVec 12) (h_ : W64) :
    Keeps s (State.ringHashFrom t r src h_) := by
  grind [State.ringHashFrom, State.notice_keeps, State.setRing_keeps, Keeps.mk0]

theorem State.ringSuspend_keeps {s t : State} (h : Keeps s t) (r : Nat) :
    Keeps s (State.ringSuspend t r) := by
  grind [State.ringSuspend, State.unpin_keeps, State.setRing_keeps, Keeps.mk0]

theorem State.ringAnew_keeps {s t : State} (h : Keeps s t) (r : Nat) :
    Keeps s (State.ringAnew t r) := by
  grind [State.ringAnew, State.setObj_keeps, State.setRing_keeps, Keeps.mk0, Keeps.foldl]

theorem State.ringSignal_keeps {s t : State} (h : Keeps s t) (r : Nat) (o : Nat) (k : Nat) :
    Keeps s (State.ringSignal t r o k) := by
  grind [State.ringSignal, State.signal_keeps, Keeps.mk0]

theorem State.ringPagesRead_keeps {s t : State} (h : Keeps s t) (r : Nat) (epoch : W32) (l : List Nat) :
    Keeps s (t.ringPagesRead r epoch l).2.1 := by
  induction l generalizing t with
  | nil => simpa [State.ringPagesRead] using h
  | cons a l ih => grind [State.ringPagesRead, State.readRef_keeps, State.unmaskedAt_keeps]

theorem State.ringBlock_keeps {s t : State} (h : Keeps s t) (r : Nat) (epoch : W32) (k b : Nat) :
    Keeps s (t.ringBlock r epoch k b).2.1 := State.ringPagesRead_keeps h _ _ _

theorem State.ringPush_keeps {s t : State} (h : Keeps s t) (r : Nat) (ccw : Bool) (n : Nat) : Keeps s (t.ringPush r ccw n) := by
  induction n generalizing t with
  | zero => simpa [State.ringPush] using h
  | succ n ih =>
    unfold State.ringPush
    split
    · rename_i k b p _ _
      have h1 := State.ringBlock_keeps h r p.epoch k b
      split
      · rename_i heq; rw [heq] at h1; exact h1
      · rename_i heq; rw [heq] at h1
        exact ih (State.setRing_keeps (State.sendMsg_keeps h1 _ _) _ _)
    · exact h

theorem State.ringPushAll_keeps {s t : State} (h : Keeps s t) (r : Nat) : Keeps s (t.ringPushAll r) :=
  State.ringPush_keeps (State.ringPush_keeps h _ _ _) _ _ _

theorem State.ringLand_keeps {s t : State} (h : Keeps s t) (r : Nat) (ccw : Bool) (data : List Byte) : Keeps s (t.ringLand r ccw data) := by
  unfold State.ringLand
  extract_lets x d bps c st k b pb s0
  split
  · exact h
  rename_i p _
  split
  · exact h
  extract_lets s1 s2
  have h0 : Keeps s s0 := by
    unfold s0
    split
    · exact State.zeroRange_keeps h _ _
    · exact h
  have h1 : Keeps s s1 :=
    Keeps.foldl h0 (fun u a hu => Keeps.foldl hu (fun v b hv => State.writeRef_keeps hv _ _) _) _
  exact State.ringPush_keeps (State.ringSignal_keeps (State.setRing_keeps h1 _ _) _ _ _) _ _ _

theorem State.ringCredited_keeps {s t : State} (h : Keeps s t) (r : Nat) (ccw : Bool) : Keeps s (t.ringCredited r ccw) := by
  unfold State.ringCredited
  extract_lets x d
  split
  · exact h
  · exact State.ringPush_keeps (State.setRing_keeps h _ _) _ _ _

theorem State.fabricMiss_keeps {s t : State} (h : Keeps s t) (u_ : BitVec 2) (n : Nat) :
    Keeps s (State.fabricMiss t u_ n) := by
  grind [State.fabricMiss, State.count_keeps, State.log_keeps, Keeps.mk0, Keeps.foldl]

theorem State.ringFlags_keeps {s t : State} (h : Keeps s t) (fl : Fl) :
    Keeps s (State.ringFlags t fl) := by
  grind [State.ringFlags, State.countSat_keeps, State.stepFlags_keeps, Keeps.mk0]

theorem State.gradSend_keeps {s t : State} (h : Keeps s t) (r : Nat) :
    Keeps s (State.gradSend t r) := by
  grind [State.gradSend, State.sendMsg_keeps, State.readRef_keeps, State.unmaskedAt_keeps, State.setRing_keeps, State.ringFlags_keeps, Keeps.mk0]

theorem State.ringPartialLand_keeps {s t : State} (h : Keeps s t) (r : Nat) (data : List Byte) :
    Keeps s (State.ringPartialLand t r data) := by
  grind [State.ringPartialLand, State.writeRef_keeps, State.setRing_keeps, Keeps.mk0]

/-! ## Machine/Coll.lean -/

theorem State.readList_keeps {s t : State} (h : Keeps s t) (a : Nat) (n : Nat) :
    Keeps s (State.readList t a n).1 := by
  grind [State.readList, State.readRef_keeps, Keeps.mk0]

theorem State.writeGrpCfg_keeps {s t : State} (h : Keeps s t) (g : Nat) (v : W64) :
    ∀ u, State.writeGrpCfg t g v = some u → Keeps s u := by
  grind [State.writeGrpCfg, State.setReg_keeps, State.readList_keeps, Keeps.mk0]

theorem State.writeGrpList_keeps {s t : State} (h : Keeps s t) (g : Nat) (v : W64) :
    ∀ u, State.writeGrpList t g v = some u → Keeps s u := by
  grind [State.writeGrpList, State.setReg_keeps, Keeps.mk0]

theorem State.setColl_keeps {s t : State} (h : Keeps s t) (g : Nat) (x : Option Coll) :
    Keeps s (State.setColl t g x) := by
  grind [State.setColl, Keeps.mk0]

theorem State.toGroup_keeps {s t : State} (h : Keeps s t) (g : Nat) (m : Msg) :
    Keeps s (State.toGroup t g m) := by
  grind [State.toGroup, State.sendAll_keeps, Keeps.mk0]

theorem State.scramble_keeps {s t : State} (h : Keeps s t) (r : Ref) (n : Nat) :
    Keeps s (State.scramble t r n) := by
  grind [State.scramble, State.writeRef_keeps, Keeps.mk0]

theorem State.collTurn_keeps {s t : State} (h : Keeps s t) (g n : Nat) : Keeps s (t.collTurn g n) := by
  induction n generalizing t with
  | zero => simpa [State.collTurn] using h
  | succ n ih => grind [State.collTurn, State.setColl_keeps, State.sendMsg_keeps, Keeps.mk0]

theorem State.collPass_keeps {s t : State} (h : Keeps s t) (g : Nat) (seq : W32) :
    Keeps s (State.collPass t g seq) := by
  grind [State.collPass, State.collTurn_keeps, Keeps.mk0]

theorem State.withdraw_keeps {s t : State} (h : Keeps s t) (g : Nat) (seq : W32) :
    Keeps s (State.withdraw t g seq) := by
  grind [State.withdraw, State.toGroup_keeps, State.collPass_keeps, Keeps.mk0]

theorem State.collEnd_keeps {s t : State} (h : Keeps s t) (g : Nat) (x : Coll) (st : W16) (rank : Nat) (field : Nat) (cause : Nat) :
    Keeps s (State.collEnd t g x st rank field cause) := by
  grind [State.collEnd, State.endCmd_keeps, State.setColl_keeps, State.scramble_keeps, State.collTurn_keeps, Keeps.mk0]

theorem State.collFail_keeps {s t : State} (h : Keeps s t) (g : Nat) (x : Coll) (st : W16) (cause : Nat) :
    Keeps s (State.collFail t g x st cause) := by
  grind [State.collFail, State.toGroup_keeps, State.collEnd_keeps, Keeps.mk0]

theorem State.bkAnnounced_keeps {s t : State} (h : Keeps s t) (i : BitVec 4) (backup : Bool) :
    Keeps s (State.bkAnnounced t i backup) := by
  grind [State.bkAnnounced, Keeps.mk0]

theorem State.collWrite_keeps {s t : State} (h : Keeps s t) (c : Cmd) (x : Coll) (p : Nat) (me : Nat) (off : Nat) (bs : List Byte) :
    Keeps s (State.collWrite t c x p me off bs).1 := by
  grind [State.collWrite, State.writeRef_keeps, State.markOpt_keeps, Keeps.mk0]

theorem State.collBad_keeps {s t : State} (h : Keeps s t) (g : Nat) (x : Coll) (st : W16) :
    Keeps s (State.collBad t g x st) := by
  grind [State.collBad, State.collFail_keeps, Keeps.mk0]

theorem State.collGrant_keeps {s t : State} (h : Keeps s t) (g n : Nat) : Keeps s (t.collGrant g n) := by
  induction n generalizing t with
  | zero => simpa [State.collGrant] using h
  | succ n ih => grind [State.collGrant, State.setColl_keeps, State.sendMsg_keeps, Keeps.mk0]

theorem State.collPump_keeps {s t : State} (h : Keeps s t) (g n : Nat) : Keeps s (t.collPump g n) := by
  induction n generalizing t with
  | zero => simpa [State.collPump] using h
  | succ n ih => grind [State.collPump, State.setColl_keeps, State.sendMsg_keeps, Keeps.mk0]

theorem State.partDone_keeps {s t : State} (h : Keeps s t) (v : CollEnv) (x : Coll) (c : Cmd) (off : Nat) (bs : List Byte) (fl : Fl) (written : Bool) :
    Keeps s (State.partDone t v x c off bs fl written) := by
  grind [State.partDone, State.setColl_keeps, State.collWrite_keeps, State.collBad_keeps, Keeps.mk0]

theorem State.domainDone_keeps {s t : State} (h : Keeps s t) (v : CollEnv) (x : Coll) (c : Cmd) (f : Fold) (k : Nat) :
    Keeps s (State.domainDone t v x c f k) := by
  grind [State.domainDone, State.runs_keeps, State.setColl_keeps, State.partDone_keeps, Keeps.mk0]

theorem State.foldTook_keeps {s t : State} (h : Keeps s t) (v : CollEnv) (x : Coll) (c : Cmd) (old : Fold) (f : Fold) :
    Keeps s (State.foldTook t v x c old f) := by
  grind [State.foldTook, State.runs_keeps, State.setColl_keeps, State.partDone_keeps, State.domainDone_keeps, Keeps.mk0]

theorem State.offerAll_keeps {s t : State} (h : Keeps s t) (x : Coll) (ver : W64) (k n fuel : Nat) (r : Ref) (bs : List Byte) (fl : Fl) :
    Keeps s (t.offerAll x ver k n fuel r bs fl).1 := by
  induction fuel generalizing t r bs fl with
  | zero => simpa [State.offerAll] using h
  | succ fuel ih =>
    unfold State.offerAll
    split
    · exact h
    · exact h
    rename_i bs _ _ loc _ _
    have h1 := State.repairGranule_keeps h (loc / 64)
    split
    · rename_i heq; rw [heq] at h1; exact State.unmasked_keeps h1 _
    · rename_i s1 heq; rw [heq] at h1
      have h2 := State.offer_keeps h1 (fabContrib x ver (loc / 64) k n (bs.take 64))
      split
      · exact h1
      · rename_i heq2; rw [heq2] at h2; exact ih h2 _ _ _
      · rename_i heq2; rw [heq2] at h2; exact ih h2 _ _ _

theorem State.takePiece_keeps {s t : State} (h : Keeps s t) (v : CollEnv) (x : Coll) (c : Cmd) (pc : Piece) :
    Keeps s (t.takePiece v x c pc) := by
  unfold State.takePiece
  split
  · extract_lets y
    have h1 := State.collWrite_keeps h c x v.p v.me pc.off pc.data
    split
    · rename_i heq; rw [heq] at h1; exact State.setColl_keeps h1 _ _
    · rename_i heq; rw [heq] at h1; exact State.collBad_keeps h1 _ _ _
  split
  · exact State.setColl_keeps h _ _
  split
  · exact h
  split
  · extract_lets run r
    have h1 := State.offerAll_keeps h x t.trnVer (run.findIdx (fun q => q == pc.rank)) run.length (pc.data.length + 1) r pc.data {}
    split
    · rename_i heq; rw [heq] at h1; exact State.collBad_keeps h1 _ _ _
    · rename_i heq; rw [heq] at h1
      exact State.foldTook_keeps h1 _ _ _ _ _
    · rename_i heq; rw [heq] at h1; exact State.setColl_keeps h1 _ _
  · split
    exact State.foldTook_keeps (State.countSat_keeps h _ _) _ _ _ _ _

theorem State.collTake_keeps {s t : State} (h : Keeps s t) (g : Nat) (c : Cmd) (n : Nat) : Keeps s (t.collTake g c n) := by
  induction n generalizing t with
  | zero => simpa [State.collTake] using h
  | succ n ih => grind [State.collTake, State.takePiece_keeps]

theorem State.collRun_keeps {s t : State} (h : Keeps s t) (g : Nat) : Keeps s (t.collRun g) := by
  unfold State.collRun
  split
  · exact h
  split
  · exact h
  split
  · exact h
  rename_i c _
  extract_lets s1 s2 s3
  have h1 : Keeps s s1 := State.collTake_keeps h _ _ _
  have h2 : Keeps s s2 := State.collGrant_keeps h1 _ _
  have h3 : Keeps s s3 := State.collPump_keeps h2 _ _
  clear_value s1 s2 s3
  (repeat' split) <;> grind [State.setColl_keeps, State.collEnd_keeps]

theorem State.bkSettle_keeps {s t : State} (h : Keeps s t) (g : Nat) :
    Keeps s (State.bkSettle t g) := by
  unfold State.bkSettle
  (repeat' split) <;> grind [State.readRef_keeps, State.setColl_keeps, Keeps.mk0, Keeps.foldl]

theorem State.emptyFolds_keeps {s t : State} (h : Keeps s t) (g : Nat) (c : Cmd) :
    Keeps s (State.emptyFolds t g c) := by
  grind [State.emptyFolds, State.runs_keeps, State.foldTook_keeps, Keeps.mk0, Keeps.foldl]

theorem State.collData_keeps {s t : State} (h : Keeps s t) (g : Nat) (x : Coll) : Keeps s (t.collData g x) := by
  unfold State.collData
  split
  · exact h
  rename_i c _
  extract_lets dst v n
  split
  · exact State.collBad_keeps h _ _ _
  split
  · exact h
  have h1 := State.readRef_keeps h (t.collSrc c) n
  split
  rename_i src s1 bad heq1
  rw [heq1] at h1
  split
  · exact State.collBad_keeps (State.unmaskedAt_keeps h1 _) _ _ _
  extract_lets vault hold part y z
  split
  rename_i s2 b0 heq2
  have h2 : Keeps s s2 := by
    have : Keeps s (s2, b0).1 := by
      rw [← heq2]
      split
      · exact State.collWrite_keeps h1 _ _ _ _ _ _
      · exact h1
    exact this
  split
  rename_i s3 b1 heq3
  have h3 : Keeps s s3 := by
    have : Keeps s (s3, b1).1 := by
      rw [← heq3]
      refine Keeps.foldlOf (fun a : State × Option W16 => a.1) (b := (s2, b0)) h2 (fun a o ha => ?_) _
      exact State.collWrite_keeps ha _ _ _ _ _ _
    exact this
  split
  · exact State.collBad_keeps h3 _ _ _
  · exact State.collRun_keeps (State.bkSettle_keeps (State.emptyFolds_keeps (State.setColl_keeps h3 _ _) _ _) _) _

theorem State.collMatch_keeps {s t : State} (h : Keeps s t) (g : Nat) :
    Keeps s (State.collMatch t g) := by
  unfold State.collMatch
  (repeat' split) <;> grind [State.collEnd_keeps, State.collData_keeps, Keeps.mk0]

theorem State.collPoke_keeps {s t : State} (h : Keeps s t)  :
    Keeps s (State.collPoke t) := by
  grind [State.collPoke, State.collRun_keeps, State.collMatch_keeps, Keeps.mk0, Keeps.foldl]

theorem State.collBox_keeps {s t : State} (h : Keeps s t) (g : Nat) (seq : W32) (src : BitVec 12) (m : Msg) :
    Keeps s (State.collBox t g seq src m) := by
  grind [State.collBox, Keeps.mk0]

theorem State.collHandFrom_keeps {s t : State} (h : Keeps s t) (g : Nat) (seq : W32) (src : BitVec 12) (h_ : W64) (d : CollDesc) :
    Keeps s (State.collHandFrom t g seq src h_ d) := by
  grind [State.collHandFrom, State.setColl_keeps, State.collMatch_keeps, State.collBox_keeps, Keeps.mk0]

theorem State.collPieceFrom_keeps {s t : State} (h : Keeps s t) (g : Nat) (seq : W32) (src : BitVec 12) (kind : PieceKind) (rank : Nat) (off : Nat) (fl : Fl) (data : List Byte) :
    Keeps s (State.collPieceFrom t g seq src kind rank off fl data) := by
  grind [State.collPieceFrom, State.setColl_keeps, State.collRun_keeps, State.collBox_keeps, Keeps.mk0]

theorem State.collHeldFrom_keeps {s t : State} (h : Keeps s t) (g : Nat) (seq : W32) (src : BitVec 12) (offs : List Nat) :
    Keeps s (State.collHeldFrom t g seq src offs) := by
  grind [State.collHeldFrom, State.setColl_keeps, State.collRun_keeps, State.collBox_keeps, Keeps.mk0]

theorem State.collCreditFrom_keeps {s t : State} (h : Keeps s t) (g : Nat) (seq : W32) (src : BitVec 12) :
    Keeps s (State.collCreditFrom t g seq src) := by
  grind [State.collCreditFrom, State.setColl_keeps, State.collRun_keeps, State.collBox_keeps, Keeps.mk0]

theorem State.collNormFrom_keeps {s t : State} (h : Keeps s t) (g : Nat) (seq : W32) (src : BitVec 12) (rec : W64) :
    Keeps s (State.collNormFrom t g seq src rec) := by
  grind [State.collNormFrom, State.setColl_keeps, State.collBox_keeps, Keeps.mk0]

theorem State.collOutcome_keeps {s t : State} (h : Keeps s t) (g : Nat) (seq : W32) (st : W16) (rank : Nat) (cause : Nat) :
    Keeps s (State.collOutcome t g seq st rank cause) := by
  grind [State.collOutcome, State.collEnd_keeps, Keeps.mk0]

theorem State.collGone_keeps {s t : State} (h : Keeps s t) (q : Nat) (c : Cmd) (st : W16) :
    Keeps s (State.collGone t q c st) := by
  grind [State.collGone, State.endCmd_keeps, State.withdraw_keeps, Keeps.mk0]

theorem State.collUnbox_keeps {s t : State} (h : Keeps s t) (g : Nat) (seq : W32) :
    Keeps s (State.collUnbox t g seq) := by
  grind [State.collUnbox, State.collHandFrom_keeps, State.collPieceFrom_keeps, State.collHeldFrom_keeps, State.collCreditFrom_keeps, State.collNormFrom_keeps, Keeps.mk0, Keeps.foldl]

theorem State.bkAnnounce_keeps {s t : State} (h : Keeps s t) (g : Nat) (d : CollDesc) :
    Keeps s (State.bkAnnounce t g d) := by
  grind [State.bkAnnounce, State.sendMsg_keeps, State.bkAnnounced_keeps, Keeps.mk0, Keeps.foldl]

theorem State.writeCollAbort_keeps {s t : State} (h : Keeps s t) (v : W64) :
    ∀ u, State.writeCollAbort t v = some u → Keeps s u := by
  grind [State.writeCollAbort, State.collFail_keeps, Keeps.mk0]

theorem State.collSuspend_keeps {s t : State} (h : Keeps s t) (f : BitVec 12) :
    Keeps s (State.collSuspend t f) := by
  grind [State.collSuspend, State.setColl_keeps, Keeps.mk0, Keeps.foldl]

theorem State.collLost_keeps {s t : State} (h : Keeps s t) (f : BitVec 12) :
    Keeps s (State.collLost t f) := by
  grind [State.collLost, State.collEnd_keeps, Keeps.mk0, Keeps.foldl]

/-! ## Machine/Training.lean -/

theorem State.setLs_keeps {s t : State} (h : Keeps s t) (v : Int) :
    Keeps s (State.setLs t v) := by
  grind [State.setLs, State.setReg_keeps, Keeps.mk0]

theorem State.writeRecord_keeps {s t : State} (h : Keeps s t) (ls : Int) :
    Keeps s (State.writeRecord t ls) := by
  grind [State.writeRecord, State.writeRef_keeps, State.unmaskedAt_keeps, Keeps.mk0]

theorem State.zeroGrad_keeps {s t : State} (h : Keeps s t)  :
    Keeps s (State.zeroGrad t) := by
  grind [State.zeroGrad, State.zeroWhere_keeps, Keeps.mk0]

theorem State.putRemote_keeps {s t : State} (h : Keeps s t) (dst : BitVec 12) (a : W64) (bs : List Byte) :
    Keeps s (State.putRemote t dst a bs) := by
  grind [State.putRemote, State.fabSend_keeps, State.writeRef_keeps, Keeps.mk0, Keeps.foldl]

theorem State.mirrorRead_keeps {s t : State} (h : Keeps s t) (r : Ref) (n : Nat) :
    Keeps s (State.mirrorRead t r n).2.1 := by
  grind [State.mirrorRead, State.readRef_keeps, State.unmaskedAt_keeps, Keeps.mk0]

theorem State.startMirror_keeps {s t : State} (h : Keeps s t)  :
    Keeps s (State.startMirror t) := by
  grind [State.startMirror, State.putRemote_keeps, State.mirrorRead_keeps, Keeps.mk0]

theorem State.mirrorGrad_keeps {s t : State} (h : Keeps s t)  :
    Keeps s (State.mirrorGrad t) := by
  grind [State.mirrorGrad, State.putRemote_keeps, State.mirrorRead_keeps, Keeps.mk0]

theorem State.giveUp_keeps {s t : State} (h : Keeps s t) (dst : BitVec 12) :
    Keeps s (State.giveUp t dst) := by
  grind [State.giveUp, Keeps.mk0]

theorem State.writeTrnCfg_keeps {s t : State} (h : Keeps s t) (v : W64) :
    ∀ u, State.writeTrnCfg t v = some u → Keeps s u := by
  grind [State.writeTrnCfg, State.setReg_keeps, State.writeRecord_keeps, State.zeroGrad_keeps, State.startMirror_keeps, Keeps.mk0]

theorem State.writeTrn_keeps {s t : State} (h : Keeps s t) (o : Nat) (v : W64) :
    ∀ u, State.writeTrn t o v = some u → Keeps s u := by
  grind [State.writeTrn, State.setReg_keeps, Keeps.mk0]

theorem State.scanSq_keeps {s t : State} (h : Keeps s t) (v : Nat) (ls : List Nat) :
    Keeps s (State.scanSq t v ls) := by
  grind [State.scanSq, State.setSq_keeps, Keeps.mk0, Keeps.foldl]

theorem State.shardSq_keeps {s t : State} (h : Keeps s t)  :
    Keeps s (State.shardSq t).1 := by
  grind [State.shardSq, State.scanSq_keeps, Keeps.mk0, Keeps.foldl]

theorem State.stepEvent_keeps {s t : State} (h : Keeps s t) (st : W16) :
    Keeps s (State.stepEvent t st) := by
  grind [State.stepEvent, State.event_keeps, Keeps.mk0]

theorem State.abandonStep_keeps {s t : State} (h : Keeps s t) (cause : Nat) (id : BitVec 12) : Keeps s (t.abandonStep cause id) := by
  unfold State.abandonStep
  extract_lets st ls s1 t1 cmd t2 s2 s3 s4
  have h1 : Keeps s s1 := by
    apply State.scramble_keeps
    split
    · exact State.zeroGrad_keeps (State.setLs_keeps h _)
    · exact State.zeroGrad_keeps h
  have h2 : Keeps s s2 := h1.mk0 ..
  have h3 : Keeps s s3 := State.writeRecord_keeps h2 _
  have h4 : Keeps s s4 := by
    unfold s4
    clear_value s4 s3 s2 cmd
    split
    · exact State.endCmd_keeps h3 _ _ _ _
    · exact h3
  exact State.stepEvent_keeps h4 _

theorem State.takeDecision_keeps {s t : State} (h : Keeps s t) (ver : W64) (d : Decision) (target : W64) :
    Keeps s (State.takeDecision t ver d target) := by
  unfold State.takeDecision
  (repeat' split) <;> grind [State.abandonStep_keeps, Keeps.mk0]

theorem State.decideStep_keeps {s t : State} (h : Keeps s t) (d : Decision) :
    Keeps s (State.decideStep t d) := by
  grind [State.decideStep, State.toGroup_keeps, State.takeDecision_keeps, Keeps.mk0]

theorem State.leaderReady_keeps {s t : State} (h : Keeps s t) (ver : W64) (src : BitVec 12) :
    Keeps s (State.leaderReady t ver src) := by
  grind [State.leaderReady, State.decideStep_keeps, Keeps.mk0]

theorem State.barrierMsg_keeps {s t : State} (h : Keeps s t) (src : BitVec 12) (m : Msg) :
    Keeps s (State.barrierMsg t src m) := by
  unfold State.barrierMsg
  (repeat' split) <;> grind [State.toGroup_keeps, State.takeDecision_keeps, State.decideStep_keeps, State.leaderReady_keeps, Keeps.mk0]

theorem State.sendAbandon_keeps {s t : State} (h : Keeps s t) (cause : Nat) :
    Keeps s (State.sendAbandon t cause) := by
  grind [State.sendAbandon, State.sendMsg_keeps, State.decideStep_keeps, Keeps.mk0]

theorem State.commitGone_keeps {s t : State} (h : Keeps s t) (ver : W64) :
    Keeps s (State.commitGone t ver) := by
  grind [State.commitGone, State.sendAbandon_keeps, Keeps.mk0]

theorem State.digestRange_keeps {s t : State} (h : Keeps s t) (r : Ref) (n : Nat) :
    Keeps s (State.digestRange t r n).1 := by
  grind [State.digestRange, State.setVault_keeps, Keeps.mk0, Keeps.foldl]

theorem State.compareRange_keeps {s t : State} (h : Keeps s t) (cmd : Option (Nat × W32)) (ver : W64) (r : Ref) (n : Nat) :
    Keeps s (State.compareRange t cmd ver r n) := by
  grind [State.compareRange, State.toGroup_keeps, State.digestRange_keeps, Keeps.mk0]

theorem State.startCompare_keeps {s t : State} (h : Keeps s t) (cmd : Option (Nat × W32)) :
    Keeps s (State.startCompare t cmd) := by
  grind [State.startCompare, State.compareRange_keeps, Keeps.mk0]

theorem State.takeover_keeps {s t : State} (h : Keeps s t) (f : BitVec 12) (sp : BitVec 12) (expelled : Bool) :
    Keeps s (State.takeover t f sp expelled) := by
  grind [State.takeover, State.startMirror_keeps, State.mirrorGrad_keeps, Keeps.mk0]

theorem State.roleLost_keeps {s t : State} (h : Keeps s t) (f : BitVec 12) (expelled : Bool) :
    Keeps s (State.roleLost t f expelled) := by
  grind [State.roleLost, State.collSuspend_keeps, State.collLost_keeps, State.takeover_keeps, Keeps.mk0]

theorem State.expel_keeps {s t : State} (h : Keeps s t)  :
    Keeps s (State.expel t) := by
  grind [State.expel, State.endCmd_keeps, State.cutLaunch_keeps, State.collBad_keeps, State.collGone_keeps, Keeps.mk0, Keeps.foldl]

theorem State.digestOutcome_keeps {s t : State} (h : Keeps s t) (ver : W64) (cmd : Option (Nat × W32)) (mine : BitVec 256) :
    Keeps s (t.digestOutcome ver cmd mine) := by
  unfold State.digestOutcome
  extract_lets ms ps n major out first m me st t1 s1 s2 s3 lead
  have h1 : Keeps s s1 := h.mk0 ..
  have h2 : Keeps s s2 := by
    unfold s2
    split
    · exact State.endCmd_keeps h1 _ _ _ _
    · exact h1
  have h3 : Keeps s s3 := by
    unfold s3
    split
    · exact State.log_keeps h2 _ _ _ _ _ _
    · exact h2
  refine Keeps.foldl ?_ (fun u p hu => ?_) _
  · split
    · exact State.expel_keeps h3
    · exact h3
  · apply State.roleLost_keeps
    split
    · exact State.sendAll_keeps hu _ _
    · exact hu

theorem State.digestTry_keeps {s t : State} (h : Keeps s t) (ver : W64) :
    Keeps s (State.digestTry t ver) := by
  unfold State.digestTry
  (repeat' split) <;> grind [State.digestOutcome_keeps, Keeps.mk0, Keeps.foldl]

theorem State.digestFrom_keeps {s t : State} (h : Keeps s t) (src : BitVec 12) (ver : W64) (d : BitVec 256) :
    Keeps s (State.digestFrom t src ver d) := by
  grind [State.digestFrom, State.digestTry_keeps, Keeps.mk0]

theorem State.stepAtFlip_keeps {s t : State} (h : Keeps s t) (target : W64) :
    Keeps s (State.stepAtFlip t target) := by
  grind [State.stepAtFlip, Keeps.mk0]

theorem State.growAtFlip_keeps {s t : State} (h : Keeps s t)  :
    Keeps s (State.growAtFlip t) := by
  grind [State.growAtFlip, State.setLs_keeps, Keeps.mk0]

theorem State.bkSelect_keeps {s t : State} (h : Keeps s t) (i : BitVec 4) (backup : Bool) :
    Keeps s (State.bkSelect t i backup) := by
  grind [State.bkSelect, State.toGroup_keeps, Keeps.mk0]

theorem State.bkSelected_keeps {s t : State} (h : Keeps s t) (i : BitVec 4) (backup : Bool) :
    Keeps s (State.bkSelected t i backup) := by
  unfold State.bkSelected
  (repeat' split) <;> grind [State.collRun_keeps, State.bkSettle_keeps, Keeps.mk0]

end Sys2Proof.Machine
end

