-- ==== Sys2Proof/Laws/KeepsOchre.lean ====
section
/-! SUPPORT. What the Ochre engines keep (see KeepsBase.lean): one lemma per operation. -/

namespace Sys2Proof.Machine

/-! ## Machine/Ochre.lean -/

theorem State.setStream_keeps {s t : State} (h : Keeps s t) (i : Nat) (x : OchStream) :
    Keeps s (State.setStream t i x) := by
  grind [State.setStream, Keeps.mk0]

theorem State.dropPool_keeps {s t : State} (h : Keeps s t) (i : Nat) :
    Keeps s (State.dropPool t i) := by
  grind [State.dropPool, Keeps.mk0, Keeps.mkM]

theorem State.writeOchCfg_keeps {s t : State} (h : Keeps s t) (i : Nat) (w : W64) : Keeps s (t.writeOchCfg i w).1 := by
  unfold State.writeOchCfg
  extract_lets v old
  have hs := State.setReg_keeps h (Reg.och i 0) v
  split
  · have ha := State.addBuf_keeps hs
    have hx := State.setStream_keeps hs
    repeat' split
    all_goals first
      | exact h
      | exact hx _ _
      | skip
    rename_i b _ _ _ _ _ heq
    have hb := ha b
    rw [heq] at hb
    exact State.setStream_keeps hb _ _
  · split <;> exact h
  · split
    · exact h
    · exact State.setStream_keeps (State.setReg_keeps (State.dropPool_keeps h _) _ _) _ _
  · exact h

theorem State.writeOchOther_keeps {s t : State} (h : Keeps s t) (i : Nat) (o : Nat) (w : W64) :
    Keeps s (State.writeOchOther t i o w).1 := by
  grind [State.writeOchOther, State.setReg_keeps, Keeps.mk0]

theorem State.readPool_keeps {s t : State} (h : Keeps s t) (i : Nat) (marks : List Nat) : Keeps s (t.readPool i marks).1 := by
  unfold State.readPool
  refine Keeps.foldlOf (fun a : State × List (Array Int) × Option Nat => a.1) h (fun c a hc => ?_) _
  obtain ⟨u, l, b⟩ := c
  dsimp only
  split
  · exact hc
  · exact State.readRef_keeps hc _ _

theorem State.writePool_keeps {s t : State} (h : Keeps s t) (i : Nat) (b : Nat) (rec : Array Int) :
    Keeps s (State.writePool t i b rec) := by
  grind [State.writePool, State.writeRef_keeps, Keeps.mk0]

theorem State.readFrame_keeps {s t : State} (h : Keeps s t) (d : OchDesc) (c : Cmd) : Keeps s (t.readFrame d c).1 := by
  unfold State.readFrame
  refine Keeps.foldlOf (fun a : State × List Nat × Option Nat => a.1) h (fun c a hc => ?_) _
  obtain ⟨u, l, b⟩ := c
  dsimp only
  split
  · exact hc
  · exact State.readRef_keeps hc _ _

theorem State.writeFrame_keeps {s t : State} (h : Keeps s t) (d : OchDesc) (c : Cmd) (codes : List Nat) :
    Keeps s (State.writeFrame t d c codes) := by
  grind [State.writeFrame, State.writeRef_keeps, Keeps.mk0, Keeps.foldl]

theorem State.ochFree_keeps {s t : State} (h : Keeps s t) (n : Nat) : Keeps s (t.ochFree n).2 := h.same rfl rfl rfl rfl

theorem State.codeEnd_keeps {s t : State} (h : Keeps s t) (c : Cmd) (q : Nat) (st : W16) (data : List Byte) :
    Keeps s (State.codeEnd t c q st data) := by
  grind [State.codeEnd, State.endCmd_keeps, State.setStream_keeps, Keeps.mk0]

theorem State.codeFail_keeps {s t : State} (h : Keeps s t) (c : Cmd) (q : Nat) (st : W16) (store : Option Nat) (undef : List (Ref × Nat)) :
    Keeps s (State.codeFail t c q st store undef) := by
  unfold State.codeFail
  (repeat' split) <;> grind [State.draw_keeps, State.scramble_keeps, State.setStream_keeps, State.codeEnd_keeps, Keeps.mk0, Keeps.foldl]

theorem State.codeUe_keeps {s t : State} (h : Keeps s t) (c : Cmd) (q : Nat) (loc : Nat) (store : Option Nat) (undef : List (Ref × Nat)) :
    Keeps s (State.codeUe t c q loc store undef) := by
  grind [State.codeUe, State.unmasked_keeps, State.codeFail_keeps, Keeps.mk0]

theorem State.encode_keeps {s t : State} (h : Keeps s t) (c : Cmd) (q : Nat) : Keeps s (t.encode c q) := by
  unfold State.encode
  extract_lets i d x bufs store dst bad
  clear_value store
  split
  · exact State.codeFail_keeps h _ _ _ _ _
  split
  · exact State.codeFail_keeps h _ _ _ _ _
  have h1 := State.readFrame_keeps h d c
  split
  rename_i s1 codes e1 heq1
  rw [heq1] at h1
  replace h1 : Keeps s s1 := h1
  split
  · exact State.codeUe_keeps h1 _ _ _ _ _
  split
  · exact State.codeFail_keeps h1 _ _ _ _ _
  have h2 := State.readPool_keeps h1 i (bufs.map (fun b => b.1))
  split
  rename_i s2 pool e2 heq2
  rw [heq2] at h2
  replace h2 : Keeps s s2 := h2
  split
  · exact State.codeUe_keeps h2 _ _ _ _ _
  have h3 : Keeps s (if codeHintEn c then s2.readRef (s2.codeHint c) (hintLen d) else ([], s2, none)).2.1 := by
    split
    · exact State.readRef_keeps h2 _ _
    · exact h2
  split
  rename_i hb s3 e3 heq3
  rw [heq3] at h3
  replace h3 : Keeps s s3 := h3
  split
  · exact State.codeUe_keeps h3 _ _ _ _ _
  extract_lets f orig run pay raw body rec_ out s5 s6 y
  refine Keeps.ite (State.codeFail_keeps h3 _ _ _ _ _) ?_
  have h5 : Keeps s s5 := by
    unfold s5
    split
    · exact State.writePool_keeps h3 _ _ _
    · exact h3
  exact State.codeEnd_keeps (State.setStream_keeps (State.markOpt_keeps (State.writeRef_keeps h5 _ _) _ _) _ _) _ _ _ _

theorem State.decode_keeps {s t : State} (h : Keeps s t) (c : Cmd) (q : Nat) : Keeps s (t.decode c q) := by
  unfold State.decode
  extract_lets i d x src dst ent undef rowOf
  split
  · exact State.codeFail_keeps h _ _ _ _ _
  have h1 := State.readRef_keeps h src 128
  split
  rename_i hd s1 e1 heq1
  rw [heq1] at h1
  replace h1 : Keeps s s1 := h1
  split
  · exact State.codeUe_keeps h1 _ _ _ _ _
  extract_lets hh n plen raw storeEn store marks len bufs ad entry good
  clear_value store
  split
  · exact State.codeFail_keeps h1 _ _ _ _ _
  split
  · exact State.codeFail_keeps h1 _ _ _ _ _
  split
  · exact State.codeFail_keeps h1 _ _ _ _ _
  split
  · exact State.codeFail_keeps h1 _ _ _ _ _
  split
  · exact State.codeFail_keeps h1 _ _ _ _ _
  have h2 := State.readRef_keeps h1 (src.add 128) len
  split
  rename_i pl s2 e2 heq2
  rw [heq2] at h2
  replace h2 : Keeps s s2 := h2
  split
  · exact State.codeUe_keeps h2 _ _ _ _ _
  extract_lets pay
  split
  · exact State.codeFail_keeps h2 _ _ _ _ _
  have h3 := State.ochFree_keeps h2 d.n
  split
  rename_i free s3 heq3
  rw [heq3] at h3
  replace h3 : Keeps s s3 := h3
  have h4 := State.readPool_keeps h3 i (bufs.map (fun b => b.1))
  split
  rename_i s4 pool e4 heq4
  rw [heq4] at h4
  replace h4 : Keeps s s4 := h4
  split
  · exact State.codeUe_keeps h4 _ _ _ _ _
  extract_lets f res
  clear_value res
  rcases res with _ | ⟨rec0, vecs⟩
  · exact State.codeFail_keeps h4 _ _ _ _ _
  dsimp only
  refine State.codeEnd_keeps (State.setStream_keeps (State.markOpt_keeps (State.writeFrame_keeps ?_ _ _ _) _ _) _ _) _ _ _ _
  split
  · exact State.writePool_keeps h4 _ _ _
  · exact h4

theorem State.setEngine_keeps {s t : State} (h : Keeps s t) (e : BitVec 1) (v : Option (Nat × W32)) :
    Keeps s (State.setEngine t e v) := by
  grind [State.setEngine, Keeps.mk0]

theorem State.useEngine_keeps {s t : State} (h : Keeps s t) (e : BitVec 1) (q : Nat) (c : Cmd) :
    Keeps s (State.useEngine t e q c) := by
  grind [State.useEngine, Keeps.mk0]

theorem State.ochPick_keeps {s t : State} (h : Keeps s t) (e : BitVec 1) :
    Keeps s (State.ochPick t e) := by
  grind [State.ochPick, State.setEngine_keeps, State.useEngine_keeps, Keeps.mk0, Keeps.foldl]

end Sys2Proof.Machine
end

