-- ==== Sys2Proof/Laws/KeepsHost.lean ====
section
/-! SUPPORT. What the fabric, the step base, failure handling, queues, LAUNCH and completion keep (see KeepsBase.lean): one lemma per operation. -/

namespace Sys2Proof.Machine

/-! ## Machine/Fabric.lean -/

theorem State.writeFabCfg_keeps {s t : State} (h : Keeps s t) (w : W64) :
    ∀ u, State.writeFabCfg t w = some u → Keeps s u := by
  grind [State.writeFabCfg, State.setReg_keeps, Keeps.mk0]

theorem State.writeXroute_keeps {s t : State} (h : Keeps s t) (d : Nat) (w : W64) :
    ∀ u, State.writeXroute t d w = some u → Keeps s u := by
  grind [State.writeXroute, State.setReg_keeps, Keeps.mk0]

theorem State.route_keeps {s t : State} (h : Keeps s t) (dst : BitVec 12) :
    Keeps s (State.route t dst).2 := by
  grind [State.route, Keeps.mk0]

theorem State.emit_keeps {s t : State} (h : Keeps s t) (lane : Nat) (dst : BitVec 12) (hops : Nat) (b : List Byte) :
    Keeps s (State.emit t lane dst hops b).1 := by
  grind [State.emit, State.updPort_keeps, State.route_keeps, Keeps.mk0]

theorem State.relay_keeps {s t : State} (h : Keeps s t) (p : PortId) (sl : Bool) (b : List Byte) :
    Keeps s (State.relay t p sl b) := by
  grind [State.relay, State.linkCount_keeps, State.emit_keeps, Keeps.mk0]

theorem State.answer_keeps {s t : State} (h : Keeps s t) (dst : BitVec 12) (sl : Bool) (nak : Bool) (e : W32) :
    Keeps s (State.answer t dst sl nak e) := by
  grind [State.answer, Keeps.mk0]

theorem State.inOrder_keeps {s t : State} (h : Keeps s t) (src : BitVec 12) (sl : Bool) (e : W32) (body : State → State)
    (hb : Keeps s (body t)) : Keeps s (t.inOrder src sl e body) := by
  unfold State.inOrder
  extract_lets k x
  split
  · apply State.answer_keeps
    exact hb.same rfl rfl rfl rfl
  · split
    · exact State.answer_keeps h _ _ _ _
    · exact h

theorem State.takeFab_keeps {s t : State} (h : Keeps s t) (p : PortId) (sl : Bool) (b : List Byte) :
    Keeps s (State.takeFab t p sl b) := by
  grind [State.takeFab, State.updPort_keeps, Keeps.mk0]

theorem State.heardFrom_keeps {s t : State} (h : Keeps s t) (src : BitVec 12) :
    Keeps s (State.heardFrom t src) := by
  grind [State.heardFrom, Keeps.mk0]

theorem State.fabBad_keeps {s t : State} (h : Keeps s t) (p : BitVec 4) (sl : Bool) (b : List Byte) :
    Keeps s (State.fabBad t p sl b) := by
  grind [State.fabBad, State.linkCount_keeps, State.logOpen_keeps, State.answer_keeps, Keeps.mk0]

theorem State.fabIn_keeps {s t : State} (h : Keeps s t) (p : BitVec 4) (sl : Bool) (b : List Byte) (mine : Nat → Bool)
    (body : State → State) (hb : ∀ u, Keeps s u → Keeps s (body u)) : Keeps s (t.fabIn p sl b mine body) := by
  grind [State.fabIn, State.takeFab_keeps, State.relay_keeps, State.fabBad_keeps, State.heardFrom_keeps]

theorem State.released_keeps {s t : State} (h : Keeps s t) (dst : BitVec 12) (lane : Nat) (e : W32) :
    Keeps s (State.released t dst lane e) := by
  grind [State.released, State.endCmd_keeps, State.collPoke_keeps, Keeps.mk0]

theorem State.again_keeps {s t : State} (h : Keeps s t) (p : FabSent → Bool) :
    Keeps s (State.again t p) := by
  grind [State.again, Keeps.mk0]

theorem State.noXroute_keeps {s t : State} (h : Keeps s t) (dst : BitVec 12) :
    Keeps s (State.noXroute t dst) := by
  grind [State.noXroute, State.linkCount_keeps, Keeps.mk0]

theorem State.emitOwn_keeps {s t : State} (h : Keeps s t) (lane : Nat) (dst : BitVec 12) (b : List Byte) :
    Keeps s (State.emitOwn t lane dst b) := by
  grind [State.emitOwn, State.emit_keeps, State.noXroute_keeps, Keeps.mk0]

theorem State.fabFlush_keeps {s t : State} (h : Keeps s t) : Keeps s t.fabFlush := by
  unfold State.fabFlush
  extract_lets may s1 fb s2
  have h1 : Keeps s s1 := by
    refine Keeps.foldl h (fun u f hu => ?_) _
    split
    · exact State.emitOwn_keeps hu _ _ _
    · exact hu
  have h2 : Keeps s s2 := h1.mk0 ..
  split
  · exact h2
  · exact Keeps.foldl h2 (fun u a hu => State.emitOwn_keeps hu _ _ _) _

theorem State.flood_keeps {s t : State} (h : Keeps s t) (m : Msg) (but : Option (BitVec 12)) :
    Keeps s (State.flood t m but) := by
  grind [State.flood, State.sendMsg_keeps, Keeps.mk0, Keeps.foldl]

theorem State.floodLinks_keeps {s t : State} (h : Keeps s t)  :
    Keeps s (State.floodLinks t) := by
  grind [State.floodLinks, State.flood_keeps, Keeps.mk0]

theorem State.takeLinks_keeps {s t : State} (h : Keeps s t) (src : BitVec 12) (id : BitVec 12) (up : BitVec 16) :
    Keeps s (State.takeLinks t src id up) := by
  grind [State.takeLinks, State.flood_keeps, Keeps.mk0]

/-! ## Machine/StepBase.lean -/

theorem State.stbCount_keeps {s t : State} (h : Keeps s t) (i : Nat) :
    Keeps s (State.stbCount t i) := by
  grind [State.stbCount, Keeps.mk0]

theorem State.setEvt_keeps {s t : State} (h : Keeps s t) (i : Nat) (e : StepEvt) :
    Keeps s (State.setEvt t i e) := by
  grind [State.setEvt, Keeps.mk0]

theorem State.writeStbCfg_keeps {s t : State} (h : Keeps s t) (w : W64) :
    ∀ u, State.writeStbCfg t w = some u → Keeps s u := by
  grind [State.writeStbCfg, State.setReg_keeps, Keeps.mk0]

theorem State.writeStbWin_keeps {s t : State} (h : Keeps s t) (w : W64) :
    ∀ u, State.writeStbWin t w = some u → Keeps s u := by
  grind [State.writeStbWin, State.setReg_keeps, Keeps.mk0]

theorem State.stepReadNow_keeps {s t : State} (h : Keeps s t) (k : Packet) :
    Keeps s (State.stepReadNow t k) := by
  grind [State.stepReadNow, State.respond_keeps, Keeps.mk0]

theorem State.lockPass_keeps {s t : State} (h : Keeps s t) (g : Nat) :
    Keeps s (State.lockPass t g) := by
  grind [State.lockPass, State.updTile_keeps, Keeps.mk0, Keeps.foldl]

theorem State.lockTick_keeps {s t : State} (h : Keeps s t) (g : Nat) :
    Keeps s (State.lockTick t g) := by
  grind [State.lockTick, State.lockPass_keeps, Keeps.mk0]

theorem State.lockSkip_keeps {s t : State} (h : Keeps s t)  :
    Keeps s (State.lockSkip t) := by
  grind [State.lockSkip, Keeps.mk0, Keeps.foldl]

theorem State.lockJump_keeps {s t : State} (h : Keeps s t)  :
    Keeps s (State.lockJump t) := by
  grind [State.lockJump, State.lockTick_keeps, Keeps.mk0, Keeps.foldl]

theorem State.writeLgCfg_keeps {s t : State} (h : Keeps s t) (g : Nat) (w : W64) :
    ∀ u, State.writeLgCfg t g w = some u → Keeps s u := by
  grind [State.writeLgCfg, State.setReg_keeps, Keeps.mk0]

theorem State.setStep_keeps {s t : State} (h : Keeps s t) (step : W64) (phase : W32) (at_ : W64) :
    Keeps s (State.setStep t step phase at_) := by
  grind [State.setStep, State.lockJump_keeps, Keeps.mk0]

theorem State.decideChange_keeps {s t : State} (h : Keeps s t) (t_ : Nat) (d : Nat) :
    Keeps s (State.decideChange t t_ d) := by
  grind [State.decideChange, State.sendAll_keeps, Keeps.mk0]

theorem State.newStep_keeps {s t : State} (h : Keeps s t) (t_ : Nat) (d : Nat) :
    Keeps s (State.newStep t t_ d) := by
  grind [State.newStep, State.setStep_keeps, State.decideChange_keeps, Keeps.mk0]

theorem State.logStb_keeps {s t : State} (h : Keeps s t) (st : W16) :
    Keeps s (State.logStb t st) := by
  grind [State.logStb, State.log_keeps, Keeps.mk0]

theorem State.tellCadence_keeps {s t : State} (h : Keeps s t)  :
    Keeps s (State.tellCadence t) := by
  grind [State.tellCadence, State.sendAll_keeps, Keeps.mk0]

theorem State.missOne_keeps {s t : State} (h : Keeps s t) (r : W64) :
    Keeps s (State.missOne t r) := by
  grind [State.missOne, State.stbCount_keeps, State.newStep_keeps, State.logStb_keeps, Keeps.mk0]

theorem State.missAll_keeps {s t : State} (h : Keeps s t) (a n : Nat) : Keeps s (t.missAll a n) := by
  induction n generalizing t with
  | zero => simpa [State.missAll] using h
  | succ n ih => grind [State.missAll, State.missOne_keeps]

theorem State.judge_keeps {s t : State} (h : Keeps s t) (t_ : Nat) :
    Keeps s (State.judge t t_).1 := by
  grind [State.judge, State.stbCount_keeps, State.logStb_keeps, Keeps.mk0]

theorem State.applyTime_keeps {s t : State} (h : Keeps s t) (p : TimePkt) :
    Keeps s (State.applyTime t p) := by
  grind [State.applyTime, State.stbCount_keeps, State.setStep_keeps, State.missAll_keeps, State.judge_keeps, Keeps.mk0]

theorem State.setTick_keeps {s t : State} (h : Keeps s t) (t_ : W64) :
    Keeps s (State.setTick t t_) := by
  grind [State.setTick, Keeps.mk0]

theorem State.askTick_keeps {s t : State} (h : Keeps s t) (old : BitVec 12) : Keeps s (t.askTick old) := by
  unfold State.askTick
  split
  · exact h
  · exact State.sendMsg_keeps h _ _

theorem State.learn_keeps {s t : State} (h : Keeps s t) (src : BitVec 12) (id : BitVec 12) :
    Keeps s (State.learn t src id) := by
  grind [State.learn, State.flood_keeps, State.askTick_keeps, Keeps.mk0]

theorem State.alignTo_keeps {s t : State} (h : Keeps s t) (ok : Bool) :
    Keeps s (State.alignTo t ok) := by
  grind [State.alignTo, State.lockSkip_keeps, Keeps.mk0]

theorem State.joinBase_keeps {s t : State} (h : Keeps s t) (tick : W64) (step : W64) (phase : W32) (ok : Bool) :
    Keeps s (State.joinBase t tick step phase ok) := by
  grind [State.joinBase, State.setStep_keeps, State.setTick_keeps, State.alignTo_keeps, Keeps.mk0]

theorem State.tickAnswer_keeps {s t : State} (h : Keeps s t) (src : BitVec 12) (w : W64) : Keeps s (t.tickAnswer src w) := by
  unfold State.tickAnswer
  (repeat' split) <;> first | exact h | exact State.sendMsg_keeps h _ _

theorem State.takeTick_keeps {s t : State} (h : Keeps s t) (src : BitVec 12) (w step : W64) (phase : W32) (cfg win asked : W64) :
    Keeps s (t.takeTick src w step phase cfg win asked) := by
  unfold State.takeTick
  split
  · exact State.joinBase_keeps h _ _ _ _
  · exact h

theorem State.setAligned_keeps {s t : State} (h : Keeps s t) (ok : Bool) : Keeps s (t.setAligned ok) := by
  unfold State.setAligned
  extract_lets s1
  have h1 : Keeps s s1 := State.alignTo_keeps h _
  clear_value s1
  (repeat' split) <;> first | exact h1 | exact State.sendMsg_keeps (State.logStb_keeps h1 _) _ _

theorem State.alignCheck_keeps {s t : State} (h : Keeps s t) (src : BitVec 12) (off : Bool) (cfg : W64) (win : W64) :
    Keeps s (State.alignCheck t src off cfg win) := by
  grind [State.alignCheck, State.sendMsg_keeps, State.log_keeps, Keeps.mk0]

theorem State.checkAnswer_keeps {s t : State} (h : Keeps s t) (src : BitVec 12) (cfg win w asked : W64) :
    Keeps s (t.checkAnswer src cfg win w asked) := by
  unfold State.checkAnswer
  split
  · exact State.alignCheck_keeps h _ _ _ _
  · exact h

theorem State.askAll_keeps {s t : State} (h : Keeps s t) : Keeps s t.askAll := by
  unfold State.askAll
  split
  · exact State.sendAll_keeps h _ _
  · exact h

theorem State.forget_keeps {s t : State} (h : Keeps s t) (id : BitVec 12) :
    Keeps s (State.forget t id) := by
  grind [State.forget, State.lockSkip_keeps, State.askTick_keeps, Keeps.mk0]

theorem State.takeCadence_keeps {s t : State} (h : Keeps s t) (r : W64) (e : W64) (cad : Nat) (miss : Nat) :
    Keeps s (State.takeCadence t r e cad miss) := by
  grind [State.takeCadence, State.logStb_keeps, Keeps.mk0]

theorem State.writeEvt_keeps {s t : State} (h : Keeps s t) (i : Nat) (w0 : W64) (w1 : W64) :
    ∀ u, State.writeEvt t i w0 w1 = some u → Keeps s u := by
  grind [State.writeEvt, State.setEvt_keeps, Keeps.mk0]

/-! ## Machine/Resil.lean -/

theorem State.writeChkCfg_keeps {s t : State} (h : Keeps s t) (w : W64) :
    ∀ u, State.writeChkCfg t w = some u → Keeps s u := by
  grind [State.writeChkCfg, State.setReg_keeps, Keeps.mk0]

theorem State.writeTstCfg_keeps {s t : State} (h : Keeps s t) (w : W64) :
    ∀ u, State.writeTstCfg t w = some u → Keeps s u := by
  grind [State.writeTstCfg, State.setReg_keeps, Keeps.mk0]

theorem State.writeScrubCfg_keeps {s t : State} (h : Keeps s t) (w : W64) :
    ∀ u, State.writeScrubCfg t w = some u → Keeps s u := by
  grind [State.writeScrubCfg, State.setReg_keeps, Keeps.mk0]

theorem State.writeTensor_keeps {s t : State} (h : Keeps s t) (j : Nat) (w : W64) :
    ∀ u, State.writeTensor t j w = some u → Keeps s u := by
  grind [State.writeTensor, State.setReg_keeps, Keeps.mk0]

theorem State.clearLevels_keeps {s t : State} (h : Keeps s t)  :
    Keeps s (State.clearLevels t) := by
  grind [State.clearLevels, State.setCluster_keeps, State.relock_keeps, State.applyTrim_keeps, Keeps.mk0, Keeps.foldl]

theorem State.returnRetired_keeps {s t : State} (h : Keeps s t)  :
    Keeps s (State.returnRetired t) := by
  grind [State.returnRetired, State.updCluster_keeps, Keeps.mk0, Keeps.foldl]

theorem State.writeMrgClr_keeps {s t : State} (h : Keeps s t) (w : W64) :
    ∀ u, State.writeMrgClr t w = some u → Keeps s u := by
  grind [State.writeMrgClr, State.clearLevels_keeps, State.returnRetired_keeps, Keeps.mk0]

theorem State.thirdDone_keeps {s t : State} (h : Keeps s t) (a : Arb) :
    Keeps s (State.thirdDone t a) := by
  grind [State.thirdDone, State.addMove_keeps, Keeps.mk0]

theorem State.unresolved_keeps {s t : State} (h : Keeps s t) (c : Nat) (a : Arb) (detail : W64) :
    Keeps s (State.unresolved t c a detail) := by
  grind [State.unresolved, State.count_keeps, State.log_keeps, State.recallOne_keeps, State.marginStep_keeps, Keeps.mk0, Keeps.foldl]

theorem State.openAt_keeps {s t : State} (h : Keeps s t) (c : Nat) (p : Nat) (cmd : Option (Nat × W32)) (extra : Bool) :
    Keeps s (State.openAt t c p cmd extra) := by
  grind [State.openAt, State.setCluster_keeps, Keeps.mk0]

theorem State.askWindow_keeps {s t : State} (h : Keeps s t) (c : Nat) (p : Option Nat) :
    Keeps s (State.askWindow t c p) := by
  unfold State.askWindow
  (repeat' split) <;> grind [State.count_keeps, State.openAt_keeps, Keeps.mk0]

theorem State.updSelf_keeps {s t : State} (h : Keeps s t) (q : Nat) (seq : W32) (f : SelfTest → SelfTest) :
    Keeps s (State.updSelf t q seq f) := by
  grind [State.updSelf, Keeps.mk0]

theorem State.endSelf_keeps {s t : State} (h : Keeps s t)  :
    Keeps s (State.endSelf t) := by
  grind [State.endSelf, State.endCmd_keeps, Keeps.mk0, Keeps.foldl]

theorem State.nextSelf_keeps {s t : State} (h : Keeps s t) (c : Nat) :
    Keeps s (State.nextSelf t c) := by
  grind [State.nextSelf, State.openAt_keeps, State.updSelf_keeps, Keeps.mk0]

theorem State.closeWindow_keeps {s t : State} (h : Keeps s t) (c : Nat) :
    Keeps s (State.closeWindow t c) := by
  grind [State.closeWindow, State.updCluster_keeps, State.endSelf_keeps, State.nextSelf_keeps, Keeps.mk0]

theorem State.clearPosition_keeps {s t : State} (h : Keeps s t) (n : Nat) :
    Keeps s (State.clearPosition t n) := by
  unfold State.clearPosition
  (repeat' split) <;> grind [State.setCluster_keeps, State.count_keeps, State.addMove_keeps, State.closeWindow_keeps, Keeps.mk0]

theorem State.testOutcome_keeps {s t : State} (h : Keeps s t) (n : Nat) (pass : Bool) : Keeps s (t.testOutcome n pass) := by
  unfold State.testOutcome
  cases hw : (t.cluster n).win with
  | none => simpa only [hw] using h
  | some w =>
    have ht : ∀ (f : SelfTest → SelfTest) (u : State), Keeps s u → Keeps s (match w.cmd with | some (q, seq) => u.updSelf q seq f | none => u) := by
      intro f u hu
      split
      · exact State.updSelf_keeps hu _ _ _
      · exact hu
    have h1 : Keeps s (t.count Cnt.testsRun 1) := State.count_keeps h _ _
    by_cases hr : (t.cluster n).role w.pos ≠ .testing
    · simpa [hw, hr] using h
    · cases pass
      · simp only [hw, hr, if_false, Bool.false_eq_true]
        exact State.closeWindow_keeps (ht _ _ (State.detect_keeps (State.retire_keeps (State.count_keeps h1 _ _) _ _) _ _ _ _ _ _ _)) _
      · simp only [hw, hr, if_false, if_true]
        exact State.closeWindow_keeps (ht _ _ (State.setCluster_keeps h1 _ _)) _

theorem State.imageBad_keeps {s t : State} (h : Keeps s t) (p : ImgPart) :
    Keeps s (State.imageBad t p) := by
  unfold State.imageBad
  (repeat' split) <;> grind [State.updTile_keeps, State.store_keeps, State.detect_keeps, Keeps.mk0]

theorem State.usedTab_keeps {s t : State} (h : Keeps s t) (t_ : Nat) (slot : Nat) :
    Keeps s (State.usedTab t t_ slot) := by
  grind [State.usedTab, Keeps.mk0]

theorem State.adderBad_keeps {s t : State} (h : Keeps s t) (u : AddUnit) : Keeps s (t.adderBad u) := by
  cases u <;> grind [State.adderBad, State.count_keeps, State.log_keeps, State.setVault_keeps, State.remapVault_keeps]

theorem State.capacityLost_keeps {s t : State} (h : Keeps s t) (unit : W16) :
    Keeps s (State.capacityLost t unit) := by
  grind [State.capacityLost, State.log_keeps, State.declareSelf_keeps, Keeps.mk0]

theorem State.moveSigs_keeps {s t : State} (h : Keeps s t) (f : BitVec 12) (sp : Option (BitVec 12)) :
    Keeps s (State.moveSigs t f sp) := by
  unfold State.moveSigs
  (repeat' split) <;> grind [State.sigToHolder_keeps, Keeps.mk0, Keeps.foldl]

theorem State.tellLeader_keeps {s t : State} (h : Keeps s t) (old : BitVec 12) :
    Keeps s (State.tellLeader t old) := by
  grind [State.tellLeader, State.sendMsg_keeps, State.toGroup_keeps, State.leaderReady_keeps, State.sendAbandon_keeps, Keeps.mk0]

theorem State.declared_keeps {s t : State} (h : Keeps s t) (f : BitVec 12) :
    Keeps s (State.declared t f) := by
  unfold State.declared
  (repeat' split) <;> grind [State.log_keeps, State.fence_keeps, State.ringSuspend_keeps, State.giveUp_keeps, State.roleLost_keeps, State.forget_keeps, State.moveSigs_keeps, State.tellLeader_keeps, Keeps.mk0, Keeps.foldl]

theorem State.declareFailed_keeps {s t : State} (h : Keeps s t) (id : BitVec 12) :
    Keeps s (State.declareFailed t id) := by
  grind [State.declareFailed, State.sendMsg_keeps, State.sendAll_keeps, State.declared_keeps, Keeps.mk0]

/-! ## Machine/Queues.lean -/

theorem State.acceptCmd_keeps {s t : State} (h : Keeps s t) (q : Nat) (c : Cmd) :
    Keeps s (State.acceptCmd t q c) := by
  grind [State.acceptCmd, State.setQueue_keeps, State.setSlot_keeps, State.setCtx_keeps, State.count_keeps, Keeps.mk0]

theorem State.takeCmds_keeps {s t : State} (h : Keeps s t) (q n i : Nat) (bs : List Byte) :
    ∀ u j, t.takeCmds q n i bs = .ok (u, j) → Keeps s u := by
  induction n generalizing t i bs with
  | zero => intro u j hu; simp [State.takeCmds] at hu; exact hu.1 ▸ h
  | succ n ih => grind [State.takeCmds, State.acceptCmd_keeps]

theorem State.cmdAnswer_keeps {s t : State} (h : Keeps s t) (k : Packet) (st : W16) (idx : Option Nat) (fld_ : Option Nat) (first : Option W32) :
    Keeps s (State.cmdAnswer t k st idx fld_ first) := by
  grind [State.cmdAnswer, State.cmdReply_keeps, Keeps.mk0]

theorem State.cmdNow_keeps {s t : State} (h : Keeps s t) (k : Packet) : Keeps s (t.cmdNow k) := by
  unfold State.cmdNow
  extract_lets q
  have h1 := State.takeCmds_keeps h q 1024 0 (Packet.data k)
  (repeat' split) <;> grind [State.cmdAnswer_keeps]

theorem State.notRun_keeps {s t : State} (h : Keeps s t) (q : Nat) (c : Cmd) (st : W16) :
    Keeps s (State.notRun t q c st) := by
  grind [State.notRun, State.endCmd_keeps, State.collGone_keeps, State.commitGone_keeps, Keeps.mk0]

theorem State.newHead_keeps {s t : State} (h : Keeps s t) (q : Nat) :
    Keeps s (State.newHead t q) := by
  grind [State.newHead, State.updCmd_keeps, Keeps.mk0]

theorem State.dispatch_keeps {s t : State} (h : Keeps s t) (q : Nat) (c : Cmd) :
    Keeps s (State.dispatch t q c) := by
  grind [State.dispatch, State.updCmd_keeps, State.notRun_keeps, State.newHead_keeps, Keeps.mk0]

theorem State.resolveDeps_keeps {s t : State} (h : Keeps s t) (q : Nat) (seq : W32) (st : W16) :
    Keeps s (State.resolveDeps t q seq st) := by
  grind [State.resolveDeps, Keeps.mk0]

/-! ## Machine/Launch.lean -/

theorem State.addLaunch_keeps {s t : State} (h : Keeps s t) (l : Launch) :
    Keeps s (State.addLaunch t l) := by
  grind [State.addLaunch, Keeps.mk0]

theorem State.preemptForThird_keeps {s t : State} (h : Keeps s t) (t_ : Nat) :
    Keeps s (State.preemptForThird t t_) := by
  grind [State.preemptForThird, State.addMove_keeps, Keeps.mk0]

theorem State.useEnds_keeps {s t : State} (h : Keeps s t) (t_ : Nat) :
    Keeps s (State.useEnds t t_) := by
  grind [State.useEnds, State.closeUse_keeps, Keeps.mk0]

theorem State.useStarts_keeps {s t : State} (h : Keeps s t) (t_ : Nat) :
    Keeps s (State.useStarts t t_) := by
  grind [State.useStarts, State.openUse_keeps, Keeps.mk0]

theorem State.swapRoles_keeps {s t : State} (h : Keeps s t) (t_ : Nat) (k : Nat) (leave : Role) :
    Keeps s (State.swapRoles t t_ k leave) := by
  grind [State.swapRoles, State.updCluster_keeps, Keeps.mk0]

theorem State.preloadTile_keeps {s t : State} (h : Keeps s t) (t_ : Nat) :
    Keeps s (State.preloadTile t t_) := by
  grind [State.preloadTile, State.updTile_keeps, Keeps.mk0]

/-! ## Machine/Complete.lean -/

theorem State.icacheParity_keeps {s t : State} (h : Keeps s t) (t_ : Nat) :
    Keeps s (State.icacheParity t t_) := by
  grind [State.icacheParity, State.count_keeps, State.log_keeps, Keeps.mk0]

theorem State.resumeLaunch_keeps {s t : State} (h : Keeps s t) (l : Launch) :
    Keeps s (State.resumeLaunch t l) := by
  grind [State.resumeLaunch, State.resume_keeps, State.dropCmd_keeps, Keeps.mk0]

theorem State.effectFault_keeps {s t : State} (h : Keeps s t) (t_ : Nat) (i : EInstr) (f : TFault) :
    Keeps s (State.effectFault t t_ i f) := by
  grind [State.effectFault, State.progFault_keeps, State.dropCmd_keeps, State.unmasked_keeps, Keeps.mk0]

theorem State.storeFault_keeps {s t : State} (h : Keeps s t) (t_ : Nat) (i : EInstr) :
    Keeps s (State.storeFault t t_ i) := by
  grind [State.storeFault, State.log_keeps, State.progFault_keeps, State.resumeLaunch_keeps, Keeps.mk0]

theorem State.plausCheck_keeps {s t : State} (h : Keeps s t) (t_ : Nat) (i : EInstr) (r : EngRes) (flag : Bool) :
    Keeps s (State.plausCheck t t_ i r flag) := by
  grind [State.plausCheck, State.count_keeps, State.notice_keeps, State.detectTile_keeps, State.askWindow_keeps, Keeps.mk0]

theorem State.noteTab_keeps {s t : State} (h : Keeps s t) (t_ : Nat) (i : EInstr) :
    Keeps s (State.noteTab t t_ i) := by
  grind [State.noteTab, State.usedTab_keeps, Keeps.mk0]

theorem State.engDone_keeps {s t : State} (h : Keeps s t) (t_ : Nat) (e : Eng) (i : EInstr) :
    Keeps s (State.engDone t t_ e i) := by
  grind [State.engDone, State.setTile_keeps, State.progFault_keeps, Keeps.mk0]

theorem State.coreDetect_keeps {s t : State} (h : Keeps s t) (t_ : Nat) (p : Nat) (at_ : Nat) (margin : Bool) (took : Nat) :
    Keeps s (State.coreDetect t t_ p at_ margin took) := by
  grind [State.coreDetect, State.detect_keeps, State.marginStep_keeps, Keeps.mk0]

theorem State.flowMismatch_keeps {s t : State} (h : Keeps s t) (t_ : Nat) :
    Keeps s (State.flowMismatch t t_) := by
  grind [State.flowMismatch, State.setTile_keeps, State.count_keeps, State.coreDetect_keeps, Keeps.mk0]

theorem State.movedBlockEnds_keeps {s t : State} (h : Keeps s t) (t_ : Nat) (l : Launch) (block : W32) (at_ : Nat) :
    Keeps s (State.movedBlockEnds t t_ l block at_) := by
  grind [State.movedBlockEnds, State.coreDetect_keeps, Keeps.mk0]

theorem State.resultData_keeps {s t : State} (h : Keeps s t) (l : Launch) :
    Keeps s (State.resultData t l).1 := by
  grind [State.resultData, State.readRef_keeps, State.unmasked_keeps, Keeps.mk0]

theorem State.launchEnds_keeps {s t : State} (h : Keeps s t) (l : Launch) :
    Keeps s (State.launchEnds t l) := by
  grind [State.launchEnds, State.endCmd_keeps, State.stageStall_keeps, State.resultData_keeps, Keeps.mk0]

theorem State.haltFlags_keeps {s t : State} (h : Keeps s t) (l : Launch) (fl : Fl) :
    Keeps s (State.haltFlags t l fl) := by
  grind [State.haltFlags, State.count_keeps, State.stepFlags_keeps, Keeps.mk0]

theorem State.watchFirst_keeps {s t : State} (h : Keeps s t) (t_ : Nat) (l : Launch) :
    Keeps s (State.watchFirst t t_ l) := by
  grind [State.watchFirst, State.setTile_keeps, State.updCluster_keeps, State.updLaunch_keeps, State.count_keeps, State.addMove_keeps, State.marginStep_keeps, Keeps.mk0]

end Sys2Proof.Machine
end

