-- ==== Sys2Proof/Laws/KeepsBoot.lean ====
section
/-! SUPPORT. What the flash, start-up, power, events, registers and the tick keep (see KeepsBase.lean): one lemma per operation. -/

namespace Sys2Proof.Machine

/-! ## Machine/Flash.lean -/

theorem State.setDev_keeps {s t : State} (h : Keeps s t) (d : Bool) (f : Flash) :
    Keeps s (State.setDev t d f) := by
  grind [State.setDev, Keeps.mk0, Keeps.mkB]

theorem State.storeOn_keeps {s t : State} (h : Keeps s t) (d : Bool) (r : SetRec) :
    Keeps s (State.storeOn t d r) := by
  grind [State.storeOn, State.setDev_keeps, Keeps.mk0]

theorem State.storeRec_keeps {s t : State} (h : Keeps s t) (t_ : Nat) (fmt : Nat) (body : List Byte) :
    Keeps s (State.storeRec t t_ fmt body) := by
  grind [State.storeRec, State.storeOn_keeps, Keeps.mk0]

theorem State.writeRec_keeps {s t : State} (h : Keeps s t) (t_ : Nat) (body : List Byte) :
    Keeps s (State.writeRec t t_ body) := by
  grind [State.writeRec, State.storeRec_keeps, Keeps.mk0, Keeps.foldl]

theorem State.writeBootctl_keeps {s t : State} (h : Keeps s t) (b : BootCtl) :
    Keeps s (State.writeBootctl t b) := by
  grind [State.writeBootctl, State.storeRec_keeps, Keeps.mk0]

/-! ## Machine/Boot.lean -/

theorem State.hardReset_keeps {s t : State} (h : Keeps s t) (r f : Bool) : Keeps s (t.hardReset r f) :=
  ⟨h.pending, h.svn, h.revoked, fun _ => rfl⟩

theorem State.toStage_keeps {s t : State} (h : Keeps s t) (n : Nat) :
    Keeps s (State.toStage t n) := by
  grind [State.toStage, Keeps.mk0, Keeps.mkB]

theorem State.wake_keeps {s t : State} (h : Keeps s t) (p : PortId) :
    Keeps s (State.wake t p) := by
  grind [State.wake, State.updPort_keeps, Keeps.mk0]

theorem State.evenRecs_keeps {s t : State} (h : Keeps s t)  :
    Keeps s (State.evenRecs t) := by
  grind [State.evenRecs, State.storeOn_keeps, Keeps.mk0, Keeps.foldl]

theorem State.settings_keeps {s t : State} (h : Keeps s t) : Keeps s t.settings := by
  unfold State.settings
  have h2 := State.evenRecs_keeps (Keeps.foldl (f := fun u n => u.notice (Unit.iod 0x51) (BitVec.ofNat 64 n)) h
    (fun u a hu => State.notice_keeps hu _ _) t.tieTypes)
  dsimp only
  split
  · exact State.setReg_keeps (State.setReg_keeps (State.setReg_keeps h2 _ _) _ _) _ _
  · exact State.setReg_keeps (State.setReg_keeps (State.setReg_keeps h2 _ _) _ _) _ _

theorem State.raiseSvn_keeps {s t : State} (h : Keeps s t) (man : List Byte) : Keeps s (t.raiseSvn man) := by
  unfold State.raiseSvn
  split
  · exact ⟨h.pending, Nat.le_trans h.svn (Nat.le_max_left _ _), h.revoked, h.mem⟩
  · exact h

theorem State.convertRecs_keeps {s t : State} (h : Keeps s t) (old : List Byte) :
    Keeps s (State.convertRecs t old) := by
  grind [State.convertRecs, State.storeRec_keeps, Keeps.mk0, Keeps.foldl]

theorem State.runSlot_keeps {s t : State} (h : Keeps s t) (d : Bool) (trial : Bool) :
    Keeps s (State.runSlot t d trial) := by
  grind [State.runSlot, State.pxu_keeps, State.toStage_keeps, State.wake_keeps, State.raiseSvn_keeps, State.convertRecs_keeps, Keeps.mk0, Keeps.mkB, Keeps.foldl]

theorem State.bootStatus_keeps {s t : State} (h : Keeps s t) (st : W16) (fell : Bool) :
    Keeps s (State.bootStatus t st fell) := by
  grind [State.bootStatus, Keeps.mk0, Keeps.mkB]

theorem State.toRecovery_keeps {s t : State} (h : Keeps s t) (st : W16) :
    Keeps s (State.toRecovery t st) := by
  grind [State.toRecovery, State.pxu_keeps, State.toStage_keeps, State.wake_keeps, Keeps.mk0, Keeps.mkB, Keeps.foldl]

theorem State.fallBack_keeps {s t : State} (h : Keeps s t)  :
    Keeps s (State.fallBack t) := by
  grind [State.fallBack, State.writeBootctl_keeps, State.runSlot_keeps, State.bootStatus_keeps, State.toRecovery_keeps, Keeps.mk0, Keeps.mkB]

theorem State.imageStage_keeps {s t : State} (h : Keeps s t)  :
    Keeps s (State.imageStage t) := by
  grind [State.imageStage, State.writeBootctl_keeps, State.runSlot_keeps, State.bootStatus_keeps, State.toRecovery_keeps, State.fallBack_keeps, Keeps.mk0]

theorem State.applyRepair_keeps {s t : State} (h : Keeps s t) (e : Nat) :
    Keeps s (State.applyRepair t e) := by
  grind [State.applyRepair, State.setVault_keeps, State.setPhys_keeps, Keeps.mk0, Keeps.mkM]

theorem State.applyRepairs_keeps {s t : State} (h : Keeps s t)  :
    Keeps s (State.applyRepairs t) := by
  grind [State.applyRepairs, State.applyRepair_keeps, Keeps.mk0, Keeps.foldl]

theorem State.applyMargins_keeps {s t : State} (h : Keeps s t)  :
    Keeps s (State.applyMargins t) := by
  grind [State.applyMargins, State.updCluster_keeps, State.declareSelf_keeps, State.applyTrim_keeps, Keeps.mk0, Keeps.foldl]

theorem State.testOne_keeps {s t : State} (h : Keeps s t) (c : Nat) (p : Nat) (pass : Bool) :
    Keeps s (State.testOne t c p pass) := by
  grind [State.testOne, State.openAt_keeps, State.clearPosition_keeps, State.testOutcome_keeps, Keeps.mk0]

theorem State.trialTest_keeps {s t : State} (h : Keeps s t) (imgs : List ImgPart) (adds : List AddUnit) (bad : List (BitVec 4 × BitVec 5)) :
    Keeps s (State.trialTest t imgs adds bad).1 := by
  grind [State.trialTest, State.imageBad_keeps, State.adderBad_keeps, State.testOne_keeps, Keeps.mk0, Keeps.foldl]

theorem State.setDom_keeps {s t : State} (h : Keeps s t) (st : Nat) (present : W64) :
    Keeps s (State.setDom t st present) := by
  grind [State.setDom, Keeps.mk0]

theorem State.decideDom_keeps {s t : State} (h : Keeps s t) (p : W64) :
    Keeps s (State.decideDom t p) := by
  grind [State.decideDom, State.sendAll_keeps, State.log_keeps, State.notice_keeps, State.setDom_keeps, Keeps.mk0]

theorem State.formGo_keeps {s t : State} (h : Keeps s t) : Keeps s t.formGo := by
  unfold State.formGo
  repeat' split
  · exact h
  · exact State.decideDom_keeps h _
  · exact State.sendMsg_keeps h _ _
  · exact h

theorem State.writeDom_keeps {s t : State} (h : Keeps s t) (o : Nat) (w : W64) :
    ∀ u, State.writeDom t o w = some u → Keeps s u := by
  grind [State.writeDom, State.setReg_keeps, Keeps.mk0]

theorem State.writeUpdSrc_keeps {s t : State} (h : Keeps s t) (w : W64) :
    ∀ u, State.writeUpdSrc t w = some u → Keeps s u := by
  grind [State.writeUpdSrc, State.setReg_keeps, Keeps.mk0]

theorem State.updTo_keeps {s t : State} (h : Keeps s t) (u_ : Nat) :
    Keeps s (State.updTo t u_) := by
  grind [State.updTo, Keeps.mk0, Keeps.mkB]

theorem State.updCtl_keeps {s t : State} (h : Keeps s t) (k : Packet) (n : Nat) (f : State → Option State)
    (hf : ∀ u v, Keeps s u → f u = some v → Keeps s v) : Keeps s (t.updCtl k n f) := by
  unfold State.updCtl
  split
  · exact State.regWr_keeps h _ _ _ (fun u _ _ v hu hv => hf u v hu hv)
  · exact h

theorem State.updFails_keeps {s t : State} (h : Keeps s t) (st : W16) (blk : Nat) :
    Keeps s (State.updFails t st blk) := by
  grind [State.updFails, Keeps.mk0, Keeps.mkB]

/-! ## Machine/Power.lean -/

theorem State.powerUp_keeps {s t : State} (h : Keeps s t)  :
    Keeps s (State.powerUp t) := by
  grind [State.powerUp, Keeps.mk0]

theorem State.dark_keeps {s t : State} (h : Keeps s t) (p : PwrSt) : Keeps s (t.dark p) :=
  ⟨h.pending, h.svn, h.revoked, fun _ => rfl⟩

theorem State.blind_keeps {s t : State} (h : Keeps s t)  :
    Keeps s (State.blind t) := by
  grind [State.blind, State.updCluster_keeps, Keeps.mk0, Keeps.foldl]

theorem State.smbAnswer_keeps {s t : State} (h : Keeps s t) (code : Byte) (pec : Bool) (data : List Byte) :
    Keeps s (State.smbAnswer t code pec data) := by
  grind [State.smbAnswer, Keeps.mk0]

theorem State.tap_keeps {s t : State} (h : Keeps s t) (ir : Nat) (dr : BitVec 480) (boundary : Option (BitVec 480)) :
    Keeps s (State.tap t ir dr boundary) := by
  grind [State.tap, Keeps.mk0]

/-! ## Machine/Events.lean -/

theorem State.deliver_keeps {s t : State} (h : Keeps s t) (src : BitVec 12) (m : Msg) : Keeps s (t.deliver src m) := by
  cases m with
  | ringHash => exact State.ringHashFrom_keeps h _ _ _
  | ringBlock => exact State.ringLand_keeps h _ _ _
  | ringPartial => exact State.ringPartialLand_keeps h _ _
  | ringCredit => exact State.ringCredited_keeps h _ _
  | ready v => exact State.barrierMsg_keeps h src (.ready v)
  | abandon v c => exact State.barrierMsg_keeps h src (.abandon v c)
  | decision v d g => exact State.barrierMsg_keeps h src (.decision v d g)
  | norm => exact State.collNormFrom_keeps h _ _ _ _
  | digest => exact State.digestFrom_keeps h _ _ _
  | collHand => exact State.collHandFrom_keeps h _ _ _ _ _
  | collPiece => exact State.collPieceFrom_keeps h _ _ _ _ _ _ _ _
  | collHeld => exact State.collHeldFrom_keeps h _ _ _ _
  | collCredit => exact State.collCreditFrom_keeps h _ _ _
  | collTimeout => exact State.collOutcome_keeps h _ _ _ _ _
  | collAbort => exact State.collOutcome_keeps h _ _ _ _ _
  | backupReady => exact State.bkAnnounced_keeps h _ _
  | backupSelect => exact State.bkSelected_keeps h _ _
  | heartbeat => exact h.same rfl rfl rfl rfl
  | declare => exact State.declareFailed_keeps h _
  | declared => exact State.declared_keeps h _
  | expelled => exact State.roleLost_keeps h _ _
  | linkState => exact State.takeLinks_keeps h _ _ _
  | identity => exact State.learn_keeps h _ _
  | tickAsk => exact State.tickAnswer_keeps h _ _
  | tick => exact State.takeTick_keeps h _ _ _ _ _ _ _
  | stepChange =>
    simp only [State.deliver]
    split
    · exact h
    · exact h.same rfl rfl rfl rfl
  | stbCheck => exact State.checkAnswer_keeps h _ _ _ _ _
  | aligned => exact State.setAligned_keeps h _
  | cadence => exact State.takeCadence_keeps h _ _ _ _
  | formGo => exact State.formGo_keeps h
  | domain => exact State.setDom_keeps h _ _

theorem State.submit_keeps {s t : State} (h : Keeps s t) (q : Nat) (raw : List Byte) : Keeps s (t.submit q raw).1 := by
  unfold State.submit
  dsimp only
  repeat' split
  all_goals first
    | exact h
    | exact State.acceptCmd_keeps h _ _

theorem State.logEvt_keeps {s t : State} (h : Keeps s t) (i : Nat) (e : StepEvt) (st : W16) :
    Keeps s (State.logEvt t i e st) := by
  grind [State.logEvt, State.log_keeps, State.notice_keeps, Keeps.mk0]

theorem State.evtAction_keeps {s t : State} (h : Keeps s t) (i : Nat) (e : StepEvt) :
    Keeps s (State.evtAction t i e) := by
  grind [State.evtAction, State.setReg_keeps, State.homeAdd_keeps, State.startCompare_keeps, State.askWindow_keeps, State.submit_keeps, State.logEvt_keeps, Keeps.mk0, Keeps.foldl]

theorem State.fireEvt_keeps {s t : State} (h : Keeps s t) (i : Nat) :
    Keeps s (State.fireEvt t i) := by
  grind [State.fireEvt, State.setEvt_keeps, State.evtAction_keeps, Keeps.mk0]

theorem State.fireFirst_keeps {s t : State} (h : Keeps s t) (i : Nat) :
    Keeps s (State.fireFirst t i) := by
  grind [State.fireFirst, State.fireEvt_keeps, Keeps.mk0, Keeps.foldl]

/-! ## Machine/Regs.lean -/

theorem State.readNow_keeps {s t : State} (h : Keeps s t) (k : Packet) :
    Keeps s (State.readNow t k) := by
  grind [State.readNow, State.draw_keeps, State.respond_keeps, Keeps.mk0]

theorem State.rcClear_keeps {s t : State} (h : Keeps s t) (o : Nat) (ev : W64) :
    Keeps s (State.rcClear t o ev) := by
  grind [State.rcClear, Keeps.mk0]

theorem State.clearNow_keeps {s t : State} (h : Keeps s t) (k : Packet) (ev : W64) :
    Keeps s (State.clearNow t k ev) := by
  grind [State.clearNow, State.respond_keeps, State.rcClear_keeps, Keeps.mk0]

theorem State.writeJobCfg_keeps {s t : State} (h : Keeps s t) (w : W64) :
    ∀ u, State.writeJobCfg t w = some u → Keeps s u := by
  grind [State.writeJobCfg, State.setReg_keeps, Keeps.mk0]

theorem State.writeQCfg_keeps {s t : State} (h : Keeps s t) (q : Nat) (w : W64) :
    ∀ u, State.writeQCfg t q w = some u → Keeps s u := by
  grind [State.writeQCfg, State.setReg_keeps, Keeps.mk0]

theorem State.writeCollCfg_keeps {s t : State} (h : Keeps s t) (w : W64) :
    ∀ u, State.writeCollCfg t w = some u → Keeps s u := by
  grind [State.writeCollCfg, State.setReg_keeps, Keeps.mk0]

theorem State.writeOther_keeps {s t : State} (h : Keeps s t) (o : Nat) (w : W64) : ∀ u, t.writeOther o w = some u → Keeps s u := by
  unfold State.writeOther
  have ho := State.writeOchOther_keeps h ((o - 0xC0000) / 64) (o % 64) w
  generalize t.writeOchOther ((o - 0xC0000) / 64) (o % 64) w = x at ho ⊢
  obtain ⟨v, st⟩ := x
  intro u
  have hn : ∀ {p : Prop} [Decidable p] {a : State}, Keeps s a → (if p then some a else none) = some u → Keeps s u := by
    intro p _ a ha
    split
    · rintro ⟨⟩; exact ha
    · rintro ⟨⟩
  by_cases h0 : o = 0x60
  · rw [if_pos h0]; rintro ⟨⟩; exact State.setReg_keeps h _ _
  rw [if_neg h0]
  by_cases h1 : o = 0x100
  · rw [if_pos h1]; exact State.writeJobCfg_keeps h _ _
  rw [if_neg h1]
  by_cases h2 : o = 0x108
  · rw [if_pos h2]; split
    · rintro ⟨⟩
    · rintro ⟨⟩; exact State.setReg_keeps h _ _
  rw [if_neg h2]
  by_cases h3 : inRow o 0x1000 16 64 = true
  · rw [if_pos h3]; exact State.writeQCfg_keeps h _ _ _
  rw [if_neg h3]
  by_cases h4 : o = 0x40010
  · rw [if_pos h4]; exact State.writeTstCfg_keeps h _ _
  rw [if_neg h4]
  by_cases h5 : o = 0x40018
  · rw [if_pos h5]; exact State.writeScrubCfg_keeps h _ _
  rw [if_neg h5]
  by_cases h6 : o = 0x40030
  · rw [if_pos h6]; exact State.writeMrgClr_keeps h _ _
  rw [if_neg h6]
  by_cases h7 : o = 0x50108
  · rw [if_pos h7]; rintro ⟨⟩
  rw [if_neg h7]
  by_cases h8 : inRow o 0x50220 8 4 = true
  · rw [if_pos h8]; rintro ⟨⟩; exact State.setReg_keeps h _ _
  rw [if_neg h8]
  by_cases h9 : inRow o 0x80008 64 4 = true
  · rw [if_pos h9]; rintro ⟨⟩; exact State.setReg_keeps h _ _
  rw [if_neg h9]
  by_cases h10 : (decide (0xA0000 ≤ o) && isTrnRw (o - 0xA0000)) = true
  · rw [if_pos h10]; exact State.writeTrn_keeps h _ _ _
  rw [if_neg h10]
  by_cases h11 : o = 0xB0000
  · rw [if_pos h11]; exact State.writeCollCfg_keeps h _ _
  rw [if_neg h11]
  by_cases h12 : inRow o 0xB1008 16 256 = true
  · rw [if_pos h12]; exact State.writeGrpList_keeps h _ _ _
  rw [if_neg h12]
  by_cases hx : isOchOther o = true
  · rw [if_pos hx]; exact hn ho
  rw [if_neg hx]
  exact hn h

/-! ## Machine/Tick.lean -/

theorem State.tickTile_keeps {s t : State} (h : Keeps s t) (t_ : Nat) :
    Keeps s (State.tickTile t t_) := by
  grind [State.tickTile, State.updTile_keeps, Keeps.mk0]

theorem State.tickQueue_keeps {s t : State} (h : Keeps s t) (q : Nat) :
    Keeps s (State.tickQueue t q) := by
  grind [State.tickQueue, State.updCmd_keeps, Keeps.mk0]

theorem State.sampleWaits_keeps {s t : State} (h : Keeps s t)  :
    Keeps s (State.sampleWaits t) := by
  grind [State.sampleWaits, Keeps.mk0]

theorem State.runLate_keeps {s t : State} (h : Keeps s t) (i : Instr) :
    Keeps s (State.runLate t i) := by
  unfold State.runLate
  (repeat' split) <;> grind [State.putNow_keeps, State.getNow_keeps, State.stepReadNow_keeps, State.cmdNow_keeps, State.readNow_keeps, State.clearNow_keeps, Keeps.mk0]

theorem State.drainLate_keeps {s t : State} (h : Keeps s t)  :
    Keeps s (State.drainLate t) := by
  grind [State.drainLate, State.inTurn_keeps, State.runLate_keeps, Keeps.mk0, Keeps.foldl]

theorem State.tickHost_keeps {s t : State} (h : Keeps s t)  :
    Keeps s (State.tickHost t) := by
  grind [State.tickHost, State.updPort_keeps, State.pxu_keeps, Keeps.mk0]

theorem State.tickPort_keeps {s t : State} (h : Keeps s t) (p : PortId) :
    Keeps s (State.tickPort t p) := by
  grind [State.tickPort, State.updPort_keeps, Keeps.mk0]

theorem State.tick_keeps {s t : State} (h : Keeps s t) : Keeps s t.tick := by
  unfold State.tick
  split
  · exact h.mk0 ..
  extract_lets s1 b2 s2 s3 s4 s5
  have h1 : Keeps s s1 := State.sampleWaits_keeps h
  have h2 : Keeps s s2 := h1.mk0 ..
  have h3 : Keeps s s3 := State.stopFaulted_keeps (Keeps.foldl h2 (fun u a hu => State.tickTile_keeps hu a) _)
  have h4 : Keeps s s4 := Keeps.foldl h3 (fun u a hu => State.tickQueue_keeps hu a) _
  have h5 : Keeps s s5 := State.tickHost_keeps (State.fabFlush_keeps (State.floodLinks_keeps (State.collPoke_keeps
    (State.askAll_keeps (State.drainLate_keeps h4)))))
  exact Keeps.foldl h5 (fun u a hu => State.tickPort_keeps hu a) _

end Sys2Proof.Machine
end

