-- ==== Sys2Proof/Laws/Memory.lean ====
section
/-! SUPPORT. Laws of memory: every module address has a location of its own, a plain write puts its bytes where it says and no
others (09 R215, R216, R226, R231). -/
namespace Sys2Proof.Machine

/-! ## Consecutive bytes -/

theorem putBytes_get (bs : List Byte) (m : Tab Byte) (off k : Nat) :
    Tab.get 0 (putBytes m off bs) k = if off ≤ k ∧ k < off + bs.length then bs.getD (k - off) 0 else Tab.get 0 m k := by
  induction bs generalizing m off with
  | nil => rw [if_neg (by rw [List.length_nil]; omega)]; rfl
  | cons b bs ih =>
    rw [putBytes, ih]
    by_cases h : off = k
    · subst h
      rw [if_neg (by omega), Tab.get_put_same, if_pos (by simp)]
      simp
    · rw [Tab.get_put_other _ _ _ (Ne.symm h)]
      by_cases h2 : off + 1 ≤ k ∧ k < off + 1 + bs.length
      · rw [if_pos h2, if_pos (by simp; omega)]
        have : k - off = (k - (off + 1)) + 1 := by omega
        rw [this, List.getD_cons_succ]
      · rw [if_neg h2, if_neg (by simp; omega)]

/-! ## The address map -/

theorem nearUnmap_nearMap (il a : Nat) (h : a < nearSize) : nearUnmap il (nearMap il a).1 (nearMap il a).2 = a := by
  unfold nearSize at h
  unfold nearUnmap nearMap
  split <;> simp <;> omega

theorem nearMap_lt (il a : Nat) : (nearMap il a).2 < 2 ^ 31 ∧ (nearMap il a).1 < 256 := by
  unfold nearMap
  split <;> simp <;> omega

theorem nearMap_add (il a i : Nat) (h : a % 64 + i < 64) :
    (nearMap il (a + i)).1 = (nearMap il a).1 ∧ (nearMap il (a + i)).2 = (nearMap il a).2 + i := by
  unfold nearMap
  split <;> simp <;> omega

theorem nearMap_mod (il a : Nat) : (nearMap il a).2 % 64 = a % 64 := by
  unfold nearMap
  split <;> simp <;> omega

theorem outerUnmap_outerLoc (a : Nat) (h : inOuter a = true) : outerUnmap (outerLoc a) = a := by
  simp only [inOuter, Bool.and_eq_true, decide_eq_true_eq] at h
  have hx : a - outerBase < 2 ^ 41 := by unfold outerBase outerEnd at *; omega
  have key : ∀ x, x < 2 ^ 41 → ∀ c o, c = x / 2 ^ 10 % 16 → o = x / 2 ^ 14 * 1024 + x % 1024 →
      (outerBase + c * 2 ^ 37 + o - outerBase) % 2 ^ 37 = o ∧ (outerBase + c * 2 ^ 37 + o - outerBase) / 2 ^ 37 = c ∧
      outerBase + o / 1024 * 2 ^ 14 + c * 1024 + o % 1024 = outerBase + x := by
    intro x hx c o hc ho
    have h1 : o < 2 ^ 37 := by omega
    have e : outerBase + c * 2 ^ 37 + o - outerBase = c * 2 ^ 37 + o := by omega
    rw [e]
    exact ⟨by omega, by omega, by omega⟩
  obtain ⟨k1, k2, k3⟩ := key _ hx _ _ rfl rfl
  unfold outerUnmap outerLoc outerChannel outerMap
  dsimp only
  rw [k1, k2, k3]
  omega

theorem outerLoc_add (a i : Nat) (h : inOuter a = true) (hi : a % 64 + i < 64) :
    outerLoc (a + i) = outerLoc a + i ∧ outerLoc a % 64 = a % 64 := by
  simp only [inOuter, Bool.and_eq_true, decide_eq_true_eq] at h
  unfold outerLoc outerMap outerBase outerEnd at *
  dsimp only
  omega

theorem addrLoc_near (s : State) (a : Nat) (h : a < nearSize) :
    s.addrLoc a = some ((nearMap s.il a).1 * 2 ^ 31 + (nearMap s.il a).2) := by
  unfold State.addrLoc
  rw [if_pos (by simp [inNear, h])]
  rfl

theorem addrLoc_far (s : State) (a : Nat) (h : ¬ a < nearSize) :
    s.addrLoc a = if inOuter a then some (outerLoc a) else none := by
  unfold State.addrLoc
  rw [if_neg (by simp [inNear, h])]

/-- Two addresses name one location only if they are one. -/
theorem addrLoc_inj (s : State) {a b l : Nat} (ha : s.addrLoc a = some l) (hb : s.addrLoc b = some l) : a = b := by
  have key : ∀ x, s.addrLoc x = some l →
      (x < nearSize ∧ l = (nearMap s.il x).1 * 2 ^ 31 + (nearMap s.il x).2) ∨ (inOuter x = true ∧ outerBase ≤ l ∧ l = outerLoc x) := by
    intro x hx
    by_cases h : x < nearSize
    · rw [addrLoc_near s x h] at hx
      exact Or.inl ⟨h, (Option.some.inj hx).symm⟩
    · rw [addrLoc_far s x h] at hx
      split at hx
      · rename_i ho
        refine Or.inr ⟨ho, ?_, (Option.some.inj hx).symm⟩
        rw [← Option.some.inj hx]
        unfold outerLoc
        omega
      · cases hx
  have la := nearMap_lt s.il a
  have lb := nearMap_lt s.il b
  rcases key a ha with ⟨h1, e1⟩ | ⟨h1, h1', e1⟩ <;> rcases key b hb with ⟨h2, e2⟩ | ⟨h2, h2', e2⟩
  · have hv : (nearMap s.il a).1 = (nearMap s.il b).1 := by omega
    have ho : (nearMap s.il a).2 = (nearMap s.il b).2 := by omega
    rw [← nearUnmap_nearMap s.il a h1, ← nearUnmap_nearMap s.il b h2, hv, ho]
  · unfold outerBase at h2'; omega
  · unfold outerBase at h1'; omega
  · rw [← outerUnmap_outerLoc a h1, ← outerUnmap_outerLoc b h2, ← e1, ← e2]

/-- Inside a granule locations run with the addresses. -/
theorem addrLoc_add (s : State) {a l : Nat} (i : Nat) (ha : s.addrLoc a = some l) (h : a % 64 + i < 64) :
    s.addrLoc (a + i) = some (l + i) ∧ l % 64 = a % 64 := by
  by_cases hn : a < nearSize
  · have hn2 : a + i < nearSize := by unfold nearSize at *; omega
    rw [addrLoc_near s a hn] at ha
    rw [addrLoc_near s (a + i) hn2, (nearMap_add s.il a i h).1, (nearMap_add s.il a i h).2]
    have hm := nearMap_mod s.il a
    have e := Option.some.inj ha
    generalize (nearMap s.il a).1 = v at *
    generalize (nearMap s.il a).2 = o at *
    subst e
    exact ⟨congrArg some (by rw [Nat.add_assoc]), by omega⟩
  · have hn2 : ¬ a + i < nearSize := by omega
    rw [addrLoc_far s a hn] at ha
    rw [addrLoc_far s _ hn2]
    split at ha
    · rename_i ho
      have e := Option.some.inj ha
      have : inOuter (a + i) = true := by
        simp only [inOuter, Bool.and_eq_true, decide_eq_true_eq] at ho ⊢
        unfold outerBase outerEnd at *
        omega
      rw [if_pos this, ← e, (outerLoc_add a i ho h).1]
      exact ⟨rfl, (outerLoc_add a i ho h).2⟩
    · cases ha

/-! ## A plain write -/

/-- What a plain write leaves: everything but bytes, uncorrectable marks, rounds of contributions and the discard count. -/
def WriteFrame (s s' : State) : Prop :=
  s' = { s with
    mem := { s.mem with byte := s'.mem.byte, ue := s'.mem.ue, ordc := s'.mem.ordc, held := s'.mem.held }
    flt := { s.flt with cnt := s'.flt.cnt } }

theorem WriteFrame.refl (s : State) : WriteFrame s s := rfl
theorem WriteFrame.trans {a b c : State} (h : WriteFrame a b) (k : WriteFrame b c) : WriteFrame a c := by
  unfold WriteFrame at *
  rw [h] at k
  exact k

theorem WriteFrame.addrLoc {s s' : State} (h : WriteFrame s s') (a : Nat) : s'.addrLoc a = s.addrLoc a := by
  unfold WriteFrame at h
  rw [h]
  rfl

theorem State.clearRound_frame (s : State) (g : Nat) :
    WriteFrame s (s.clearRound g) ∧ (s.clearRound g).mem.byte = s.mem.byte ∧ (s.clearRound g).mem.ue = s.mem.ue := by
  unfold State.clearRound
  extract_lets n s1
  by_cases h : n = 0
  · rw [if_pos h]; exact ⟨rfl, rfl, rfl⟩
  · rw [if_neg h]; exact ⟨rfl, rfl, rfl⟩

/-- A piece inside one granule: refused only where it is partial and the granule uncorrectable. -/
theorem State.putPiece_ok (s : State) (l : Nat) (bs : List Byte) (h : s.mem.ue.contains (l / 64) = false) :
    (s.putPiece l bs).2 = true ∧ WriteFrame s (s.putPiece l bs).1 ∧
    (∀ k, (s.putPiece l bs).1.memByte k = if l ≤ k ∧ k < l + bs.length then bs.getD (k - l) 0 else s.memByte k) ∧
    (s.putPiece l bs).1.mem.ue = s.mem.ue.filter (fun g => g != l / 64) := by
  unfold State.putPiece
  have : (s.isUe l && decide (bs.length < 64)) = false := by unfold State.isUe; rw [h]; rfl
  rw [if_neg (by rw [this]; simp)]
  obtain ⟨hf, hb, hu⟩ := s.clearRound_frame (l / 64)
  refine ⟨rfl, hf.trans rfl, ?_, ?_⟩
  · intro k
    simp only [State.memByte]
    rw [putBytes_get, hb]
  · simp only [hu]

/-- A plain write to module addresses in one tier without an uncorrectable granule. -/
theorem State.putBytesAt_addr (fuel : Nat) (s : State) (a : Nat) (bs : List Byte) (hf : bs.length < fuel) (h : Whole s a bs.length) :
    (s.putBytesAt fuel (.addr a) bs).2 = none ∧ WriteFrame s (s.putBytesAt fuel (.addr a) bs).1 ∧
    Holds (s.putBytesAt fuel (.addr a) bs).1 a bs ∧ BytesOutside s (s.putBytesAt fuel (.addr a) bs).1 a bs.length := by
  induction fuel generalizing s a bs with
  | zero => omega
  | succ fuel ih =>
    cases bs with
    | nil =>
      refine ⟨rfl, rfl, ?_, fun l _ => rfl⟩
      intro i b hb
      simp at hb
    | cons b bs =>
      obtain ⟨ht, hu⟩ := h
      -- the first piece
      have hin : ∃ l, s.addrLoc a = some l := by
        by_cases hn : a < nearSize
        · exact ⟨_, addrLoc_near s a hn⟩
        · refine ⟨outerLoc a, ?_⟩
          rw [addrLoc_far s a hn, if_pos]
          simp only [inOneTier, inOuter, Bool.or_eq_true, Bool.and_eq_true, decide_eq_true_eq, List.length_cons] at ht ⊢
          omega
      obtain ⟨l, hl⟩ := hin
      have hl0 := (addrLoc_add s 0 hl (by omega)).2
      have hue : s.mem.ue.contains (l / 64) = false := hu 0 (by simp) l (by simpa using hl)
      obtain ⟨p1, p2, p3, p4⟩ := State.putPiece_ok s l ((b :: bs).take (pieceLen a)) hue
      have hlen : ((b :: bs).take (pieceLen a)).length ≤ pieceLen a := by rw [List.length_take]; omega
      have hstep : s.putBytesAt (fuel + 1) (.addr a) (b :: bs) =
          (((s.putPiece l ((b :: bs).take (pieceLen a))).1.putBytesAt fuel (.addr (a + pieceLen a)) ((b :: bs).drop (pieceLen a))).1,
           ((s.putPiece l ((b :: bs).take (pieceLen a))).1.putBytesAt fuel (.addr (a + pieceLen a)) ((b :: bs).drop (pieceLen a))).2) := by
        simp only [State.putBytesAt, State.putRefPiece, State.refLoc, State.refMirror, Ref.num, Ref.add, hl, p1, if_true]
      generalize hs1 : (s.putPiece l ((b :: bs).take (pieceLen a))).1 = s1 at *
      have hpl : 1 ≤ pieceLen a ∧ pieceLen a = 64 - a % 64 := ⟨by unfold pieceLen; omega, rfl⟩
      have hW : Whole s1 (a + pieceLen a) ((b :: bs).drop (pieceLen a)).length := by
        by_cases hz : ((b :: bs).drop (pieceLen a)).length = 0
        · rw [hz]
          refine ⟨?_, by intro i hi; omega⟩
          simp only [inOneTier, Bool.or_eq_true, Bool.and_eq_true, decide_eq_true_eq] at ht ⊢
          simp only [List.length_drop, List.length_cons] at hz ht
          unfold nearSize outerBase outerEnd at *
          omega
        · refine ⟨?_, ?_⟩
          · simp only [inOneTier, Bool.or_eq_true, Bool.and_eq_true, decide_eq_true_eq, List.length_drop] at ht hz ⊢
            omega
          · intro i hi k hk
            rw [p2.addrLoc] at hk
            have := hu (pieceLen a + i) (by simp only [List.length_drop] at hi; omega) k (by rw [← Nat.add_assoc]; exact hk)
            rw [p4]
            simp only [List.contains_eq_mem, decide_eq_false_iff_not, List.mem_filter] at this ⊢
            exact fun hm => this hm.1
      obtain ⟨q1, q2, q3, q4⟩ := ih s1 (a + pieceLen a) ((b :: bs).drop (pieceLen a)) (by simp; simp at hf; omega) hW
      rw [hstep]
      generalize hs2 : (s1.putBytesAt fuel (.addr (a + pieceLen a)) ((b :: bs).drop (pieceLen a))) = r at *
      have hloc : ∀ x, r.1.addrLoc x = s.addrLoc x := fun x => by rw [q2.addrLoc, p2.addrLoc]
      refine ⟨q1, p2.trans q2, ?_, ?_⟩
      · intro i c hc
        by_cases hi : i < pieceLen a
        · have hk := (addrLoc_add s i hl (by omega)).1
          refine ⟨l + i, by rw [hloc]; exact hk, ?_⟩
          have hil : i < (b :: bs).length := (List.getElem?_eq_some_iff.mp hc).1
          rw [q4 (l + i) (fun j _ e => by
            rw [p2.addrLoc] at e
            have := addrLoc_inj s hk e
            omega), p3]
          rw [if_pos ⟨by omega, by simp only [List.length_take]; omega⟩]
          have : l + i - l = i := by omega
          rw [this, List.getD_eq_getElem?_getD, List.getElem?_take_of_lt hi, hc]
          rfl
        · have hc2 : ((b :: bs).drop (pieceLen a))[i - pieceLen a]? = some c := by
            rw [List.getElem?_drop]
            have : pieceLen a + (i - pieceLen a) = i := by omega
            rw [this]
            exact hc
          obtain ⟨k, hk, hv⟩ := q3 _ _ hc2
          refine ⟨k, ?_, hv⟩
          have : a + pieceLen a + (i - pieceLen a) = a + i := by omega
          rw [this] at hk
          exact hk
      · intro k hk
        rw [q4 k (fun j hj e => by
          rw [p2.addrLoc, Nat.add_assoc] at e
          exact hk (pieceLen a + j) (by simp only [List.length_drop] at hj; omega) e), p3, if_neg]
        rintro ⟨h1, h2⟩
        simp only [List.length_take] at h2
        refine hk (k - l) (by omega) ?_
        rw [(addrLoc_add s (k - l) hl (by omega)).1]
        congr 1
        omega

/-- The write itself. -/
theorem State.writeRef_addr (s : State) (a : Nat) (bs : List Byte) (h : Whole s a bs.length) :
    (s.writeRef (.addr a) bs).2 = none ∧ WriteFrame s (s.writeRef (.addr a) bs).1 ∧
    Holds (s.writeRef (.addr a) bs).1 a bs ∧ BytesOutside s (s.writeRef (.addr a) bs).1 a bs.length :=
  State.putBytesAt_addr _ s a bs (Nat.lt_succ_self _) h

end Sys2Proof.Machine
end

