-- ==== Sys2Proof/Tests/Slice0.lean ====
section
/-! SUPPORT. Tests: ill-formed operands, values from the spec, and a concrete state for the hypotheses of every statement. -/
namespace Sys2Proof.Tests
open Sys2Proof.Machine

set_option Elab.async false

/-! ## Well-formed operands -/

def pkt (dw0 : W32) (pl : List Byte) : Packet := { dw0 := dw0, dw1 := 0, dw2 := 0, dw3 := 0, payload := pl }

/-- A packet of LEN 1 carries 32 bytes. -/
theorem test_packet_without_its_payload_is_ill_formed : (Instr.cmd (pkt 0x1000 [])).wf = false := by decide
theorem test_packet_with_its_payload_is_well_formed : (Instr.cmd (pkt 0x1000 (List.replicate 32 0))).wf = true := by decide
theorem test_short_flit_is_ill_formed : (Instr.dataFlitReceive .pxu [0]).wf = false := by decide
theorem test_short_ctrl_flit_is_ill_formed : (Instr.ctrlFlitReceive .pxd []).wf = false := by decide
theorem test_granule_between_the_tiers_is_ill_formed : (Instr.patrolScrubVisit (0x9000000000 / 64) 0).wf = false := by decide
theorem test_found_granule_outside_memory_is_ill_formed :
    (Instr.dataGet (pkt 0 []) { corr := [], ue := [0x30000000000 / 64], res := [] }).wf = false := by decide
theorem test_image_twice_is_ill_formed : (Instr.selftest 0 0 [.ochre, .ochre] []).wf = false := by decide
theorem test_rank_above_4095_is_ill_formed : (Instr.collPieceReceive 0 0 0 .contrib 4096 0 0 0 [] noFind 0 0).wf = false := by decide
theorem test_short_fabric_packet_is_ill_formed : (Instr.fabSig 0 true (List.replicate 23 0)).wf = false := by decide
theorem test_short_mirror_header_is_ill_formed : (Instr.takeoverRestoreComplete [] [] [] false [] []).wf = false := by decide

/-! ## States for the hypotheses: a running tile -/

/-- An instruction word: class, Full, opcode and the bits below. -/
def iw (c f o low : Nat) : W64 := BitVec.ofNat 64 (c * 2 ^ 60 + f * 2 ^ 59 + o * 2 ^ 52 + low)

/-- The LAUNCH 0 of queue 0, on tile 0, its image of 64 KiB at address 0. -/
def lau : Launch :=
  { q := 0, seq := 0, cls := 0, tiles := [0], prog := 0, ilen := 65536, args := 0, dbg := true, lock := none, ver := 0, started := true }

/-- Tile 0 as it runs that LAUNCH: s1 = 64, s2 = 1. -/
def til : Tile := { launch := some (0, 0), core := .run, s := [(1, 64), (2, 1)], icache := [(0, [0])] }

/-- A module that runs the LAUNCH on tile 0 as x. -/
def onTile (x : Tile) : State := { tl := { tile := [(0, x)], launches := [lau] } }

/-- RD = s3, RA = s1, RB = s2. -/
def r312 : Nat := 3 * 2 ^ 46 + 1 * 2 ^ 40 + 2 * 2 ^ 34

theorem test_witness_ScalarResult :
    (∀ o ∈ ([1, 2, 3, 4, 5, 6, 7, 8, 9, 0x0A, 0x0B, 0x0C, 0x0D, 0x0E, 0x0F, 0x10, 0x11] : List Nat),
      Issues (onTile til) 0 1 o (iw 1 0 o r312) lau ∧ Issues (onTile til) 0 1 o (iw 1 1 o (r312 + 2 ^ 32 + 2 ^ 27)) lau) ∧
    (∀ o ∈ ([0x20, 0x21, 0x22, 0x23, 0x24, 0x25, 0x26, 0x27, 0x28, 0x29] : List Nat),
      Issues (onTile til) 0 1 o (iw 1 0 o (3 * 2 ^ 46 + (if o = 0x28 then 0 else 2 ^ 40) + 63)) lau ∧
      fld (iw 1 0 o (3 * 2 ^ 46 + 2 ^ 40 + 63)) 0 26 ≤ 63) := by
  unfold Issues; decide +kernel


theorem test_witness_ScalarMemoryResult :
    (∀ p ∈ ([(0x30, 1), (0x31, 2), (0x32, 4), (0x33, 8), (0x34, 1), (0x35, 2), (0x36, 4), (0x38, 1), (0x39, 2), (0x3A, 4),
        (0x3B, 8)] : List (Nat × Nat)),
      ∀ m ∈ [0, 0x200000 - p.2 - 64],
        let w := iw 1 0 p.1 ((if p.1 < 0x38 then 3 * 2 ^ 46 else 0) + 2 ^ 40 + (if p.1 < 0x38 then 0 else 2 * 2 ^ 34) + m)
        let a := ((til.rd (W.ra w)) + W.imm w).toNat
        Issues (onTile til) 0 1 p.1 w lau ∧ a = 64 + m ∧ a % p.2 = 0 ∧ a + p.2 ≤ 0x200000) := by
  unfold Issues; decide +kernel

theorem test_witness_BranchResult :
    (∀ o ∈ ([0x40, 0x41, 0x42, 0x43, 0x44, 0x45] : List Nat), ∀ rb ∈ [1, 2],
      Issues (onTile til) 0 1 o (iw 1 0 o (2 ^ 40 + rb * 2 ^ 34 + 8191)) lau) ∧
    (let t : W64 := til.pc + BitVec.ofInt 64 (8 * sfld (iw 1 0 0x40 8191) 0 26)
     t.toNat % 8 = 0 ∧ (t - BitVec.ofNat 64 lau.prog).toNat = 65528) ∧
    Issues (onTile til) 0 1 0x46 (iw 1 0 0x46 (3 * 2 ^ 46 + 1)) lau ∧ Issues (onTile til) 0 1 0x47 (iw 1 0 0x47 (2 ^ 40 + 1)) lau ∧
    (let t : W64 := til.rd 1 + BitVec.ofInt 64 8
     t.toNat % 8 = 0 ∧ (t - BitVec.ofNat 64 lau.prog).toNat < lau.ilen) ∧
    (∀ ra ∈ [1, 2], Issues (onTile til) 0 1 0x48 (iw 1 0 0x48 (ra * 2 ^ 40 + 1)) lau) ∧ til.rd 1 ≠ 1 ∧ til.rd 2 = 1 := by
  unfold Issues; decide +kernel

theorem test_witness_ControlInstructionResult :
    (∀ p ∈ ([(0x00, 0), (0x50, 3 * 2 ^ 46 + 3), (0x51, 31 + 15 * 32), (0x52, 3 * 2 ^ 46 + 31), (0x53, 3), (0x54, 0), (0x55, 0)] : List (Nat × Nat)),
      ∀ x ∈ [til, { til with e := [(3, 1)] }], Issues (onTile x) 0 1 p.1 (iw 1 0 p.1 p.2) lau) ∧
    fld (iw 1 0 0x50 3) 0 26 ≤ 3 ∧ { til with e := [(3, 1)] }.ev 3 ≠ 0 ∧ til.ev 3 = 0 ∧
    (let x : Tile := { til with core := .ewait 3, e := [(3, 1)] }
     ((onTile x).tile 0).core = .ewait 3 ∧ ((onTile x).tile 0).ev 3 ≠ 0) := by
  unfold Issues; decide +kernel

theorem test_witness_PredicationAndScalarFaults :
    (∀ o ∈ ([0, 1, 2, 0x20, 0x24, 0x28, 0x30, 0x33, 0x38, 0x3B, 0x40, 0x46, 0x48, 0x50, 0x53, 0x55] : List Nat),
      (onTile til).gate 0 1 o (iw 1 1 o (2 ^ 32 + 5 * 2 ^ 26)) = .go lau ∧ predicate til (iw 1 1 o (2 ^ 32 + 5 * 2 ^ 26)) = some false) ∧
    (0 ∈ lau.tiles ∧ ∀ p ∈ ([(0x24, 64), (0x25, 64), (0x26, 64), (0x50, 4), (0x48, 0)] : List (Nat × Nat)),
      Issues (onTile til) 0 1 p.1 (iw 1 0 p.1 p.2) lau ∧ (p.1 ≤ 0x26 → 63 < fld (iw 1 0 p.1 p.2) 0 26) ∧ W.ra (iw 1 0 p.1 p.2) = 0 ∧
        (p.1 = 0x50 → 3 < fld (iw 1 0 p.1 p.2) 0 26)) ∧
    (∀ p ∈ ([(1, 3), (0x3A, 3), (0x54, 1)] : List (Nat × Nat)),
      (onTile til).gate 0 1 p.1 (iw 1 1 p.1 (p.2 * 2 ^ 32)) = .go lau ∧ predicate til (iw 1 1 p.1 (p.2 * 2 ^ 32)) = none) ∧
    (∀ p ∈ ([(0x31, 2, 1), (0x33, 8, 4), (0x30, 1, 0x200000 - 64), (0x3B, 8, 0x200000 - 64), (0x38, 1, 0x200000 - 64)] : List (Nat × Nat × Nat)),
      Issues (onTile til) 0 1 p.1 (iw 1 0 p.1 (2 ^ 40 + p.2.2)) lau ∧
        let a := (til.rd 1 + W.imm (iw 1 0 p.1 (2 ^ 40 + p.2.2))).toNat
        a % p.2.1 ≠ 0 ∨ 0x200000 < a + p.2.1) ∧
    (lau.fault = none ∧ lau.faultAt = none ∧ ∀ a ∈ [(0, 5), (0, 0), (7, 5)],
      let l := { lau with fault := some (Cause.addr.status, []), faultAt := some a }
      let s : State := { tl := { tile := [(0, til)], launches := [l] } }
      s.gate 0 1 0x24 (iw 1 0 0x24 64) = .go l ∧ (a.1 = s.now ∧ 0 < a.2 ↔ a = (0, 5)) ∧ l ∈ s.tl.launches ∧ l.fault.isSome = true ∧
        0 ∈ l.tiles ∧ (s.tile 0).launch = some (l.q, l.seq)) := by
  unfold Issues; decide +kernel

theorem test_witness_DescriptorInstructionResult :
    (∀ p ∈ ([(1, 15 + 2 ^ 4), (2, 15 + 2 ^ 4), (3, 15 + 3 * 2 ^ 4 + 2 ^ 6), (4, 15 + 3 * 2 ^ 4 + 2 ^ 6)] : List (Nat × Nat)),
      (onTile til).gate 0 2 p.1 (iw 2 0 p.1 p.2) = .go lau ∧ fld (iw 2 0 p.1 p.2) 0 4 = 15) ∧ til.descBusy 15 = false ∧
    (til.rd 1).toNat % 32 = 0 ∧ (til.rd 1).toNat + 32 ≤ 0x200000 := by decide +kernel

theorem test_witness_EngineAndWaitEnter :
    (∀ p ∈ ([(3, [1, 2, 3, 4, 5, 6, 7, 8, 9, 0x0A]), (4, [1, 2, 3, 4, 5, 6, 7, 8, 9]), (7, [1, 2]),
        (5, [1, 2, 3, 4, 5, 6, 7, 8, 9, 0x0A, 0x10, 0x11, 0x12, 0x18, 0x19, 0x1F]),
        (6, [1, 2, 3, 4, 5, 6, 7, 8, 9, 0x10, 0x20])] : List (Nat × List Nat)),
      ∀ o ∈ p.2, (onTile til).gate 0 p.1 o (iw p.1 0 o 0) = .go lau) ∧
    ∀ e ∈ [Eng.sync, .matrix, .vector, .madder], (til.queue e).length < 4 := by decide +kernel

/-- Descriptor 0 counts 2 × 3 × 4 runs and stands at the last. -/
theorem test_witness_TransferTakesItsRuns :
    let d : BitVec 256 := BitVec.ofNat 256 (2 * 2 ^ 148 + 3 * 2 ^ 160 + 4 * 2 ^ 172 + 23 * 2 ^ 209)
    let x : Tile := { til with d := [(0, d)] }
    (∀ o ∈ [0x10, 0x11, 0x12], (onTile x).gate 0 2 o (iw 2 0 o 0) = .go lau ∧
      (onTile x).gate 0 2 o (iw 2 1 o (2 * 2 ^ 10 + (if o = 0x10 then 0 else 2 ^ 22))) = .go lau) ∧
    x.desc 0 = d ∧ (∀ e ∈ [rdStream (iw 2 0 0x10 0), wrStream (iw 2 0 0x11 0)], (x.queue e).length < 4) ∧
    fld (iw 2 1 0x11 (2 ^ 22)) 22 2 ≤ 1 ∧ fld d 209 36 < fld d 148 12 * fld d 160 12 * fld d 172 12 := by decide +kernel

/-- An engine instruction in a tile's queue or running: s1 and s2 as captured. -/
def ei (w : W64) : EInstr := { w := w, pc := 0, sr := [(1, 64), (2, 1)] }

/-- Tile 0 with the instruction at the head of an engine's queue and event 1 at 1. -/
def queued (e : Eng) (w : W64) : Tile := { til with q := [(e.idx, [ei w])], e := [(1, 1)] }

theorem test_witness_EngineInstructionStarts :
    halvesRead (ei (iw 5 0 0x10 0)) = [0] ∧ halvesRead (ei (iw 5 0 0 0)) = [] ∧ halvesWritten (ei (iw 4 0 1 0)) = [0] ∧
    ∀ p ∈ ([(Eng.vector, iw 5 0 1 (33 * 2 ^ 28 + 2 ^ 18)), (.vector, iw 5 0 0x1F (33 * 2 ^ 28 + 2 ^ 6 + 1)),
        (.matrix, iw 4 0 1 (33 * 2 ^ 28 + 2 ^ 13)), (.madder, iw 6 0 1 (33 * 2 ^ 28 + 2 ^ 18)), (.vector, iw 7 0 2 (33 * 2 ^ 28))] :
        List (Eng × W64)),
      (queued p.1 p.2).queue p.1 = [ei p.2] ∧ (onTile (queued p.1 p.2)).tileHeld 0 = false ∧ (queued p.1 p.2).core = .run ∧
      W.waits p.2 = [1] ∧ (queued p.1 p.2).ev 1 = 1 ∧ startWaits (queued p.1 p.2) p.1 (ei p.2) = false ∧
      startCheck (onTile (queued p.1 p.2)) 0 (queued p.1 p.2) (ei p.2) = none ∧
      (onTile (queued p.1 p.2)).checker 0 0 = some 16 ∧ (onTile (queued p.1 p.2)).checker 0 1 = none ∧
      (onTile (queued p.1 p.2)).unitStart 0 (ei p.2) = (W.cls p.2 != 7) ∧ (queued p.1 p.2).launch = some (0, 0) := by decide +kernel

/-- The LAUNCH of the test tile has met no fault. -/
theorem lau_unfaulted {s : State} (h : s.launchOf 0 = some lau) : ∀ l, s.launchOf 0 = some l → l.fault = none := by
  intro l hl
  rw [h] at hl
  cases hl
  rfl

/-- Tile 0 with an instruction running in an engine. -/
def running (e : Eng) (i : EInstr) : Tile := { til with run := [(e.idx, [i])] }

/-- The instruction's registers: s1 and s2 hold offset 64, s3 holds N = 4. -/
def vi (o low : Nat) : EInstr := { w := iw 5 0 o (2 ^ 6 + 2 * 2 ^ 12 + 3 * 2 ^ 18 + low), pc := 0, sr := [(1, 64), (2, 128), (3, 4)] }

theorem test_witness_VectorResult :
    (∀ o ∈ [1, 2, 3, 4, 5, 6, 7, 8], EndsInOrder (onTile (running .vector (vi o 0))) 0 .vector (vi o 0) ∧
      W.cls (vi o 0).w = 5 ∧ W.op (vi o 0).w = o ∧ vOfmt (vi o 0) < 4 ∧ (fmtOf (vOfmt (vi o 0))).isSome = true ∧ vN (vi o 0) = 4) ∧
    (∀ o ∈ [9, 0x0A], EndsInOrder (onTile (running .vector (vi o 7))) 0 .vector (vi o 7) ∧
      W.cls (vi o 7).w = 5 ∧ W.op (vi o 7).w = o ∧ fld (vi o 7).w 0 3 = 7) := by
  have h : ∀ o ∈ [1, 2, 3, 4, 5, 6, 7, 8, 9, 0x0A], ∀ n ∈ [0, 7], (onTile (running .vector (vi o n))).launchOf 0 = some lau ∧
      ((((onTile (running .vector (vi o n))).tile 0).running .vector).head? = some (vi o n) ∧
      (onTile (running .vector (vi o n))).tileHeld 0 = false ∧ (onTile (running .vector (vi o n))).plaus 0 = false ∧
      dupEvents (vi o n).w = false ∧
      ∀ k ∈ W.sigs (vi o n).w, ((onTile (running .vector (vi o n))).tile 0).ev k ≠ 15) := by decide +kernel
  have e : ∀ o ∈ [1, 2, 3, 4, 5, 6, 7, 8, 9, 0x0A], ∀ n ∈ [0, 7], EndsInOrder (onTile (running .vector (vi o n))) 0 .vector (vi o n) := by
    intro o ho n hn
    obtain ⟨l, a, b, c, d, f⟩ := h o ho n hn
    exact ⟨a, b, c, d, f, lau_unfaulted l⟩
  exact ⟨fun o ho => ⟨e o (by revert ho; revert o; decide) 0 (by decide), by revert ho; revert o; decide +kernel⟩,
    fun o ho => ⟨e o (by revert ho; revert o; decide) 7 (by decide), by revert ho; revert o; decide +kernel⟩⟩

/-- A product of K = 64 (s1), with the last of the entries. -/
theorem test_witness_MatrixProductResult :
    ∀ o ∈ [1, 2, 3, 5, 6], EndsInOrder (onTile (running .matrix (ei (iw 4 0 o (2 ^ 13))))) 0 .matrix (ei (iw 4 0 o (2 ^ 13))) ∧
      W.cls (ei (iw 4 0 o (2 ^ 13))).w = 4 ∧ W.op (ei (iw 4 0 o (2 ^ 13))).w = o ∧ (mmLay (ei (iw 4 0 o (2 ^ 13)))).k = 64 ∧
      8191 < 8192 := by
  have h : ∀ o ∈ [1, 2, 3, 5, 6], (onTile (running .matrix (ei (iw 4 0 o (2 ^ 13))))).launchOf 0 = some lau ∧
      ((((onTile (running .matrix (ei (iw 4 0 o (2 ^ 13))))).tile 0).running .matrix).head? = some (ei (iw 4 0 o (2 ^ 13))) ∧
      (onTile (running .matrix (ei (iw 4 0 o (2 ^ 13))))).tileHeld 0 = false ∧
      (onTile (running .matrix (ei (iw 4 0 o (2 ^ 13))))).plaus 0 = false ∧ dupEvents (iw 4 0 o (2 ^ 13)) = false ∧
      ∀ k ∈ W.sigs (iw 4 0 o (2 ^ 13)), ((onTile (running .matrix (ei (iw 4 0 o (2 ^ 13))))).tile 0).ev k ≠ 15) := by decide +kernel
  have g : ∀ o ∈ [1, 2, 3, 5, 6], W.cls (iw 4 0 o (2 ^ 13)) = 4 ∧ W.op (iw 4 0 o (2 ^ 13)) = o ∧
      (mmLay (ei (iw 4 0 o (2 ^ 13)))).k = 64 := by decide +kernel
  intro o ho
  obtain ⟨l, a, b, c, d, f⟩ := h o ho
  exact ⟨⟨a, b, c, d, f, lau_unfaulted l⟩, (g o ho).1, (g o ho).2.1, (g o ho).2.2, by decide⟩

/-- A command of queue q's history: its words as one number, and where it stands. -/
def cm (n : Nat) (ph : CmdPhase) : Cmd := { rawCmd (toBytesLE 64 n) with phase := ph }

/-- The state with one command, number 0, in queue 0. -/
def withCmd (s : State) (c : Cmd) : State := s.setQueue 0 { cmds := [c], submit := 1 }

theorem test_witness_LineFillAndBlockEndResult :
    ((onTile { til with imiss := some 5 }).tile 0).imiss = some 5 ∧
    (((onTile til).tile 0).imiss = none ∧ (onTile til).launchOf 0 = some lau ∧ (til.pc - BitVec.ofNat 64 lau.prog).toNat / 128 = 0 ∧
      til.core = .run ∧ til.cached 0 = true) ∧
    (let s := onTile { til with core := .drain false }
     s.launchOf 0 = some lau ∧ (s.tile 0).core = .drain false ∧ (s.tile 0).drained = true ∧ s.tileHeld 0 = false ∧
       ∀ f ∈ lau.fires, f.1 = 0 → f.2.1 ≠ (s.tile 0).block) := by decide +kernel

/-- Above the watchdog's bound, and with a firing on record for the block. -/
def watched (fires : List (Nat × W32 × Nat × StepKind)) : State :=
  { tl := { tile := [(0, { til with active := 48001 })], launches := [{ lau with fires := fires }] } }

theorem test_witness_TileHaltAndWatchdogResult :
    (let s := withCmd (onTile { til with core := .drain true }) (cm 1 .running)
     s.launchOf 0 = some lau ∧ (s.tile 0).core = .drain true ∧ (s.tile 0).drained = true ∧ s.tileHeld 0 = false ∧
       lau.fires = [] ∧ s.awaiter 0 = none ∧ lau.awaiting = [] ∧ s.findCmd 0 0 = some (cm 1 .running) ∧ Cmd.slot? (cm 1 .running) = none ∧
       (∀ u ∈ lau.tiles, u = 0 ∨ u ∈ lau.halted)) ∧
    ((onTile til).launchOf 0 = some lau ∧ (onTile til).tileHeld 0 = false ∧ ((onTile til).tile 0).active.toNat ≤ 48000) ∧
    (let s := watched []
     s.launchOf 0 = some lau ∧ s.tileHeld 0 = false ∧ 48000 < (s.tile 0).active.toNat ∧ (s.tile 0).core = .run ∧
       (s.cluster 0).levels[s.tilePos 0]? = some 0 ∧ (s.cluster 0).fsteps < 4 ∧ s.tl.moves = []) ∧
    (∀ k ∈ [StepKind.clock, .volt, .toSpare, .toMordant],
      let s := { watched [(0, 1, 3, .clock), (0, 0, 2, k)] with flt := { cluster := [(0, { roles := (List.range 16).map Role.work ++ [Role.mordant, .retired] })] } }
      let f : List (Nat × W32 × Nat × StepKind) := [(0, 1, 3, .clock)] ++ (0, (s.tile 0).block, 2, k) :: []
      s.launchOf 0 = some { lau with fires := f } ∧ s.tileHeld 0 = false ∧ 48000 < (s.tile 0).active.toNat ∧ (s.tile 0).core = .run ∧
        (∀ g ∈ [((0, 1, 3, .clock) : Nat × W32 × Nat × StepKind)], ¬ (g.1 = 0 ∧ g.2.1 = (s.tile 0).block)) ∧
        (s.cluster 0).levels.length = 18 ∧ (s.cluster 0).roles.length = 18 ∧ (s.cluster 0).role 17 = .retired) := by
  decide +kernel

/-- Tile 0 stalled in a sync wait: swait or another on s1 and s2. -/
def waiting (i : EInstr) : Tile := { til with core := .syncWait, run := [(Eng.idx .sync, [i])] }
def sy (o : Nat) : EInstr := { w := iw 3 0 o (2 * 2 ^ 6), pc := 0, sr := [(2, 1)] }
/-- A cqacq that may wait for 20 ms. -/
def long : EInstr := { sy 4 with n := 2000000 }

theorem test_witness_SyncResult :
    (let s : State := { sync := { sigs := [{ src := none, obj := 4, add := 1 }, { src := none, obj := 5, add := 2 }, { src := none, obj := 5, add := 3 }] } }
     s.sync.sigs = [{ src := none, obj := 4, add := 1 }] ++ { src := none, obj := 5, add := 2 } :: [{ src := none, obj := 5, add := 3 }] ∧
       s.homeStopped 5 = false ∧ ({ s with flt := { volt := [(2, some 0)] } } : State).homeStopped 5 = true) ∧
    (∀ o ∈ [2, 4, 5, 8],
      ((onTile (waiting (sy o))).tile 0).running .sync = [sy o] ∧ W.op (sy o).w = o ∧ (sy o).metAt = none ∧ dupEvents (sy o).w = false ∧
      W.sigs (sy o).w = [] ∧ (onTile (waiting (sy o))).launchOf 0 = some lau ∧ lau.fault = none) ∧
    (let s := onTile (waiting (sy 2)); ¬ 0 ≤ (s.obj 0 - 1).toInt ∧ (sy 2).n ≤ s.now) ∧
    (let s := { onTile (waiting (sy 2)) with sync := { obj := [(0, 1)] } }; 0 ≤ (s.obj 0 - 1).toInt) ∧
    (let s := onTile (waiting (sy 4)); (s.obj 0 - s.obj 1).toNat < 1) ∧
    (let s := { onTile (waiting long) with sync := { obj := [(0, 1)] }, now := 1000000 }
     ¬ (s.obj 0 - s.obj 1).toNat < 1 ∧ long.stalled = false ∧ SyncI.bound long < s.now ∧ SyncI.bound long < (long.n + 99) / 100 * 100 ∧
       long.metAt = none ∧ (s.tile 0).running .sync = [long] ∧
       ∀ m ∈ ([(10, false), (200000, true), (2000100, true)] : List (Nat × Bool)),
         SyncI.bound { long with metAt := some m.1 } < m.1 ↔ m.2 = true) ∧
    (let s : State := { now := 1000000, tl := { tile := [(0, {})], saved := [{ tile := 0, ctx := waiting long }] } }
     s.tl.saved = [] ++ { tile := 0, ctx := waiting long } :: [] ∧ (s.tile 0).running .sync = [] ∧ (waiting long).running .sync = [long] ∧
       (waiting long).launch = some (0, 0) ∧ W.op long.w = 4) ∧
    (∀ o ∈ [1, 3, 6],
      let x := queued .sync (iw 3 1 o (2 * 2 ^ 18 + 2 * 2 ^ 6))
      let s := { onTile x with host := { ident := some 0 } }
      x.queue .sync = [ei (iw 3 1 o (2 * 2 ^ 18 + 2 * 2 ^ 6))] ∧ x.running .sync = [] ∧ W.full (iw 3 1 o (2 * 2 ^ 18 + 2 * 2 ^ 6)) = true ∧
        fld ((ei (iw 3 1 o (2 * 2 ^ 18 + 2 * 2 ^ 6))).reg 18) 0 12 = 1 ∧ s.holderOf 1 = 1 ∧ s.isFailed 1 = false ∧ s.host.ident ≠ some 1 ∧
        s.tileHeld 0 = false ∧ W.waits (iw 3 1 o (2 * 2 ^ 18 + 2 * 2 ^ 6)) = [] ∧ startWaits x .sync (ei (iw 3 1 o (2 * 2 ^ 18 + 2 * 2 ^ 6))) = false ∧
        startCheck s 0 x (ei (iw 3 1 o (2 * 2 ^ 18 + 2 * 2 ^ 6))) = none) ∧
    (let s := { onTile (waiting (sy 5)) with sync := { obj := [(0, 1)] } }; s.obj 0 ≠ s.obj 1) ∧
    (let s := { onTile (waiting (sy 8)) with stb := { step := 1, phase0 := 1 } }; 1 = s.stb.step ∧ (0 : W32).toNat ≤ s.phase.toNat) ∧
    (∀ o ∈ [1, 3, 6], (queued .sync (iw 3 0 o 0)).queue .sync = [ei (iw 3 0 o 0)] ∧ (queued .sync (iw 3 0 o 0)).running .sync = [] ∧
      W.cls (iw 3 0 o 0) = 3 ∧ W.op (iw 3 0 o 0) = o ∧ W.full (iw 3 0 o 0) = false ∧ (onTile (queued .sync (iw 3 0 o 0))).tileHeld 0 = false ∧
      W.waits (iw 3 0 o 0) = [] ∧ startWaits (queued .sync (iw 3 0 o 0)) .sync (ei (iw 3 0 o 0)) = false ∧
      startCheck (onTile (queued .sync (iw 3 0 o 0))) 0 (queued .sync (iw 3 0 o 0)) (ei (iw 3 0 o 0)) = none) := by decide +kernel

/-- A LAUNCH of one tile, the first: START 0, COUNT 1. -/
def launchCmd (ph : CmdPhase) : Cmd := cm (1 + 2 ^ 456) ph

theorem test_witness_LaunchStarts :
    (let s := withCmd {} (launchCmd .running)
     s.findCmd 0 0 = some (launchCmd .running) ∧ Cmd.opcode (launchCmd .running) = 1 ∧ s.findLaunch 0 0 = none ∧ s.dpm = false) ∧
    (let s := withCmd { tl := { launches := [{ lau with tiles := [], started := false }] } } (launchCmd .running)
     s.findCmd 0 0 = some (launchCmd .running) ∧ s.findLaunch 0 0 = some { lau with tiles := [], started := false } ∧
       s.claim 0 (launchCmd .running) = some [0] ∧ [0].Nodup ∧ ∀ u ∈ [0], (s.tile u).hasContext = false) := by decide +kernel

/-- A LIVE LAUNCH of queue 1 that waits for tile 0. -/
def liv : Launch := { lau with q := 1, tiles := [0, 1], awaiting := [0, 1], started := false }
def moving (m : List Move) (v : List Saved) (x : Tile) : State :=
  { tl := { tile := [(0, x)], launches := [lau, liv], moves := m, saved := v } }

/-- Cluster 0 waits to test position 0. -/
def tested : FltSt := { cluster := [(0, { win := some { pos := 0, openedAt := 0, cmd := none, cleared := false } })] }
/-- Tile 0 and the Mordant disagree, the spare is retired, and one STEP LAUNCH has every tile, tile 0 of them at a yield point. -/
def unequal : Arb := { tile := 0, pos := 0, checkerPos := 16, sigTile := 1, sigChecker := 2, q := 0, seq := 0 }
def full : Launch := { lau with cls := 1, tiles := List.range 256 }
def crowded : State :=
  { tl := { tile := [(0, { til with atBlk := true })], launches := [full] },
    flt := { arbs := [unequal], cluster := [(0, { roles := (List.range 16).map Role.work ++ [.mordant, .retired] })] } }

theorem test_witness_ContextSaveAndRestore :
    (let s := moving [] [] { til with atBlk := true }
     s.awaiter 0 = some liv ∧ s.tl.moves = [] ∧ (s.tile 0).hasContext = true ∧ (s.tile 0).atYield = true ∧ s.tileHeld 0 = false ∧
       s.testWaits 0 = false ∧ (moving [] [] til).awaiter 0 = some liv ∧ ((moving [] [] til).tile 0).atYield = false) ∧
    (({ moving [] [] til with flt := tested } : State).awaiter 0 = some liv ∧ ({ moving [] [] til with flt := tested } : State).testWaits 0 = true) ∧
    (crowded.awaiter 0 = none ∧ crowded.flt.arbs = [unequal] ∧ crowded.launchOf 0 = some full ∧ full.cls ≠ 0 ∧ crowded.mayGive 0 = true ∧
      crowded.tl.saved = [] ∧ crowded.pickThird 0 = .waits) ∧
    (let s := moving [{ tile := 0, kind := .save 1 0 }] [] til
     (s.cluster 0).relockDue = false ∧ s.findLaunch 1 0 = some liv ∧ 1 ∈ liv.awaiting ∧ 1 ≠ 0) ∧
    (let s := moving [{ tile := 0, kind := .restore }] [{ tile := 1, ctx := {} }, { tile := 0, ctx := til }] {}
     (s.cluster 0).relockDue = false ∧ s.tl.saved = [{ tile := 1, ctx := {} }] ++ { tile := 0, ctx := til } :: [] ∧
       (∀ w ∈ [({ tile := 1, ctx := {} } : Saved)], w.tile ≠ 0) ∧ til.launch = some (lau.q, lau.seq) ∧ s.findLaunch 0 0 = some lau ∧
       lau.fault = none) ∧
    (let s := moving [{ tile := 0, kind := .toPos 17 .retired }] [] til
     (s.cluster 0).relockDue = false ∧ 17 < 18 ∧ (s.cluster 0).roles.length = 18 ∧ s.tilePos 0 = 0 ∧ Role.retired ≠ .testing ∧
       Role.retired ≠ .work 0 ∧ (s.tile 0).core = .run ∧ s.launchOf 0 = some lau) := by decide +kernel

/-- Queue 1 is a STEP queue whose head is a LAUNCH of tile 0, and SWITCH is 1. -/
def switching : State :=
  { tl := { tile := [(0, { waiting (sy 2) with yieldAt := some 0 })], launches := [{ lau with cls := 1 }] }, now := 100000
    regs := [(0x1010, 0xC5), (0xA0000, 2 ^ 57)]
    host := { queues := [(1, { cmds := [launchCmd .queued], submit := 1 })] } }

theorem test_witness_MicrobatchSwitchResult :
    switching.findLaunch 0 0 = some { lau with cls := 1 } ∧ (switching.queue 1).head = some (launchCmd .queued) ∧
    switching.switchTime ≠ 0 ∧ (∀ u ∈ lau.tiles, switching.waitsLong u = true) ∧ switching.tl.saved = [] ∧ switching.tl.moves = [] ∧
    (∀ u ∈ lau.tiles, switching.awaiter u = none) ∧ (∀ u ∈ lau.tiles, switching.testWaits u = false) ∧ switching.qClass 1 = 1 ∧ Cmd.opcode (launchCmd .queued) = 1 ∧
    switching.depsState (launchCmd .queued) = some true ∧ switching.qHeld 1 = false ∧ switching.fenceAhead 1 = false ∧ switching.flt.fenced = false ∧
    switching.trn.st ≠ 5 ∧ switching.switchSet { lau with cls := 1 } 1 (launchCmd .queued) = some [0] ∧
    switching.findCmd 1 0 = some (launchCmd .queued) := by decide +kernel

/-! ## States for the hypotheses: packets of the host -/

/-- Module 0 of a domain that is complete, enumerated and in READY, PXU and PXD ACTIVE. -/
def host : State :=
  { boot := { stage := 7 }, ports := [(0, { live := true, st := .active }), (1, { live := true, st := .active })],
    host := { ident := some 0 }, dom := { st := 2 } }

/-- A packet of the type and LEN for module 0. -/
def hp (ty len : Nat) (dw1 : W32) (qw : W64) (pl : List Byte) : Packet :=
  { dw0 := BitVec.ofNat 32 (ty + len * 4096 + 5 * 2 ^ 23), dw1 := dw1, dw2 := qw.setWidth 32, dw3 := (qw >>> 32).setWidth 32, payload := pl }

def rd (o : Nat) : Packet := hp 2 0 (BitVec.ofNat 32 o) 0 []
def wr (o : Nat) (w : W64) : Packet := hp 3 0 (BitVec.ofNat 32 o) w []
/-- No event is due where none is set. -/
theorem no_event (i : Nat) : host.evtDue (host.evt i) = false := by
  have h : host.evt i = {} := rfl
  rw [h]; decide +kernel

/-- The vaults are stopped. -/
def hotHost : State := { host with flt := { hot := [(2, some 0), (3, some 0)] } }
/-- A DATA_PUT waits. -/
def putting : State := { host with host := { ident := some 0, late := [.dataPut (hp 4 1 0 0 (List.replicate 32 7))] } }

/-- A port as one state of training sees it. -/
def port (x : Port) : State := { now := 20000000, ports := [(0, x)] }

/-- What a port reports when a training state is done: 512 flits of credit and of room. -/
def rep : TrainReport := { good := 0xF, rev := false, credit := [512], share := [512], peer := 0, peerPort := 0 }

theorem test_witness_LinkTrainingResult :
    (let x : Port := { live := true }; ((port x).port .pxu).live = true ∧ (port x).portUsed .pxu = true ∧ ((port x).port .pxu).st = .detect) ∧
    ((({ st := .eq } : Port).st = .eq) ∧ laneChoice 0xF = some 0xF ∧ PortId.isFab .pxu = false) ∧
    (∀ st ∈ [LinkState.align, .config, .retrain, .down, .active], ((port { st := st }).port .pxu).st = st ∧ PortId.isFab .pxu = false) ∧
    (∀ y ∈ [({ st := .config } : Port), { st := .retrain, sub := .config }], y.training = .config ∧
      (∀ c ∈ [512, 513], agreed .pxu y { rep with credit := [BitVec.ofNat 16 c] } = (c == 512)) ∧
      (∀ c ∈ [8, 7], agreed (.fab 0) y { rep with credit := List.replicate 32 8, share := List.replicate 31 8 ++ [BitVec.ofNat 16 c] } = (c == 8))) ∧
    ((port {}).miswire .pxu rep = false ∧ (port {}).miswire (.fab 0) rep = true ∧
      ({ host with regs := [(0x30000, 1)] } : State).miswire (.fab 0) { rep with peer := 1, peerPort := 2 } = false) ∧
    (∀ st ∈ [LinkState.eq, .align, .config], ∀ f ∈ ([0, 2] : List Nat),
      trainBound .pxu ((port { st := st, fails := f }).port .pxu).st * 100000 <
        (port { st := st, fails := f }).now - ((port { st := st, fails := f }).port .pxu).subSince) ∧
    (let s := port { live := true, st := .down, sub := .down }
     (s.port .pxu).live = true ∧ (s.port .pxu).sub = .down ∧ 10000000 ≤ s.now - (s.port .pxu).subSince ∧ (s.port .pxu).miswired = false) ∧
    (let s := port { st := .active }; 1000000 ≤ s.now - (s.port .pxu).lastGood) := by decide +kernel

/-- The flit of 256 zero bytes: a DATA flit of FSEQ 0. -/
def zeroFlit : List Byte := List.replicate 256 0
/-- A CTRL flit that names FSEQ 7 as acknowledged, with NAK set and credit 1, and its sixteen parity bytes. -/
def ctrlFlit : List Byte :=
  [0, 0x70, 0, 0xFE, 1, 0, 1] ++ (List.replicate 233 0 ++
    [0x7A, 0x17, 0x91, 0xF5, 0x2C, 0xE5, 0x67, 0xF3, 0xDB, 0xB3, 0xE9, 0xBF, 0x57, 0xE3, 0xEF, 0xBF])

theorem gfMul_zero (b : Nat) : gfMul 0 b = 0 := by
  have h : gfX 0 = 0 := by decide
  simp [gfMul, h]

theorem gfSum_append (l r : List Nat) : gfSum (l ++ r) = gfSum l ^^^ gfSum r := by
  have h : ∀ (l : List Nat) (a : Nat), l.foldl (· ^^^ ·) a = a ^^^ gfSum l := by
    intro l
    induction l with
    | nil => simp [gfSum]
    | cons x l ih =>
      intro a
      have e := ih (a ^^^ x)
      have f := ih (0 ^^^ x)
      simp only [gfSum, List.foldl_cons] at *
      rw [e, f, Nat.zero_xor, Nat.xor_assoc]
  rw [gfSum, List.foldl_append, h r]
  rfl

theorem gfSum_zeros (n k j : Nat) :
    gfSum (((List.replicate n (0 : Byte)).zipIdx k).map (fun p => gfMul p.1.toNat (gfPow p.2 j))) = 0 := by
  induction n generalizing k with
  | zero => rfl
  | succ n ih =>
    rw [List.replicate_succ, List.zipIdx_cons, List.map_cons, show ∀ (x : Nat) l, x :: l = [x] ++ l from fun _ _ => rfl, gfSum_append, ih]
    simp [gfSum, gfMul_zero]

/-- The sums of a codeword with zeros in its middle. -/
theorem rsSyn_zeros (a p : List Byte) (n j : Nat) :
    rsSyn (a ++ (List.replicate n 0 ++ p)) j =
      gfSum (a.zipIdx.map (fun x => gfMul x.1.toNat (gfPow x.2 j))) ^^^
      gfSum ((p.zipIdx (a.length + n)).map (fun x => gfMul x.1.toNat (gfPow x.2 j))) := by
  rw [rsSyn, List.zipIdx_append, List.zipIdx_append, List.map_append, List.map_append, gfSum_append, gfSum_append]
  have h := gfSum_zeros n (0 + a.length) j
  simp only [List.length_replicate, Nat.zero_add] at *
  rw [h, Nat.zero_xor]

theorem ctrlFlit_codeword : rsCorrect ctrlFlit = some (ctrlFlit, 0) := by
  have h : ∀ j ∈ List.range 16, rsSyn ctrlFlit j = 0 := by
    simp only [ctrlFlit, rsSyn_zeros]
    decide +kernel
  have l : ctrlFlit.length = 256 := by decide +kernel
  simp only [rsCorrect, l, ne_eq, not_true_eq_false, if_false]
  rw [if_pos]
  simp only [List.all_map, List.all_eq_true]
  intro j hj
  simp [h j hj]

theorem zeroFlit_codeword : rsCorrect zeroFlit = some (zeroFlit, 0) := by
  have h : ∀ j, rsSyn zeroFlit j = 0 := fun j => gfSum_zeros 256 0 j
  have l : zeroFlit.length = 256 := by decide +kernel
  simp only [rsCorrect, l, ne_eq, not_true_eq_false, if_false]
  rw [if_pos]
  simp [h]

theorem test_witness_FlitAndAcknowledgementResult :
    (∀ q ∈ ([0, 1] : List Nat), ((port { st := .active, rxSeq := BitVec.ofNat 12 q }).port .pxu).st = .active ∧
      (port { st := .active, rxSeq := BitVec.ofNat 12 q }).portStopped .pxu = false ∧
      ((readFlit .pxu zeroFlit).fseq = ((port { st := .active, rxSeq := BitVec.ofNat 12 q }).port .pxu).rxSeq ↔ q = 0) ∧
      ((port { st := .active, rxSeq := BitVec.ofNat 12 q }).port .pxu).resync = false ∧ ((port { st := .active, rxSeq := BitVec.ofNat 12 q }).port .pxu).waiting = false) ∧
    (∀ y ∈ [({ share := [(0, 1)] } : Port), { share := [(0, 1)], rx := [(0, [{ sop := 63, data := [] }])] }],
      ((Tab.get [] y.rx 0).length < Tab.get 0 y.share 0 ↔ y.rx = []) ∧ (readFlit .pxu zeroFlit).cls = 0 ∧ (readFlit .pxu zeroFlit).sop ≠ 63) ∧
    rsCorrect [] = none ∧
    (rsCorrect zeroFlit = some (zeroFlit, 0) ∧ (readFlit .pxu zeroFlit).valid .pxu = true ∧ (readFlit .pxu zeroFlit).ftype = 0) ∧
    (rsCorrect ctrlFlit = some (ctrlFlit, 0) ∧ (readFlit .pxu ctrlFlit).valid .pxu = true ∧ (readFlit .pxu ctrlFlit).ftype = 2 ∧
      PortId.isFab .pxu = false ∧ bitsAt (readFlit .pxu ctrlFlit).data 0 1 = 1 ∧ ((port { st := .active }).port .pxu).nakCnt = 0) ∧
    (let f (n : BitVec 12) : SentFlit := { fseq := n, cls := 0, starts := true, data := [] }
     let x : Port := { replay := [f 6, f 7, f 8], resend := [f 7, f 8] }
     x.replay = [f 6] ++ f 7 :: [f 8] ∧ ∀ g ∈ [f 6], g.fseq ≠ 7) := by
  refine ⟨?_, ?_, rfl, ⟨zeroFlit_codeword, ?_⟩, ⟨ctrlFlit_codeword, ?_⟩, ?_⟩ <;> decide +kernel

theorem test_witness_RelayAndEnumerationResult :
    (let k : Packet := { rd 0 with dw0 := 2 + 3 * 64 }
     let b : Packet := { rd 0 with dw0 := 2 + 9 * 64 }
     host.serving = true ∧ (host.port .pxu).st = .active ∧ (host.port .pxd).st = .active ∧ host.host.ident ≠ none ∧
       (∀ p ∈ [k, b], fld p.dw0 12 11 ≠ 2047 ∧ host.addressed p = false ∧ bit p.dw0 4 = false) ∧
       fld k.dw0 6 6 / 8 = host.modNumber / 8 ∧ host.modNumber < fld k.dw0 6 6 ∧ fld b.dw0 6 6 / 8 ≠ host.modNumber / 8 ∧
       bit ({ k with dw0 := k.dw0 + 16 } : Packet).dw0 4 = true ∧ fld (k.dw0 + 16) 12 11 ≠ 2047) ∧
    OnPxu { host with host := {} } (hp 9 0 0 0 []) 9 ∧ OnPxu host (hp 9 0 0 0 []) 9 ∧
    (OnPxu host (hp 9 0 (3 + 8) 0 []) 9 ∧ 0 < fld (hp 9 0 (3 + 8) 0 []).dw1 0 3) := by
  unfold OnPxu; decide +kernel

/-- Slot 4,095 of generation 40,000 in a state. -/
def slotState (st : SlotState) : State := { host with host := { host.host with slots := [(4095, { gen := 40000, st := st })] } }

theorem test_witness_ResultReadAnswer :
    ∀ p ∈ ([(.ready, 0), (.armed, 0), (.idle, 0), (.ready, 1), (.ready, 32767), (.ready, 32768)] : List (SlotState × Nat)),
      let k := hp 6 0 (BitVec.ofNat 32 (4095 + (40000 - p.2) * 4096)) 0 []
      OnPxu (slotState p.1) k 6 ∧ fld k.dw1 0 12 = 4095 ∧ ((slotState p.1).slot 4095).st = p.1 ∧
        (((slotState p.1).slot 4095).gen - BitVec.ofNat 16 (fld k.dw1 12 16)).toNat = p.2 := by
  unfold OnPxu; decide +kernel

theorem test_witness_RegisterReadResult :
    (∀ p ∈ ([(0x60, true), (0x1008, true), (0x50000, true), (0xB0000, true), (0x68, false), (0xFFFF8, false)] : List (Nat × Bool)),
      OnPxu host (rd p.1) 2 ∧ p.1 = fld (rd p.1).dw1 0 20 ∧ p.1 ≠ 0x20010 ∧ isRc p.1 = false ∧ isOpen p.1 = false ∧
        (host.regVal p.1 0).isSome = p.2) ∧
    (host.recovery = false ∧ host.putWaits = false ∧ putting.putWaits = true ∧ OnPxu putting (rd 0x60) 2 ∧
      isOpen 0x60018 = true ∧ (host.regVal 0x60018 host.draw.1).isSome = true ∧ OnPxu host (rd 0x60018) 2) ∧
    (∀ o ∈ ([0x48, 0x20028, 0x30200, 0x30278, 0x60008, 0x20010] : List Nat), OnPxu host (rd o) 2 ∧ fld (rd o).dw1 0 20 = o) := by
  unfold OnPxu; decide +kernel


/-! ## States for the hypotheses: register writes -/

/-- A word by its number. -/
def b64 (n : Nat) : W64 := BitVec.ofNat 64 n

/-- The write of w to the register at offset o. -/
def Wr (s : State) (o w : Nat) : Prop := Writes s (wr o (b64 w)) o (b64 w)

def pxuOk (s : State) (k : Packet) (ty : Nat) : Bool :=
  decide ((s.port .pxu).st = .active ∧ s.serving = true ∧ fld k.dw0 0 4 = ty ∧ bit k.dw0 5 = false ∧ s.addressed k = true ∧
    fld k.dw0 12 11 ≠ 2047 ∧ headerFault k = none)

theorem onPxu {s : State} {k : Packet} {ty : Nat} (h : pxuOk s k ty = true) : OnPxu s k ty := by
  have g := of_decide_eq_true h
  exact g

/-- A list of writes, each in its state, as the statements assume them. -/
theorem writes (l : List (State × Nat × Nat))
    (h : l.all (fun p => pxuOk p.1 (wr p.2.1 (b64 p.2.2)) 3 && fld (wr p.2.1 (b64 p.2.2)).dw1 0 20 == p.2.1 &&
      (wr p.2.1 (b64 p.2.2)).dw3 ++ (wr p.2.1 (b64 p.2.2)).dw2 == b64 p.2.2 && !p.1.recovery) = true) :
    ∀ p ∈ l, Wr p.1 p.2.1 p.2.2 := by
  intro p hp
  have q := List.all_eq_true.mp h p hp
  simp only [Bool.and_eq_true, beq_iff_eq, Bool.not_eq_true'] at q
  exact ⟨onPxu q.1.1.1, q.1.1.2, q.1.2, q.2⟩

/-- The module before its domain has formed, and with a command queued. -/
def young : State := { host with dom := {} }
def busyHost : State := withCmd host (cm 1 .queued)

theorem test_witness_RegisterWriteStoresOrRejects :
    (∀ p ∈ ([(host, 0x90000, 1), (host, 0x90000, 3), (host, 0x80100, 4096), (host, 0x80100, 1), (host, 0x30000, 1), (host, 0x311F8, 1),
        (host, 0x31000, 1), (host, 0x20030, 1), (host, 0x20008, 2 ^ 32 + 1), (host, 0x20008, 0), (host, 0x40000, 1), (host, 0x40000, 3),
        (host, 0x50100, 4096), (host, 0x50100, 1), (host, 0x60000, 1200), (host, 0x60000, 1199), (host, 0x60000, 2400), (host, 0x60000, 2401),
        (host, 0x108, 1), (young, 0x50028, 7), (young, 0x50020, 192), (young, 0x50020, 193), (host, 0x50028, 7), (busyHost, 0x90000, 1),
        (busyHost, 0x40000, 1), (busyHost, 0x80100, 0), (busyHost, 0x30000, 1), (busyHost, 0x108, 1)] : List (State × Nat × Nat)),
      Wr p.1 p.2.1 p.2.2) ∧
    (host.busy = false ∧ busyHost.busy = true ∧ host.boot.upd = 0 ∧ inOneTier 4096 (5 * 4096) = true ∧ host.modNumber < 16 ∧
      domainOf 0 ≠ 63) ∧
    (young.dom.st ≤ 1 ∧ fld (b64 192) 0 7 = 64 ∧ fld (b64 192) 7 16 = 1 ∧ fld (b64 193) 0 7 = 65 ∧ ¬ host.dom.st ≤ 1) :=
  ⟨writes _ (by decide +kernel), by decide +kernel, by decide +kernel⟩

theorem test_witness_StepBaseAndFaultRegisterWrites :
    (∀ p ∈ ([(host, 0x20000, 0x41C), (host, 0x20000, 0x41D), (host, 0x20000, 0x418), (host, 0x20100, 3), (host, 0x20178, 3), (host, 0x21000, 5),
        (host, 0x21FF0, 5), (host, 0x21008, 0x900000000), (host, 0x21FF8, 0x900000000), (host, 0x21FF8, 0xE00000000),
        (host, 0x41000, 0x1000009), (host, 0x41FF0, 0x1000009), (host, 0x40030, 1), (host, 0x40030, 2)] : List (State × Nat × Nat)),
      Wr p.1 p.2.1 p.2.2) ∧
    (host.busy = false ∧ host.stb.evt = [] ∧ fld (b64 3) 1 24 = 1 ∧ host.liveCmds = [] ∧ host.trnOn = false) ∧
    (∀ i, host.evtDue (host.evt i) = false) ∧
    (fld (b64 0x900000000) 32 3 = 1 ∧ argOk 1 0 = true ∧ argOk 1 0xFFFF = false ∧ bit (b64 0xE00000000) 35 = true ∧ fld (b64 0xE00000000) 32 3 = 6 ∧ envOk 0 = true) ∧
    (host.regs = [] ∧ regReset 0x41000 = 0 ∧ regReset 0x41FF0 = 0) :=
  ⟨writes _ (by decide +kernel), by decide +kernel, no_event, by decide +kernel, by decide +kernel⟩

/-- A torus of 16 modules, a context of 24 pages, and ring 0 over the first dimension enabled. -/
def ringWord : Nat := 1 + 4 * 2 ^ 15 + 2 ^ 22 + 2 * 2 ^ 33 + 2 ^ 44
def fabHost : State := { host with regs := [(0x30000, 1), (0x70000, 1 + 24 * 2 ^ 48)] }
def ringHost : State := { host with regs := [(0x30000, 1), (0x70000, 1 + 24 * 2 ^ 48), (0x80000, b64 ringWord)] }
/-- The member list 0, 1 at address 0, the write that enables group 0 over it, and one that enables a stream. -/
def listHost : State := { host with mem := { byte := [(2, 1)] } }
def grpWord : Nat := 1 + 2 + 2 * 2 ^ 13
def ochWord : Nat := 1 + 16 + 4 * 32

theorem test_witness_BlockConfigurationResult :
    (∀ p ∈ ([(host, 0x70000, 1 + 2 ^ 48), (host, 0x705E0, 1 + 16384 * 2 ^ 48 + 4 * 2 ^ 8), (ringHost, 0x70000, 1 + 2 ^ 48),
        (fabHost, 0x80000, ringWord), (ringHost, 0x80000, 0), (ringHost, 0x80000, 3), (listHost, 0xB1000, grpWord),
        (host, 0xC0000, ochWord), (host, 0xC0BC0, ochWord)] : List (State × Nat × Nat)), Wr p.1 p.2.1 p.2.2) ∧
    (bit (host.reg 0x70000) 0 = false ∧ bit (host.reg 0x705E0) 0 = false ∧ host.dpm = false ∧ host.regs = []) ∧
    (let w := b64 (1 + 16384 * 2 ^ 48 + 4 * 2 ^ 8); fld w 5 2 ≠ 3 ∧ fld w 8 3 = 4 ∧ fld w 48 15 = 16384) ∧
    (bit (ringHost.reg 0x70000) 0 = true ∧ b64 (1 + 2 ^ 48) &&& ctxCfgMask ≠ ringHost.reg 0x70000) ∧
    (bit (fabHost.reg 0x80000) 0 = false ∧ bit (b64 ringWord) 0 = true ∧
      ((fabHost.takeRx .pxu (wr 0x80000 (b64 ringWord))).setReg 0x80000 (b64 ringWord &&& wrCfgMask (b64 ringWord))).ringOk 0 = true) ∧
    (bit (ringHost.reg 0x80000) 0 = true ∧ (ringHost.ringOf 0).on = false ∧ b64 3 &&& wrCfgMask (b64 3) ≠ ringHost.reg 0x80000) ∧
    (bit (listHost.reg 0xB1000) 0 = false ∧ 2 ≤ fld (b64 grpWord) 13 4 ∧ fld (b64 grpWord) 1 12 = 1 ∧ fld (listHost.reg 0xB1008) 0 42 = 0 ∧
      inTier 0 = true ∧ inOneTier 0 4 = true) ∧
    (((listHost.takeRx .pxu (wr 0xB1000 (b64 grpWord))).readList 0 2).2 = some [0, 1] ∧ [(0 : BitVec 12), 1].Nodup ∧
      domainsOk [0, 1] = true ∧ listHost.ownIdent = 0) ∧
    (bit (b64 ochWord) 4 = true ∧ bit (host.reg 0xC0BC0) 0 = false ∧
      ochOk (b64 ochWord &&& 0x3FFFFFFFFFF#64) (host.reg 0xC0BC8) (host.reg 0xC0BD8) (fld (host.reg 0xC0BD0) 0 42) = true) := by
  refine ⟨writes _ (by decide +kernel), ?_, ?_, ?_, ?_, ?_, ?_, ?_, ?_⟩ <;> decide +kernel

/-- DPM with no buffer, and with buffer 1 live. -/
def dpmHost (m : MemSt) : State := { host with regs := [(0x100, 0x0000271027100001)], mem := m }
def buf1 : DpmBuf :=
  { gen := 0, cls := 5, mirror := false, size := 4096, near := false, vault0 := 0, frames := [], base := 0x10000000000, mframes := [],
    live := true, waits := [] }
def bufHost : State := dpmHost { dpm := [(1, some buf1)] }
/-- A plan of one layer at address 0. -/
def planHost : State := { host with mem := { byte := [(0, 1), (2, 1), (3, 16), (16, 1), (20, 1)], planAddr := some 0 } }

theorem test_witness_MemoryRegisterCommands :
    (∀ p ∈ ([(host, 0x92000, 2 ^ 53), (host, 0x927F8, 2 ^ 53), (dpmHost {}, 0x90010, 0x500000001), (host, 0x90010, 0x600000000),
        (bufHost, 0x90020, 1), (host, 0x90030, 64)] : List (State × Nat × Nat)), Wr p.1 p.2.1 p.2.2) ∧
    (bit (b64 (2 ^ 53)) 53 = true ∧ fld (b64 0x500000001) 36 28 = 0 ∧ (dpmHost {}).dpm = true ∧ fld (b64 0x500000001) 0 32 = 1 ∧
      fld (b64 0x500000001) 32 4 = 5) ∧
    (let u := (dpmHost {}).takeRx .pxu (wr 0x90010 (b64 0x500000001)); u.placeOuter 5 4096 = some buf1 ∧ (u.addBuf buf1).2 = 1) ∧
    (fld (b64 0x600000000) 47 17 = 0 ∧ fld (b64 0x600000000) 32 4 = 6) ∧
    (fld (b64 1) 32 32 = 0 ∧ bufHost.dpmBuf (fld (b64 1) 0 32) = some buf1 ∧ buf1.live = true) ∧
    (fld (b64 64) 42 22 = 0 ∧ host.mem.planAddr = none) ∧
    (planHost.mem.planAddr = some 0 ∧ inTier 0 = true ∧ inOneTier 0 32 = true ∧ planFault (planHost.readRef (.addr 0) 32).1 0 = none) := by
  refine ⟨writes _ (by decide +kernel), ?_, ?_, ?_, ?_, ?_, ?_⟩ <;> decide +kernel

/-! ## States for the hypotheses: commands -/

theorem whole {s : State} {a n : Nat} (h : inOneTier a n = true) (u : s.mem.ue = []) : Whole s a n :=
  ⟨h, fun _ _ _ _ => by rw [u]; rfl⟩

/-- The queue 0 is enabled. -/
def on (s : State) : State := { s with regs := [(0x1000, 0xC5)] }
/-- A packet with a FENCE for queue 0, and with one whose DEP_TO is not 0. -/
def fencePkt (n : Nat) : Packet := hp 1 2 0 0 (toBytesLE 64 n)
def fenceNum : Nat := 0x0F + 2 ^ 9
/-- Queue 0 with a number of commands accepted and none done. -/
def filled (n : W32) : State := { on host with host := { ident := some 0, queues := [(0, { submit := n })] } }

theorem test_witness_CommandAcceptance :
    OnPxu { host with flt := { fenced := true } } (fencePkt fenceNum) 1 ∧ OnPxu young (fencePkt fenceNum) 1 ∧ OnPxu host (fencePkt fenceNum) 1 ∧
    OnPxu (on host) (fencePkt 0x0F) 1 ∧ OnPxu (filled 4096) (fencePkt fenceNum) 1 ∧ OnPxu (filled 4095) (fencePkt fenceNum) 1 ∧
    (fld (fencePkt fenceNum).dw0 12 11 = 2 ∧ fld (fencePkt fenceNum).dw1 0 6 = 0 ∧ young.domClosed = true ∧ host.domClosed = false ∧
      host.recovery = false ∧ host.putWaits = false ∧ young.putWaits = false ∧ (filled 0).putWaits = false ∧ putting.putWaits = true ∧
      host.flt.fenced = false ∧ host.qEnabled 0 = false ∧ (on host).qEnabled 0 = true) ∧
    (firstFlaw ((on host).cmdFlaws (rawCmd (Packet.data (fencePkt 0x0F))) 64)).isSome = true ∧
    ((filled 4096).cmdFlaws (rawCmd (Packet.data (fencePkt fenceNum))) 64 = [] ∧ (filled 4096).qDepth 0 < ((filled 4096).queue 0).submit.toNat + 1 ∧
      (filled 4095).cmdFlaws (rawCmd (Packet.data (fencePkt fenceNum))) 64 = [] ∧
      ((filled 4095).queue 0).submit.toNat + 1 ≤ (filled 4095).qDepth 0) := by
  refine ⟨onPxu ?_, onPxu ?_, onPxu ?_, onPxu ?_, onPxu ?_, onPxu ?_, ?_, ?_, ?_⟩ <;> decide +kernel

theorem test_witness_HostDataResult :
    (OnPxu host (hp 4 1 0 0 (List.replicate 32 7)) 4 ∧ OnPxu host (hp 4 1 0 1 (List.replicate 32 7)) 4 ∧
      OnPxu host (hp 4 1 0 0x8000000000 (List.replicate 32 7)) 4) ∧
    (OnPxu host (hp 5 0 2 0 []) 5 ∧ OnPxu host (hp 5 0 (2 * 2046) 0 []) 5 ∧ OnPxu host (hp 5 0 0 0 []) 5 ∧ OnPxu host (hp 5 0 2 1 []) 5) ∧
    (Whole host 0 32 ∧ Whole host 0 (32 * 2046)) ∧
    (host.putWaits = false ∧ putting.putWaits = true ∧ pxuOk putting (hp 4 1 0 0 (List.replicate 32 7)) 4 = true ∧
      pxuOk putting (hp 5 0 2 0 []) 5 = true ∧ (hotHost.writeHeld (.addr 0) 32 = true ∧ pxuOk hotHost (hp 4 1 0 0 (List.replicate 32 7)) 4 = true ∧
      hotHost.refAny (.addr 0) 32 hotHost.denyWrite = false ∧ inOneTier 0 32 = true) ∧ 32 * 2046 < 32 * 2047 ∧
      pxuOk host (hp 5 0 (2 * 2047) 0 []) 5 = true) ∧
    (host.recovery = false ∧ inOneTier 0x8000000000 32 = false ∧ host.refAny (.addr 0) 32 host.denyWrite = false ∧
      host.writeHeld (.addr 0) 32 = false) ∧
    (host.refAny (.addr 0) 32 host.denyRead = false ∧ host.readHeld (.addr 0) 32 = false ∧ host.refAny (.addr 0) 65472 host.denyRead = false ∧
      host.readHeld (.addr 0) 65472 = false) :=
  ⟨⟨onPxu (by decide +kernel), onPxu (by decide +kernel), onPxu (by decide +kernel)⟩,
    ⟨onPxu (by decide +kernel), onPxu (by decide +kernel), onPxu (by decide +kernel), onPxu (by decide +kernel)⟩,
    ⟨whole (by decide) rfl, whole (by decide) rfl⟩, by decide +kernel, by decide +kernel, by decide +kernel⟩

/-- A queued FENCE, and one with a dependency of the outcome given. -/
def dep (r : Option Bool) : Cmd := { cm 0x0F .queued with deps := [{ kind := 2, any := false, ref := 1, val := 0, res := r }], headAt := some 0 }

theorem test_witness_CommandDispatchResult :
    (∀ r ∈ [some false, some true], ((withCmd host (dep r)).queue 0).head = some (dep r) ∧ (withCmd host (dep r)).findCmd 0 0 = some (dep r) ∧
      (withCmd host (dep r)).nextQueue = some 0 ∧ (withCmd host (dep r)).depsState (dep r) = r) ∧
    (Cmd.opcode (dep none) = 0x0F ∧ host.trn.st ≠ 5) ∧
    (let c := { cm 1 .queued with phase := .queued }
     let s := { withCmd host c with trn := { st := 5 } }
     (s.queue 0).head = some c ∧ s.nextQueue = some 0 ∧ s.depsState c = some true ∧ expelledOp (Cmd.opcode c) = true ∧ Cmd.opcode c = 1) ∧
    ((withCmd host (dep none)).nextQueue ≠ some 0 ∧ (withCmd host (dep none)).depsState (dep none) = none) ∧
    (let c := { cm 0x0F .queued with readyAt := some 0 }
     let s := { withCmd host c with regs := [(0x1000, 0xC6)], now := 1000001 }
     (s.queue 0).head = some c ∧ s.qClass 0 = 2 ∧ s.bulkAge * 100 < s.now ∧ s.host.aged.contains 0 = false) ∧
    ((withCmd { host with now := 5 } (dep none)).queue 0).cmds = [dep none] := by decide +kernel

/-- A running command of the opcode, its other bits and a state that runs it. -/
def rn (op low : Nat) : Cmd := cm (op + low) .running
def runs (s : State) (c : Cmd) (op : Nat) : Bool :=
  decide (s.findCmd 0 0 = some c) && decide (c.phase = .running) && Cmd.opcode c == op

theorem runs_command {s : State} {c : Cmd} {op : Nat} (h : runs s c op = true) : Runs s 0 0 op c := by
  simp only [runs, Bool.and_eq_true, decide_eq_true_eq, beq_iff_eq] at h
  exact ⟨h.1.1, h.1.2, h.2⟩

/-- A FENCE, number 0, behind nothing, or behind a command that runs. -/
def behind : State := host.setQueue 0 { cmds := [{ cm 2 .running with seq := 7 }, { rn 0x0F 0 with acc := 1 }], submit := 8 }

theorem test_witness_CommandCompletionResult :
    (Runs (withCmd host (rn 0x0F 0)) 0 0 0x0F (rn 0x0F 0) ∧ (rn 0x0F 0).snap = [] ∧
      ∀ d ∈ ((withCmd host (rn 0x0F 0)).queue 0).cmds, ¬ d.acc < (rn 0x0F 0).acc) ∧
    (Runs behind 0 0 0x0F { rn 0x0F 0 with acc := 1 } ∧ ∃ d ∈ (behind.queue 0).cmds, d.acc < 1 ∧ d.phase = .running) ∧
    (let c := cm 0x0F (.ended 5)
     ((withCmd host c).queue 0).cmds = [c] ∧ c.seq = 0 ∧ c.phase = .ended 5 ∧ Cmd.slot? c = none ∧ Status.success 5 = false ∧
       bit ((withCmd host c).reg 0x60) 2 = true ∧ (((withCmd host c).queue 0).submit - 0).toNat ≤ 4096) := by
  refine ⟨⟨runs_command (by decide +kernel), rfl, ?_⟩, ⟨⟨?_, ?_, ?_⟩, { cm 2 .running with seq := 7 }, ?_, ?_, rfl⟩, ?_⟩ <;> decide +kernel

/-- A COPY of one granule from 0x10000 to 0 (plain, and with OP 1), a FILL of 32 bytes. -/
def copyNum : Nat := 0x10000 * 2 ^ 320 + 2 * 2 ^ 448

theorem test_witness_CopyAndFillResult :
    (Runs (withCmd host (rn 2 copyNum)) 0 0 2 (rn 2 copyNum) ∧ copyOp (rn 2 copyNum) = 0 ∧ addrOp (rn 2 copyNum) 0 = 0x10000 ∧
      addrOp (rn 2 copyNum) 64 = 0 ∧ Cmd.opnd (rn 2 copyNum) 128 32 = 2 ∧ Whole (withCmd host (rn 2 copyNum)) 0x10000 64 ∧
      Whole (withCmd host (rn 2 copyNum)) 0 64) ∧
    ((withCmd host (rn 2 copyNum)).writeHeld (.addr 0) 64 = false ∧ (withCmd host (rn 2 copyNum)).readHeld (.addr 0x10000) 64 = false ∧
      (withCmd host (rn 2 copyNum)).dpm = false ∧
      (withCmd host (rn 2 copyNum)).writeDenied (.addr 0) 64 = false) ∧
    (Runs (withCmd host (rn 2 (copyNum + 2 ^ 480 + 2 ^ 8))) 0 0 2 (rn 2 (copyNum + 2 ^ 480 + 2 ^ 8)) ∧ copyOp (rn 2 (copyNum + 2 ^ 480 + 2 ^ 8)) = 1 ∧
      inNear 0 = true ∧ NoRound (withCmd host (rn 2 (copyNum + 2 ^ 480 + 2 ^ 8))) 0 64 ∧
      (withCmd host (rn 2 (copyNum + 2 ^ 480 + 2 ^ 8))).addrLoc 0 = some 0) ∧
    (Runs (withCmd host (rn 3 (2 ^ 384))) 0 0 3 (rn 3 (2 ^ 384)) ∧ Cmd.opnd (rn 3 (2 ^ 384)) 64 32 = 1 ∧
      Whole (withCmd host (rn 3 (2 ^ 384))) 0 32 ∧ (withCmd host (rn 3 (2 ^ 384))).writeHeld (.addr 0) 32 = false) := by
  refine ⟨⟨runs_command (by decide +kernel), ?_, ?_, ?_, ?_, whole (by decide) rfl, whole (by decide) rfl⟩, ?_,
    ⟨runs_command (by decide +kernel), ?_, ?_, fun _ _ _ _ => ⟨rfl, by intro x h; cases h⟩, ?_⟩, ⟨runs_command (by decide +kernel), ?_, whole (by decide) rfl, ?_⟩⟩ <;>
    decide +kernel

/-- Context 0 enabled with 16,384 pages, its table at address 0. -/
def ctxHost (x : Ctx) (m : MemSt) (pins : List Pin) : State :=
  { host with regs := [(0x70000, 1 + 16384 * 2 ^ 48)], cx := { ctx := [(0, x)], pins := pins }, mem := m }
/-- A PT_EDIT of one page of context 0 from 32 MiB. -/
def editNum : Nat := 0x2000000 * 2 ^ 320 + 2 ^ 398

theorem test_witness_PageTableResult :
    (let s := ctxHost {} {} []
     Memory.wf s.mem = true ∧ s.ctxEnabled 0 = true ∧ (s.ctx 0).nextOpen = false ∧ s.cx.pins = []) ∧
    (let s := ctxHost {} {} [{ ctx := 0, epoch := 0xFFFFFFFD, holder := .ring 0 }]
     ∃ p ∈ s.cx.pins, p.ctx = 0 ∧ p.epoch = (s.ctx 0).epoch + 1 - 4) ∧
    (∀ m ∈ ([0, 2] : List Nat),
      let s := withCmd (ctxHost { nextOpen := true } { byte := if m = 0 then [] else [(0x2000000, BitVec.ofNat 8 m)] } []) (rn 6 editNum)
      runs s (rn 6 editNum) 6 = true ∧ (s.ctx 0).nextOpen = true ∧ s.memStopped = false ∧ s.liveCmds.length = 1 ∧
        leAt (s.peek 0x2000000 8) 0 8 = m ∧ inOneTier (s.ctxBuf 0 1) 8 = true ∧ s.mem.ue = []) ∧
    (Cmd.opnd (rn 6 editNum) 93 6 = 0 ∧ Cmd.opnd (rn 6 editNum) 78 15 = 1 ∧ Cmd.full (rn 6 editNum) = false ∧
      Cmd.opnd (rn 6 editNum) 0 64 = 0x2000000 ∧ inOneTier 0x2000000 8 = true ∧
      (ctxHost {} {} []).entryFault 0 false 0 = none ∧ (ctxHost {} {} []).entryFault 0 false 2 ≠ none) ∧
    (let s := withCmd (ctxHost { nextOpen := true } {} []) (rn 7 0)
     runs s (rn 7 0) 7 = true ∧ Cmd.opnd (rn 7 0) 0 6 = 0 ∧ (s.ctx 0).nextOpen = true ∧
       ∀ y ∈ s.liveCmds, Cmd.opcode y.2 ≠ 6) := by decide +kernel

/-- Page 0 of context 0 lies at 16 MiB of vault 0; a KV_APPEND of one position from 32 MiB. -/
def kvNum (n : Nat) : Nat := 0x2000000 * 2 ^ 320 + n * 2 ^ 384
def kvPin : Pin := { ctx := 0, epoch := 0, holder := .append 0 0 }
def kvHost (valid : Bool) : State :=
  withCmd (ctxHost { nextOpen := true } { byte := if valid then [(0, 1), (3, 1)] else [] } [kvPin]) (rn 5 (kvNum 1))

theorem test_witness_KvAppendResult :
    (∀ v ∈ [true, false], runs (kvHost v) (rn 5 (kvNum 1)) 5 = true ∧ (kvHost v).memStopped = false ∧
      (kvHost v).cx.pins.find? (fun p => p.holder == .append 0 0) = some kvPin ∧ (kvHost v).liveCmds.length = 1 ∧
      (kvHost v).mem.ue = [] ∧ bit ((kvHost v).pageEntry 0 0 0) 0 = v) ∧
    (((kvHost true).kvArgs (rn 5 (kvNum 1))).count = 1 ∧ ((kvHost true).kvArgs (rn 5 (kvNum 1))).ctx = 0 ∧ (rn 5 (kvNum 1)).pos = 0 ∧
      (kvHost true).ctxHkv 0 = 1 ∧ (kvHost true).ctxKvf 0 = 0 ∧ (kvHost true).ctxCopiesLog2 0 = 0 ∧ Cmd.full (rn 5 (kvNum 1)) = false) ∧
    (∀ kv, kv < 2 → inOneTier (((kvHost true).kvArgs (rn 5 (kvNum 1))).row true 0 0 kv) 256 = true) ∧
    (addrOp (rn 5 (kvNum 1)) 0 = 0x2000000 ∧ fld ((kvHost true).pageEntry 0 0 0) 4 8 = 0 ∧ fld ((kvHost true).pageEntry 0 0 0) 12 19 = 0x1000 ∧
      vaultLoc 0 0x1000000 = 0x1000000) ∧
    Whole (kvHost true) 0x2000000 512 ∧ (∀ i, i < 512 → (kvHost true).addrLoc (0x2000000 + i) = some (0x2000000 + i)) ∧
    (kvHost true).ctxBuf 0 0 = 0 ∧ (kvHost true).addrLoc 0 = some 0 := by
  refine ⟨?_, ?_, ?_, ?_, whole (by decide) rfl, ?_, ?_, ?_⟩ <;> decide +kernel

/-- A contribution for granule 0: its control word; with an order count. -/
def contrib (ctl : Nat) : Contrib := { src := .fabric, gran := 0, ctl := b64 ctl, data := List.replicate 64 0, ver := 0, step := false }
def flying (ctl : Nat) (cnt : W16) : State := { host with mem := { fly := [contrib ctl], ordc := if cnt = 0 then [] else [(0, cnt)] } }

theorem test_witness_ContributionResult :
    (∀ p ∈ ([(0, 0), (2 ^ 5, 0), (1 + 65535 * 2 ^ 6, 65535), (2, 0), (2 ^ 6, 0), (0, 1)] : List (Nat × Nat)),
      (flying p.1 (BitVec.ofNat 16 p.2)).mem.fly[0]? = some (contrib p.1) ∧ (flying p.1 (BitVec.ofNat 16 p.2)).locStopped 0 = false ∧
      (contrib p.1).data.length = 64 ∧ (flying p.1 (BitVec.ofNat 16 p.2)).mem.held = [] ∧
      (Tab.get 0 (flying p.1 (BitVec.ofNat 16 p.2)).mem.ordc 0).toNat = p.2) ∧
    ((contrib 0).op < 2 ∧ (contrib 0).token = 0 ∧ (contrib (2 ^ 5)).last = true ∧ (contrib (1 + 65535 * 2 ^ 6)).token = 65535 ∧
      (contrib (1 + 65535 * 2 ^ 6)).op = 1 ∧ (contrib 2).op = 2 ∧ (contrib 2).token = ((flying 2 0).sqReg 0).nxt.toNat ∧
      (contrib (2 ^ 6)).token = 1 ∧ 524288 = 2 ^ 19) := by decide +kernel

theorem test_witness_VaultAndScrubResult :
    (let s : State := { host with mem := { vault := [(255, { remap := 1 })], reserve := [(15, 16)] } }
     (s.vaultSt 255).remap = 1 ∧ (s.vaultSt 254).remap ≠ 1 ∧ Tab.get 0 s.mem.reserve (254 / 16) ≠ 0 ∧ (s.vaultSt 0).remap ≠ 1 ∧
       Tab.get 0 s.mem.reserve (0 / 16) = 0) ∧
    (let s : State := { host with mem := { sysRemap := [(15, 1)], reserve := [(15, 17)] } }
     (287 : BitVec 9).toNat = 272 + 15 ∧ Tab.get 0 s.mem.sysRemap 15 = 1 ∧ Tab.get 0 s.mem.sysRemap 0 ≠ 1 ∧ Tab.get 0 s.mem.reserve 0 = 0) ∧
    (0 ≠ lastGranule ∧ host.memPos (locVault 0) = some (0, 0) ∧ Tab.get 0 host.mem.reserve 0 = 0 ∧ host.otherCopies 0 = [] ∧
      host.memPos (locVault (64 * (0x10000000000 / 64))) = none) := by decide +kernel

/-- A decoding stream 0 of one 8-bit pixel, and a CODE that both engines keep waiting or that engine 0 ends. -/
def codeHost (e0 e1 : Option (Nat × W32)) (jobs : List OchJob) : State :=
  withCmd { host with regs := [(0xC0000, 3)], och := { eng0 := e0, eng1 := e1, jobs := jobs } } (rn 8 0)
def codeJob (n : Nat) : OchJob := { q := 0, seq := 0, eng := some 0, left := n }

theorem test_witness_CodeResult :
    (Runs (codeHost (some (1, 0)) (some (2, 0)) []) 0 0 8 (rn 8 0) ∧ (codeHost (some (1, 0)) (some (2, 0)) []).och.jobs = [] ∧
      (codeHost (some (1, 0)) (some (2, 0)) []).och.eng0 ≠ none ∧ (codeHost (some (1, 0)) (some (2, 0)) []).och.eng1 ≠ none) ∧
    (∀ n ∈ ([1, 2] : List Nat), runs (codeHost (some (0, 0)) none [codeJob n]) (rn 8 0) 8 = true ∧
      (codeHost (some (0, 0)) none [codeJob n]).och.jobs = [] ++ codeJob n :: [] ∧
      (codeHost (some (0, 0)) none [codeJob n]).domBad 60 = false ∧ (codeHost (some (0, 0)) none [codeJob n]).memStopped = false) ∧
    (let s := codeHost (some (0, 0)) none [codeJob 1]
     s.codeHeld (rn 8 0) = false ∧ s.ochDecode 0 = true ∧ s.dpm = false ∧ codeStream (rn 8 0) = 0 ∧ addrOp (rn 8 0) 0 = 0 ∧
       Cmd.full (rn 8 0) = false) ∧
    Whole (codeHost (some (0, 0)) none [codeJob 1]) 0 128 ∧
    ((codeHost (some (0, 0)) none [codeJob 1]).peek 0 128).take 64 ≠ streamHeader ((codeHost (some (0, 0)) none [codeJob 1]).ochDesc 0) := by
  refine ⟨⟨runs_command (by decide +kernel), ?_, ?_, ?_⟩, ?_, ?_, whole (by decide) rfl, ?_⟩ <;> decide +kernel

/-! ## States for the hypotheses: sync commands, rings, collectives, fabric -/

/-- SYNC_SIGNAL of 5 to object 3 of the module, and of module 1; SYNC_WAIT for 1; STEP_EVENT_SET of entry 255. -/
def sigNum : Nat := 3 * 2 ^ 320 + 5 * 2 ^ 352
def farNum : Nat := sigNum + 2 ^ 8 + 2 ^ 384 + 2 ^ 396
def waitNum : Nat := 3 * 2 ^ 320 + 2 ^ 352
def evtNum : Nat := 255 * 2 ^ 416 + 2 * 2 ^ 424 + 63 * 2 ^ 428

theorem test_witness_SyncCommandResult :
    (Runs (withCmd host (rn 0x0C sigNum)) 0 0 0x0C (rn 0x0C sigNum) ∧ host.sync.remote = [] ∧ Cmd.full (rn 0x0C sigNum) = false ∧
      host.homeStopped 3 = false ∧ ({ host with flt := { volt := [(2, some 0)] } } : State).homeStopped 3 = true ∧
      host.isFailed 1 = false ∧ ({ host with flt := { failed := [1] } } : State).isFailed 1 = true ∧
      ({ host with host := { ident := some 1 } } : State).host.ident = some (BitVec.ofNat 12 (Cmd.opnd (rn 0x0C farNum) 64 12))) ∧
    (Runs (withCmd host (rn 0x0C farNum)) 0 0 0x0C (rn 0x0C farNum) ∧ Cmd.full (rn 0x0C farNum) = true ∧
      Cmd.opnd (rn 0x0C farNum) 76 1 = 1 ∧ host.host.ident ≠ some (BitVec.ofNat 12 (Cmd.opnd (rn 0x0C farNum) 64 12))) ∧
    (Runs (withCmd host (rn 0x0D (3 * 2 ^ 320))) 0 0 0x0D (rn 0x0D (3 * 2 ^ 320)) ∧ 0 ≤ (host.obj 3 - 0).toInt) ∧
    (Runs (withCmd host (rn 0x0D waitNum)) 0 0 0x0D (rn 0x0D waitNum) ∧ (host.obj 3 - BitVec.ofNat 32 (Cmd.opnd (rn 0x0D waitNum) 32 32)).toInt < 0 ∧
      (rn 0x0D waitNum).pos * 100000 ≤ host.now - (rn 0x0D waitNum).runAt) ∧
    (Runs (withCmd host (rn 0x0E evtNum)) 0 0 0x0E (rn 0x0E evtNum) ∧ Cmd.opnd (rn 0x0E evtNum) 96 8 = 255 ∧
      Cmd.opnd (rn 0x0E evtNum) 104 3 = 2 ∧ argOk 2 (Cmd.opnd (rn 0x0E evtNum) 108 16) = true ∧
      (∀ j, host.evtDue (host.evt j) = false)) := by
  refine ⟨⟨runs_command (by decide +kernel), ?_, ?_⟩, ⟨runs_command (by decide +kernel), ?_, ?_, ?_⟩, ⟨runs_command (by decide +kernel), ?_⟩,
    ⟨runs_command (by decide +kernel), ?_, ?_⟩, ⟨runs_command (by decide +kernel), ?_, ?_, ?_, no_event⟩⟩ <;> decide +kernel

/-- Ring 0 of module 0 over four modules, one block of 4 pages for each head and side, 2 slots: as x, its pages' entries valid at
16 MiB and 128 KiB apart, or none. -/
def ring (x : Ring) (pages : Bool) : State :=
  { ringHost with
      ring := [(0, x)]
      mem := { byte := if pages then (List.range 24).flatMap (fun p => [(8 * p, 1), (8 * p + 2, BitVec.ofNat 8 (2 * p)), (8 * p + 3, 1)]) else [] }
      cx := { pins := [{ ctx := 0, epoch := 0, holder := .ring 0 }] }
      sync := { obj := [(0, 1), (6, 1)] } }
/-- The same ring with GRAD. -/
def gradRing (x : Ring) : State := { ring x true with regs := [(0x30000, 1), (0x70000, 1 + 24 * 2 ^ 48), (0x80000, b64 (ringWord + 2 ^ 8))] }
/-- Where the pages of the next block of the clockwise direction lie. -/
def landing : List (Nat × Nat) :=
  let s := ring { st := 2, on := true } true
  (List.range 4).flatMap (fun i => (s.pageCopies 0 (s.pageEntry 0 0 (8 + i))).map (fun l => (l, i)))

theorem addrLoc_plain (s : State) (a : Nat) (h : s.il = 0) (b : a < 2 ^ 31) : s.addrLoc a = some a := by
  rw [addrLoc_near s a (Nat.lt_of_lt_of_le b (by decide)), h]
  simp only [nearMap]
  refine congrArg some ?_
  omega

theorem test_witness_RingResult :
    ((ring { st := 1 } true).ringOf 0 = { st := 1 } ∧ (ring {} true).wrNext 0 = 1 ∧ (ring {} true).wrPrev 0 = 3) ∧
    (∀ p ∈ [true, false], ((ring { st := 2 } p).ringOf 0 = { st := 2 } ∧ (ring {} p).ringPages 0 ((ring {} p).ctx ((ring {} p).wrCtx 0)).epoch = p ∧
      0 ≤ ((ring {} p).obj ((ring {} p).wrObj 0) - BitVec.ofNat 32 (1 * (ring {} p).wrNsig 0)).toInt)) ∧
    (let s := ring { st := 2, on := true } true
     s.ringPin 0 = some { ctx := 0, epoch := 0, holder := .ring 0 } ∧ s.wrSteps 0 false * s.wrBps 0 = 6 ∧ s.wrGrad 0 = false ∧ s.mem.ue = [] ∧
       s.wrSlot 0 false 1 * s.wrPps 0 + s.wrBlkpg 0 ≤ 16384 ∧ s.wrBlkpg 0 * s.wrPageBytes 0 = 524288 ∧ s.wrSlot 0 false 1 * s.wrPps 0 = 8) ∧
    (List.replicate 524288 (0 : Byte)).length = 524288 ∧
    landing.Pairwise (fun u v => u.1 + 131072 ≤ v.1 ∨ v.1 + 131072 ≤ u.1) ∧
    (∀ u ∈ landing, ∀ j, j < 524288 → ∀ t, (ring { st := 2, on := true } true).addrLoc ((ring { st := 2, on := true } true).ctxTable 0 + j) = some t →
      t < u.1 ∨ u.1 + 131072 ≤ t) ∧
    (let s := ring { st := 2, on := true } true; (s.ringOf 0).on = true ∧ (s.ringOf 0).st = 2 ∧ ((s.ringOf 0).dir false).grant = 0 ∧ 0 < s.wrSteps 0 false ∧
      s.slotOver 0 false 1 = true) ∧
    (let s := gradRing { st := 2, on := true, cw := { credit := 1 } }
     (s.ringOf 0).on = true ∧ s.wrGrad 0 = true ∧ 0 < s.wrSize 0 ∧ inOneTier (s.wrSum 0 0) (s.wrRegion 0) = true ∧ s.mem.ue = [] ∧
       s.wrSlot 0 false 0 = 0 ∧ s.homeStopped (s.wrObj 0 + 6) = false ∧
       0 ≤ (s.obj (s.wrObj 0 + 6 + 4 * s.wrSlot 0 false 0) - BitVec.ofNat 32 (1 * s.wrNsig 0)).toInt) ∧
    (let s := ring { st := 2, on := true, cw := { got := 6, fwd := 6 } } true
     s.ringInFlight 0 = false ∧ ∀ ccw ∈ [true, false], s.wrSteps 0 ccw * s.wrBps 0 ≤ ((s.ringOf 0).dir ccw).got ∧
       s.wrSteps 0 ccw * s.wrBps 0 ≤ ((s.ringOf 0).dir ccw).fwd) ∧
    ((ring { st := 3 } true).ringOf 0 = { st := 3 } ∧ (ring {} true).flt.failed = []) ∧
    (let s := { ring {} true with flt := { holders := [(1, 0)] } }
     let u := (s.setReg 0x80000 (b64 ringWord &&& wrCfgMask (b64 ringWord))).setReg 0x80008 0
     (s.ringOf 0).st = 0 ∧ s.myRole ≠ s.ownIdent ∧ bit (b64 ringWord) 0 = true ∧ u.ringOk 0 = true ∧ u.ringWhole 0 = true) ∧
    ((ring {} true).ringTakes 0 false = false ∧ (ring {} true).homeStopped ((ring {} true).wrObj 0) = false) := by
  refine ⟨by decide +kernel, by decide +kernel, by decide +kernel, List.length_replicate .., by decide +kernel, ?_, by decide +kernel,
    by decide +kernel, by decide +kernel, by decide +kernel, by decide +kernel, by decide +kernel⟩
  intro u hu j hj t ht
  have e : (ring { st := 2, on := true } true).ctxTable 0 = 0 := by decide +kernel
  have f : ∀ u ∈ landing, 0x1000000 ≤ u.1 := by decide +kernel
  rw [e, addrLoc_plain _ _ (by decide +kernel) (by omega)] at ht
  have := f u hu
  cases ht
  omega

/-- Three members, rank 1 held by a spare, and a COLL of group 0 that runs or stands current. -/
def three (x : Option Coll) (holder : List (BitVec 12)) : State :=
  withCmd { host with
    now := 1000000000
    coll := { list := [(0, [0, 1, 2])], holder := [(0, holder)], cur := [(0, x)] } } (rn 4 0)
/-- What a member shows of an ALL_GATHER, and of another count. -/
def dsc (n : Nat) : CollDesc :=
  { ghash := 0, op := 2, dtype := 0, count := n, root := 0, red := 0, xfmt := 0, alg := 0, step := false, recv := false, shoff := 0, shlen := 0 }
def shown (r n : Nat) : Nat × W64 × CollDesc := (r, collHash (dsc n), dsc n)
def cur (ph : CollPhase) (hs : List (Nat × W64 × CollDesc)) (want : List Want) : Coll :=
  { q := 0, cmd := 0, seq := 0, desc := dsc 1, since := 0, phase := ph, hands := hs, want := want }
/-- One landing of 32 bytes from rank 1 is wanted. -/
def piece : Want := { sender := 1, kind := .fin, rank := 1, off := 0, len := 32 }

theorem test_witness_CollectiveResult :
    (Runs (three none [0, 1, 2]) 0 0 4 (rn 4 0) ∧ (three none [0, 1, 2]).coll.ready = [] ∧ (three none [0, 1, 2]).curColl 0 = none ∧
      (three none [0, 1, 2]).refAny ((three none [0, 1, 2]).collDstRange (rn 4 0)).1 ((three none [0, 1, 2]).collDstRange (rn 4 0)).2
        (three none [0, 1, 2]).inCommitted = false) ∧
    (let s := { three none [0, 1, 2] with coll := { list := [(0, [0, 1, 2])], ready := [(0, 0, 0, 0)] } }
     s.curColl 0 = none ∧ s.coll.ready = [(0, Tab.get 0 s.coll.turn 0, 0, 0)] ∧ s.findCmd 0 0 = some (rn 4 0) ∧ s.coll.early = [] ∧
       s.coll.box = [] ∧ 2 ≤ (s.members 0).length) ∧
    (let s := three (some (cur .hand [shown 0 1] [])) [0, 1, 2]
     s.curColl 0 = some (cur .hand [shown 0 1] []) ∧ s.findCmd 0 0 = some (rn 4 0) ∧ s.ranksOf 0 1 = [1] ∧ (s.members 0).length = 3) ∧
    (let hs := [shown 0 1, shown 2 1, shown 1 2]
     (three (some (cur .hand [shown 0 1, shown 2 1] [])) [0, 1, 2]).ranksOf 0 1 = [1] ∧ hs.find? (fun h => h.1 == 0) = some (shown 0 1) ∧
       (shown 2 1).2.1 = (shown 0 1).2.1 ∧ (5 : W64) ≠ collHash (dsc 1) ∧
       mismatch (dsc 1) (dsc 1) true = none ∧ mismatch (dsc 1) (dsc 1) false = none ∧ mismatch (dsc 1) (dsc 2) true = some 4) ∧
    (let s := three (some (cur .data [] [piece])) [0, 1, 2]
     opReduces (dsc 1).op = false ∧ s.dpm = false ∧ (cur .data [] [piece]).susp = false ∧ (cur .data [] [piece]).land = [] ∧
       s.collBarred (rn 4 0) = false ∧
       [piece].find? (fun v => v.kind == .fin && v.rank == 1 && v.off == 0 && v.len == (List.replicate 32 (0 : Byte)).length) = some piece) ∧
    Whole (three (some (cur .data [] [piece])) [0, 1, 2]) (addrOp (rn 4 0) 64 + 0) 32 ∧
    (let s := three (some (cur .data [] [])) [0, 1, 2]; s.collTo (rn 4 0) * 100000 ≤ s.now - (cur .data [] []).since) ∧
    ((1 : W32) ≠ (cur .hand [] []).seq ∧ ((1 : W32) - (cur .hand [] []).seq).toNat < 2 ^ 31) ∧
    (∀ p ∈ ([(three (some (cur .hand [] [])) [0, 1, 2], 0xB0008, 256), (host, 0xB0008, 512)] : List (State × Nat × Nat)), Wr p.1 p.2.1 p.2.2) ∧
    (fld (b64 256) 9 55 = 0 ∧ fld (b64 256) 0 8 = 0 ∧ bit (b64 256) 8 = true ∧ fld (b64 512) 9 55 ≠ 0) ∧
    (let s := three (some (cur .hand [] [])) [0, 5, 2]
     s.rankId 0 1 ∉ s.flt.failed ∧ s.rankId 0 1 ≠ (s.members 0).getD 1 0 ∧ s.rankId 0 1 ≠ s.ownIdent ∧ (cur .hand [] []).norms = [] ∧
       (cur .hand [] []).hands.length < (s.members 0).length) ∧
    (let s := { three none [0, 1, 2] with regs := [(0xA0000, 1), (0xA0060, 64)] }
     collStep (rn 4 (2 ^ 448)) = false ∧
       s.refAny (s.collDstRange (rn 4 (2 ^ 448))).1 (s.collDstRange (rn 4 (2 ^ 448))).2 s.inCommitted = true) := by
  refine ⟨⟨runs_command (by decide +kernel), ?_, ?_, ?_⟩, ?_, ?_, ?_, ?_, whole (by decide) rfl, ?_, ?_, writes _ (by decide +kernel), ?_, ?_⟩
    <;> decide +kernel

/-- Module 0 with fabric port 0 ACTIVE; a packet of module 1 for it, good or with its last byte changed. -/
def fabric : State := { host with ports := (host.ports ++ [(2, { live := true, st := .active })]) }
def fpk (ty eseq : Nat) (arg : W64) (n : Nat) : List Byte := mkFab 0 1 ty 0 (BitVec.ofNat 32 eseq) arg (List.replicate n 9)
def spoilt : List Byte := (fpk 1 0 3 0).dropLast ++ [0]
/-- A signal packet of a SYNC_SIGNAL command on its way to module 1. -/
def awaiting : State :=
  withCmd { fabric with
    fab := { sent := [{ dst := 1, eseq := 4, body := .sig 3 5, first := 0, last := 0 }] }
    sync := { remote := [{ owner := .cmd 0 0, peer := 1, eseq := 4, obj := 3, add := 5 }] } } (rn 0x0C farNum)

def arrivesOk (s : State) (sl : Bool) (b : List Byte) (ty : Nat) : Bool :=
  decide (s.fabUp 0 = true ∧ s.portStopped (.fab 0) = false ∧ s.flt.fenced = false ∧ s.host.ident = some (Fab.dst b) ∧ Fab.good sl b = true ∧
    Fab.ty b = ty)

theorem arrives {s : State} {sl : Bool} {b : List Byte} {ty : Nat} (h : arrivesOk s sl b ty = true) : Arrives s 0 sl b ty := by
  have g := of_decide_eq_true h
  exact g

theorem test_witness_FabricPacketResult :
    (Arrives fabric 0 false (fpk 0 0 0 4) 0 ∧ Fab.eseq (fpk 0 0 0 4) = Tab.get 0 fabric.fab.expect (2 * 1 + 0) ∧ fabric.dpm = false ∧
      Fab.len (fpk 0 0 0 4) = 4 ∧ Fab.arg (fpk 0 0 0 4) = 0 ∧ Fab.src (fpk 0 0 0 4) = 1 ∧ fabric.writeHeld (.addr 0) 4 = false) ∧
    Whole fabric 0 4 ∧
    (∀ e ∈ ([1, 2 ^ 32 - 1] : List Nat), arrivesOk fabric false (fpk 0 e 0 4) 0 = true ∧
      fabric.writeHeld (fabric.refOf (Fab.arg (fpk 0 e 0 4))) 4 = false ∧ (if e = 1 then 0 < (Fab.eseq (fpk 0 e 0 4)).toInt else (Fab.eseq (fpk 0 e 0 4)).toInt < 0)) ∧
    (Arrives fabric 0 true (fpk 1 0 3 0) 1 ∧ Fab.eseq (fpk 1 0 3 0) = 0) ∧
    (Arrives fabric 0 true (fpk 1 (2 ^ 32 - 1) 3 0) 1 ∧ (Fab.eseq (fpk 1 (2 ^ 32 - 1) 3 0)).toInt < 0) ∧
    (fabric.fabUp 0 = true ∧ fabric.portStopped (.fab 0) = false ∧ fabric.flt.fenced = false ∧ fabric.host.ident = some (Fab.dst spoilt) ∧
      Fab.ty spoilt = 1 ∧ Fab.good true spoilt = false) ∧
    (Arrives awaiting 0 true (fpk 2 4 0 0) 2 ∧ awaiting.coll.cur = [] ∧
      awaiting.sync.remote.find? (fun h => h.peer == Fab.src (fpk 2 4 0 0) && h.eseq == Fab.eseq (fpk 2 4 0 0)) =
        some { owner := .cmd 0 0, peer := 1, eseq := 4, obj := 3, add := 5 } ∧ awaiting.isRunning 0 0 = true) ∧
    Arrives awaiting 0 true (fpk 3 4 0 0) 3 ∧
    (fabric.host.ident = some 0 ∧ Tab.get 0 fabric.fab.expect 3 = 0 ∧ fabric.stb.changes = []) ∧
    (let s := { awaiting with now := 1000000, host := { awaiting.host with ident := some 5 }, stb := { known := [0] } }
     s.isMaster = false ∧ s.fab.sent = [{ dst := 1, eseq := 4, body := .sig 3 5, first := 0, last := 0 }] ∧ 1000000 ≤ s.now - 0) := by
  refine ⟨⟨arrives (by decide +kernel), ?_, ?_, ?_, ?_, ?_, ?_⟩, whole (by decide) rfl, ?_, ⟨arrives (by decide +kernel), ?_⟩,
    ⟨arrives (by decide +kernel), ?_⟩, ?_, ⟨arrives (by decide +kernel), ?_, ?_, ?_⟩, arrives (by decide +kernel), ?_, ?_⟩ <;> decide +kernel

/-! ## States for the hypotheses: the training step and the step base -/

/-- Module 0 in group 0 with the others, TRN_CFG as given (0 where the protocol is off), training state t. -/
def trn (hs : List (BitVec 12)) (cfg : W64) (t : TrnSt) : State :=
  { host with now := 10000000000, regs := if cfg = 0 then [] else [(0xA0000, cfg)], coll := { list := [(0, hs)], holder := [(0, hs)] }, trn := t }
/-- A DIGEST with NOCMP, a COMMIT of version 1 and of version 2. -/
def nocmpNum : Nat := 2 ^ 8 + 2 ^ 320
def commitNum (v : Nat) : Nat := v * 2 ^ 320

theorem forall_mem_of_all {α : Type} {l : List α} {P : α → Prop} [DecidablePred P] (h : l.all (fun x => decide (P x)) = true) :
    ∀ x ∈ l, P x := by simpa using h

theorem test_witness_DigestAndCheckpointResult :
    (∀ n ∈ ([nocmpNum, 0] : List Nat), runs (withCmd (trn [0, 1] 0 {}) (rn 9 n)) (rn 9 n) 9 = true ∧
      (withCmd (trn [0, 1] 0 {}) (rn 9 n)).memStopped = false ∧ (withCmd (trn [0, 1] 0 {}) (rn 9 n)).trn.cmps = [] ∧
      (withCmd (trn [0, 1] 0 {}) (rn 9 n)).granLocs ((withCmd (trn [0, 1] 0 {}) (rn 9 n)).wbuf 0) (withCmd (trn [0, 1] 0 {}) (rn 9 n)).wlen = []) ∧
    (Cmd.full (rn 9 nocmpNum) = true ∧ Cmd.opnd (rn 9 nocmpNum) 0 1 = 1 ∧ Cmd.full (rn 9 0) = false) ∧
    (1 ∈ (trn [0, 1] 0 {}).holders (trn [0, 1] 0 {}).rgrp ∧ (1 : BitVec 12) ∉ (trn [0, 1] 0 {}).flt.failed ∧ 1 ≠ (trn [0, 1] 0 {}).ownIdent ∧
      (trn [0, 1] 0 {}).trn.pubs = []) ∧
    (∃ p ∈ (trn [0, 1] 0 { pubs := [(5, 1, 7)] }).trn.pubs, (p.1, p.2.1) = (5, 1)) ∧
    (let s := trn [0, 1, 2] 0 { pubs := [(5, 2, 7)] }
     (∀ p ∈ s.trn.pubs, (p.1, p.2.1) ≠ (5, 1)) ∧ 0 ∈ s.holders s.rgrp ∧ (0 : BitVec 12) ≠ 1 ∧ (∀ p ∈ s.trn.pubs, (p.1, p.2.1) ≠ (5, 0))) ∧
    (∀ d ∈ ([7, 8] : List Nat),
      let s := withCmd (trn [0, 1] 0 { pubs := [(5, 0, 7), (5, 1, BitVec.ofNat 256 d)], cmps := [(5, some (0, 0), 0, 7)] }) (rn 9 0)
      s.kto * 100000 ≤ s.now ∧ (s.findCmd 0 0).isSome = true ∧
        (s.trn.pubs.filter (fun p => p.1 == 5)).filter (fun p => (s.holders s.rgrp).contains p.2.1) = [(5, 0, 7), (5, 1, BitVec.ofNat 256 d)] ∧
        (d = 8 → ∀ p ∈ s.trn.pubs, 2 * (s.trn.pubs.filter (fun o => o.2.2 == p.2.2)).length ≤ s.trn.pubs.length) ∧
        (d = 7 → ∀ p ∈ s.trn.pubs, p.2.2 = 7)) ∧
    (Runs (withCmd host (rn 0x0B 0)) 0 0 0x0B (rn 0x0B 0) ∧ (withCmd host (rn 0x0B 0)).memStopped = false ∧ host.dpm = false) ∧
    (Whole (withCmd host (rn 0x0B 0)) 0 (withCmd host (rn 0x0B 0)).wlen ∧ Whole (withCmd host (rn 0x0B 0)) (addrOp (rn 0x0B 0) 0) 4096) :=
  ⟨by decide +kernel, by decide +kernel, by decide +kernel, ⟨_, .head _, rfl⟩,
    ⟨forall_mem_of_all (by decide +kernel), by decide +kernel, by decide, forall_mem_of_all (by decide +kernel)⟩,
    fun d h => (show d = 7 ∨ d = 8 by simpa using h).elim
      (fun e => by
        subst e
        exact ⟨by decide +kernel, by decide +kernel, by decide +kernel, fun e => absurd e (by decide), fun _ => forall_mem_of_all (by decide +kernel)⟩)
      (fun e => by
        subst e
        exact ⟨by decide +kernel, by decide +kernel, by decide +kernel, fun _ => forall_mem_of_all (by decide +kernel), fun e => absurd e (by decide)⟩),
    ⟨runs_command (by decide +kernel), by decide +kernel, by decide +kernel⟩,
    ⟨whole (by decide +kernel) rfl, whole (by decide +kernel) rfl⟩⟩

theorem test_witness_CommitBarrierResult :
    (∀ v ∈ ([1, 2] : List Nat), runs (withCmd (trn [0, 1] 0 {}) (rn 0x0A (commitNum v))) (rn 0x0A (commitNum v)) 0x0A = true ∧
      Cmd.opnd (rn 0x0A (commitNum v)) 0 64 = v) ∧
    ((trn [0, 1] 0 {}).trn.cmt = none ∧ (trn [0, 1] 0 {}).trn.decision = none ∧ (trn [0, 1] 0 {}).trnVer = 0 ∧ (trn [0, 1] 0 {}).trnOn = false ∧
      (trn [0, 1] 0 {}).trn.recorded = none ∧ (∀ d ∈ [Decision.abandon 4 1, .flip],
        (trn [0, 1] 0 { recorded := some (1, d) }).trn.recorded = some (1, d) ∧ (1 : W64) ≠ 2) ∧
      (∀ b ∈ [true, false], (trn [1, 0] 1 { sent := b }).trn.sent = b ∧ (trn [1, 0] 1 { sent := b }).isLeader = false ∧
        (trn [1, 0] 1 { cmt := some (3, 7, 1) }).trn.cmt ≠ none)) ∧
    (∀ b ∈ [true, false],
      let t : TrnSt := { cmt := some (0, 0, 1), skip := b, normed := true, st := 2, gradIn := true }
      let s := withCmd (trn [1, 0] 1 t) (rn 0x0A (commitNum 1))
      s.trnOn = true ∧ s.trn.st ≠ 5 ∧ s.trn.sent = false ∧ s.isLeader = false ∧ s.abandonCause = (if b then some 1 else none) ∧ s.trn.st = 2 ∧ s.stepCleared = true ∧
        s.trn.mirrorBusy = false ∧ s.rsyncMet (rn 0x0A (commitNum 1)) = true ∧ s.findCmd 0 0 = some (rn 0x0A (commitNum 1))) ∧
    (let s := trn [0, 1] 1 { st := 2 }
     s.trnOn = true ∧ s.trn.decision = none ∧ s.isNews 2000 = true ∧ s.isLeader = true ∧ s.holders s.cgrp = [0, 1] ∧ (1 : BitVec 12) ∉ [(0 : BitVec 12)]) ∧
    (let s := trn [1, 0] 1 { st := 2, told := some (1, .flip, 2000) }
     s.trnOn = true ∧ s.isLeader = false ∧ s.isNews 2001 = true ∧ s.isNews 2000 = false) ∧
    (let s := withCmd (trn [0, 1] 1 { st := 3, cmt := some (0, 0, 1) }) (rn 0x0A (commitNum 1))
     s.isLeader = true ∧ s.mem.ue = [] ∧ s.recRef.num % 64 = 0 ∧ s.trn.told = none ∧ s.trn.decision = none ∧ s.cmtTo (rn 0x0A (commitNum 1)) * 100000 ≤ s.now - (rn 0x0A (commitNum 1)).runAt) ∧
    (∀ k ∈ ([2000, 1999] : List Nat),
      let s := { trn [0, 1] 1 { st := 3, cmt := some (0, 0, 1), decision := some (1, .flip, 2000) } with stb := { tick := BitVec.ofNat 64 k } }
      s.trn.decision = some (s.trnVer + 1, .flip, 2000) ∧ (k = 2000 ↔ (2000 : W64).toNat ≤ s.stb.tick.toNat) ∧ s.trnCfg 17 8 = 0) := by
  refine ⟨?_, ?_, ?_, ?_, ?_, ?_, ?_⟩ <;> decide +kernel

/-- The training registers of a job of one block each in group 0, and TRN_CFG 1. -/
def trnWord (n : Nat) : Nat := n + 2 ^ 25 + 2 ^ 41
def trnHost (on : Bool) : State :=
  { host with
      regs := [(0x30000, 1)] ++ (if on then [(0xA0000, b64 (trnWord 1))] else []) ++
        [(0xA0040, 0), (0xA0048, 0x1000), (0xA0050, 0x2000), (0xA0058, 0x3000), (0xA0060, 0x100000001), (0xA0068, 0x100000000), (0xA0070, 0x4000),
          (0xA0088, 0x10000000000), (0xB1000, 0x10001)]
      coll := { list := [(0, [0, 1])], holder := [(0, [0, 1])] } }
def busyTrn : State := withCmd (trnHost true) (cm 1 .queued)

/-- A STEP collective of group 0 in a phase. -/
def stepColl (ph : CollPhase) (norms : List (Nat × W64)) : Coll :=
  { q := 0, cmd := 0, seq := 0, desc := { dsc 1 with op := 0, step := true }, since := 0, phase := ph, norms := norms, hands := [shown 0 1] }
def stepping (ph : CollPhase) (norms : List (Nat × W64)) : State :=
  withCmd { trn [0, 1] 0 {} with coll := { list := [(0, [0, 1])], holder := [(0, [0, 1])], cur := [(0, some (stepColl ph norms))] } } (rn 4 0)

theorem test_witness_TrainingWindowResult :
    (∀ p ∈ ([(trnHost false, 0xA0000, trnWord 1), (host, 0xA0000, trnWord 1), (trnHost true, 0xA0000, trnWord 1),
        (trnHost true, 0xA0000, trnWord 3), (trnHost true, 0xA0000, trnWord 0), (trnHost true, 0xA0000, trnWord 2), (busyTrn, 0xA0000, trnWord 0),
        (trnHost false, 0xA0000, 1), (trnHost true, 0xA0000, 0)] : List (State × Nat × Nat)), Wr p.1 p.2.1 p.2.2) ∧
    ((trnHost false).trnOn = false ∧ ((trnHost false).setReg 0xA0000 (b64 (trnWord 1))).enableOk = true ∧ (trnHost false).mem.ue = [] ∧
      (host.setReg 0xA0000 (b64 (trnWord 1))).enableOk = false ∧ host.trnOn = false ∧ fld (b64 (trnWord 1)) 25 16 = 1 ∧
      fld (b64 (trnWord 1)) 41 16 = 1 ∧ fld (b64 1) 25 16 = 0) ∧
    ((trnHost true).trnOn = true ∧ (trnHost true).liveCmds = [] ∧ (trnHost true).reg 0xA0000 - 1 = b64 (trnWord 0) ∧ busyTrn.liveCmds.length = 1) ∧
    ((stepping .norm []).normColl = some (stepColl .norm []) ∧ (stepColl .norm []).susp = false ∧ (stepColl .norm []).norms = [] ∧
      (stepping .norm []).granLocs ((stepping .norm []).gradRef.add (stepping .norm []).shoff) (stepping .norm []).shlen = []) ∧
    (let s := stepping .norm [(0, 0), (1, 0)]
     s.normColl = some (stepColl .norm [(0, 0), (1, 0)]) ∧ s.mem.ue = [] ∧ s.recRef.num % 64 = 0 ∧ s.findCmd 0 0 = some (rn 4 0) ∧
       [((0, 0) : Nat × W64), (1, 0)].map (fun h => h.1) = List.range (s.members s.cgrp).length ∧
       [((0, 0) : Nat × W64), (1, 0)].find? (fun k => k.1 == 1) = some (1, 0)) ∧
    (let s := { host with trn := { mirrorBusy := true }, fab := { sent := [{ dst := 0, eseq := 0, body := .data 0 [], first := 0, last := 0 }] } }
     s.trn.mirrorBusy = true ∧ s.bulkOut s.buddy = true ∧ host.bulkOut host.buddy = false ∧ host.trn.mirrorLost = false) ∧
    (let s := { host with trn := { restoreBusy := true }, regs := [(0xA0060, 0x100000000), (0xA0080, 7)] }
     s.buddy ≠ s.ownIdent ∧ s.dpm = false ∧ s.olen = 4096 ∧ inOneTier (s.reg 0xA0058).toNat ((List.replicate 4096 (0 : Byte)).take s.olen).length = true) ∧
    (∀ l ∈ ([[(3, true, true), (3, false, true)], [(3, true, true)], [(3, false, false)]] : List (List (BitVec 4 × Bool × Bool))),
      ∀ t ∈ ([0, 1] : List Nat),
        let s := { trn [0, 1] 1 { bkReady := l } with regs := [(0xA0000, 1), (0xA0118, 0x2000001)], stb := { phase0 := BitVec.ofNat 32 t } }
        s.isLeader = true ∧ s.bkOn 3 = true ∧ s.trn.bkSel = [] ∧ s.trn.bkReady.filter (fun r => r.1 == 3) = l ∧ s.curColl s.cgrp = none ∧
          (s.phase.toNat < s.bkDeadline 3 ↔ t = 0) ∧ ((3, false, true) ∈ s.trn.bkReady ↔ l.length = 2)) ∧
    (let s := { stepping .hand [] with stb := { known := [] } }
     s.curColl s.cgrp = some (stepColl .hand []) ∧ s.kto * 100000 ≤ s.now ∧ s.bkList = [] ∧ 1 < (s.members s.cgrp).length ∧
       (∀ h ∈ (stepColl .hand []).hands, h.1 = 0) ∧ s.rankId s.cgrp 1 ≠ s.ownIdent ∧
       s.isFailed (s.rankId s.cgrp 1) = false ∧ ({ s with flt := { failed := [1] } } : State).isFailed (s.rankId s.cgrp 1) = true ∧
       (s.findCmd 0 0).isSome = true) ∧
    (let s := { host with trn := { st := 4, role := 7 } }; s.trn.st = 4 ∧ s.trn.role ≠ s.ownIdent) := by
  refine ⟨writes _ (by decide +kernel), ?_, ?_, ?_, ?_, ?_, ?_, ?_, ?_, ?_⟩ <;> decide +kernel

/-- A TIME packet with AT_TICK 100, STEP 7 and PHASE 9; a module whose step base is as given, its source 0, 1 or 2. -/
def timePkt : Packet :=
  { dw0 := 0xA + 2 ^ 5 + 4096, dw1 := 9, dw2 := 7, dw3 := 0, payload := [100] ++ List.replicate 31 0 }
/-- The state in which a TIME packet of AT_TICK 100 is applied. -/
def after (s : State) : State := ({ s with stb := { s.stb with times := [] } } : State).missAll 100 64
def base (src : Nat) (b : StbSt) : State := { host with regs := [(0x20000, BitVec.ofNat 64 (0x41C + src))], stb := b, now := 1000000 }

theorem test_witness_StepBaseResult :
    (∀ k ∈ ([0, 1] : List Nat), ((base k {}).port .pxu).st = .active ∧ (base k {}).serving = true ∧ fld timePkt.dw0 0 4 = 0xA ∧
      bit timePkt.dw0 5 = true ∧ (base k {}).addressed timePkt = true ∧ fld timePkt.dw0 12 11 ≠ 2047 ∧ headerFault timePkt = none ∧
      (base k {}).stbSrc = k) ∧
    (∀ k ∈ ([99, 100] : List Nat),
      let s := base 1 { tick := BitVec.ofNat 64 k, times := [{ due := 100, at_ := 100, step := 7, phase := 9 }] }
      s.stbSrc = 1 ∧ (k = 99 ↔ s.stb.tick.toNat < (100 : W64).toNat) ∧ (after s).stb.step.toNat < (7 : W64).toNat ∧ (after s).stb.r = none) ∧
    (let s := base 1 { tick := 100, step := 7, phase0 := 20, times := [{ due := 100, at_ := 100, step := 7, phase := 9 }] }
     (after s).stb.step = 7 ∧ (9 : W32).toNat < (after s).phase.toNat) ∧
    (∀ h ∈ ([9, 8] : List Nat),
      let s := base 1 { tick := 100, step := 7, phase0 := BitVec.ofNat 32 h, phaseAt := 100, times := [{ due := 100, at_ := 100, step := 7, phase := 9 }] }
      (after s).stb.step = 7 ∧ (after s).phase.toNat = h) ∧
    (let s := base 1 { tick := 100, r := some 50, times := [{ due := 100, at_ := 100, step := 7, phase := 9 }] }
     (after s).stb.r = some 50 ∧ (after s).stb.cad ≠ 3 ∧ (100 : W64).toNat < 50 + s.winMin) ∧
    ((base 0 {}).stbSrc = 0 ∧ (base 0 {}).isMaster = true ∧ (base 0 {}).stb.r = none ∧ (base 1 {}).stbSrc ≠ 0) ∧
    (let s := base 0 { r := some 0, tick := 1 }; s.stb.cad ≠ 3 ∧ s.stb.tick.toNat < 0 + s.winMin ∧ s.stb.tick.toNat ≤ 0 + s.winMax) ∧
    (let s := base 0 { r := some 0, tick := 1000000001 }; (s.stb.cad = 1) ∧ s.winMax < s.stb.tick.toNat) ∧
    (let s := base 0 { tick := 50, changes := [(7, 0, 50)] }; (50 : W64).toNat ≤ s.stb.tick.toNat ∧ s.stb.step.toNat < (7 : W64).toNat) ∧
    (let s := base 0 { tick := 50, step := 7, phase0 := 20, changes := [(7, 50, 50)] }; s.stb.step = 7 ∧ s.phaseFrom 0 50 < s.phase.toNat) ∧
    (let s := { base 0 {} with host := { host.host with ident := some 5 } }
     (4 : BitVec 12) ≠ s.ownIdent ∧ (4 : BitVec 12).toNat < s.master.toNat ∧ s.isMaster = true ∧ s.ownIdent.toNat < (6 : BitVec 12).toNat ∧
       s.stb.known = [] ∧ s.flt.failed = [] ∧ s.stb.step.toNat < (1 : W64).toNat ∧
       ({ s with stb := { step := 2 } } : State).stb.step.toNat = 2) ∧
    ((1 : BitVec 12) ≠ (base 0 {}).ownIdent) ∧
    (let s := { base 0 { known := [0] } with host := { host.host with ident := some 5 } }
     s.isMaster = false ∧ 200000 ≤ s.now - s.flt.masterAt ∧ s.onBase = false) ∧
    (∀ p ∈ ([(1, 0), (1, 4095), (2, 63)] : List (Nat × Nat)),
      let s := base 0 { evt := [(255, { w1 := BitVec.ofNat 64 (p.1 * 2 ^ 32 + 2 ^ 35 + (if p.1 = 1 then p.2 * 2 ^ 36 else p.2 * 2 ^ 48)) })] }
      s.onBase = true ∧ s.evtDue (s.evt 255) = true ∧ (s.evt 255).action = p.1 ∧ s.evtDue (s.evt 0) = false ∧ (s.evt 255).arg < 64 ∧
        s.homeStopped (s.evt 255).arg = false) ∧
    (let s := { base 0 { phase0 := 5 } with regs := [(0x20000, 0x41C), (0x20100, 1 + 2 * 5)], tl := { tile := [(0, { til with core := .lockWait })], launches := [{ lau with lock := some 0 }] } }
     s.lgOn 0 = true ∧ s.onBase = true ∧ (0 : W32).toNat / s.lgPeriod 0 < s.phase.toNat / s.lgPeriod 0 ∧ (s.tile 0).core = .lockWait ∧
       s.tileHeld 0 = false ∧ s.launchOf 0 = some { lau with lock := some 0 } ∧ (base 0 {}).lgOn 0 = false) := by
  and_intros <;> decide +kernel

/-! ## States for the hypotheses: duplicate checking and tests, faults -/

/-- Cluster 0 as given, at a time and with CHK_CFG as given. -/
def clu (x : Cluster) (t : Nat) (chk : Nat) : State := { now := t, regs := [(0x40000, b64 chk)], flt := { cluster := [(0, x)] } }
/-- Tile 0 and the Mordant disagree. -/
def disagree : Arb := { tile := 0, pos := 0, checkerPos := 16, sigTile := 1, sigChecker := 2, q := 0, seq := 0 }
/-- A window on a position. -/
def window (p : Nat) (cleared : Bool) : TestWin := { pos := p, openedAt := 0, cmd := none, cleared := cleared }
def testing (p : Nat) (l : List (Nat × Role)) : Cluster :=
  { roles := l.foldl (fun r e => r.set e.1 e.2) ({} : Cluster).roles, win := some (window p true) }

theorem test_witness_CheckAndTestResult :
    (let k : Check := { tile := 3, pos := 3, checkerPos := 16, q := 0, seq := 0 }
     (((clu { checks := [k, k] } 0 1).cluster 0).checks.filter (fun x => x.tile == 3) = k :: [k]) ∧
       ((clu { checks := [k] } 0 1).cluster 0).checks.filter (fun x => x.tile == 2) = []) ∧
    (let s : State := { flt := { arbs := [disagree] } }
     s.thirdReady disagree = true ∧ crowded.thirdReady unequal = false ∧
     s.flt.arbs.find? (fun a => a.tile == 0) = some disagree ∧ s.flt.uses = [] ∧ (s.cluster 0).levels.getD 0 0 = 0 ∧
       (s.cluster 0).levels.getD 16 0 = 0 ∧ (s.cluster 0).fsteps < 3 ∧ (2 : W64) = disagree.sigChecker ∧ (1 : W64) = disagree.sigTile ∧
       (1 : W64) ≠ disagree.sigChecker ∧ (3 : W64) ≠ disagree.sigChecker ∧ (3 : W64) ≠ disagree.sigTile) ∧
    ((clu {} 0 2).plaus 0 = true ∧ (clu {} 12499 1).plaus 0 = false ∧ (clu {} 12499 1).twoCheckers 0 = false ∧
      (clu {} 12500 1).plaus 0 = false ∧ (clu {} 25000 5).twoCheckers 0 = true ∧ (clu {} 25000 5).plaus 0 = false) ∧
    (∀ l ∈ ([16, 17] : List Nat), ((clu { lastPos := l } 1100000 0).cluster 0).win = none ∧
      ((clu { lastPos := l } 1100000 0).cluster 0).rotation.head? = some ((l + 1) % 18) ∧
      fld ((clu { lastPos := l } 1100000 0).reg 0x40010) 0 4 * 100000 ≤ 1100000 - ((clu { lastPos := l } 1100000 0).cluster 0).lastWin) ∧
    (({} : Cluster).role 17 = .spare ∧ ({} : Cluster).role 0 = .work 0) ∧
    (let s := clu { win := some (window 0 false) } 0 0
     (s.cluster 0).win = some (window 0 false) ∧ (s.cluster 0).role 0 = .work 0 ∧ s.testCover 0 0 = some 17 ∧ s.tl.moves = [] ∧
       (s.tile 0).hasContext = false) ∧
    (let s : State := { clu { win := some (window 0 false) } 0 0 with tl := { tile := [(0, { til with atBlk := true })] } }
     (s.cluster 0).role 0 = .work 0 ∧ s.testCover 0 0 = some 17 ∧ (s.tile 0).hasContext = true ∧ (s.tile 0).atYield = true ∧
       s.tileHeld 0 = false) ∧
    (let k : Check := { tile := 3, pos := 3, checkerPos := 16, q := 0, seq := 0 }
     ∀ l ∈ [[k], []],
       let s := clu { win := some (window 16 false), checks := l } 0 0
       (s.cluster 0).role 16 = .mordant ∧ s.testCover 0 16 = some 17 ∧ s.flt.arbs = [] ∧ (l = [] ∨ k ∈ (s.cluster 0).checks)) ∧
    (let s := clu { win := some (window 0 false), roles := (List.range 16).map Role.work ++ [.mordant, Role.retired] } 0 0
     (s.cluster 0).role 0 ≠ .testing ∧ s.testCover 0 0 = none ∧ s.flt.selftests = []) ∧
    (∀ x ∈ [testing 17 [(17, .testing)], testing 16 [(16, .testing)]],
      ((clu x 0 0).cluster 0).win.isSome = true ∧ ((clu x 0 0).cluster 0).role (((clu x 0 0).cluster 0).win.map (fun w => w.pos)).get! = .testing ∧
        (clu x 0 0).flt.selftests = [] ∧ (clu x 0 0).flt.uses = [] ∧
        ((Role.spare ∈ x.roles ∧ Role.mordant ∉ x.roles) ↔ x.role 16 = .testing)) ∧
    (∀ n ∈ ([0, 2 ^ 8, 2 ^ 8 + 2 ^ 337] : List Nat), runs (withCmd host (rn 0x10 n)) (rn 0x10 n) 0x10 = true ∧
      (Cmd.full (rn 0x10 n) = decide (n ≠ 0)) ∧ Cmd.opnd (rn 0x10 n) 16 1 = 0 ∧ (withCmd host (rn 0x10 n)).flt.selftests = [] ∧
      (withCmd host (rn 0x10 n)).flt.uses = [] ∧ (∀ k, k < 16 → ((withCmd host (rn 0x10 n)).cluster k).win = none) ∧
      (∀ k, k < 16 → ((withCmd host (rn 0x10 n)).cluster k).rotation ≠ [])) ∧
    (∀ b ∈ [true, false], ({ flt := { marginDue := b, repairDue := !b } } : State).flt.marginDue = b ∧
      ({ flt := { marginDue := b, repairDue := !b } } : State).flt.repairDue = !b) := by
  and_intros <;> decide +kernel

/-- The module at 10,000,000 with its faults as given. -/
def flts (f : FltSt) : State := { host with now := 20000000, flt := f }

theorem test_witness_FaultsAndFencingResult :
    ((host.cluster 0).clockFault = none ∧ (host.cluster 0).lost = false ∧ host.flt.uses = []) ∧
    (∀ t ∈ ([19990001, 19990000] : List Nat), (((flts { cluster := [(0, { clockFault := some t })] }).cluster 0).clockFault = some t) ∧
      (flts { cluster := [(0, { clockFault := some t })] }).flt.fenced = false ∧
      ((flts {}).now - t < 10000 ↔ t = 19990001)) ∧
    ({ host with pwr := { pd := [(5, 1)] } } : State).pwr.pd.length = 1 ∧
    (Tab.get 2 ({ host with pwr := { pd := [(5, 1)] } } : State).pwr.pd 5 < 2 ∧ Tab.get none host.flt.volt 5 = none ∧
      2 ≤ Tab.get 2 host.pwr.pd 5 ∧ domainVital 5 = false ∧ domainVital 61 = true ∧ host.flt.fenced = false) ∧
    (∀ t ∈ ([19900000, 19899999] : List Nat), Tab.get none (flts { volt := [(5, some t)] }).flt.volt 5 = some t ∧
      ((flts { volt := [(5, some t)] }).now - t ≤ 100000 ↔ t = 19900000) ∧ (flts { volt := [(5, some t)] }).flt.fenced = false) ∧
    (∀ t ∈ ([10000000, 9999999] : List Nat), Tab.get none (flts { hot := [(2, some t)] }).flt.hot 2 = some t ∧
      ((flts { hot := [(2, some t)] }).now - t ≤ 10000000 ↔ t = 10000000) ∧ Tab.get none (flts {}).flt.hot 2 = none) ∧
    ((flts { fenced := true }).flt.fenced = true ∧ (flts { hbAt := 19900001 }).now - 19900001 < 100000 ∧ (flts {}).flt.fenced = false ∧
      100000 ≤ (flts {}).now - (flts {}).flt.hbAt ∧ host.boot.released = true ∧
      ({ host with boot := { released := false } } : State).boot.released = false) ∧
    (let s := { flts {} with stb := { known := [0] }, host := { host.host with ident := some 5 } }
     s.isMaster = false ∧ 1000000 ≤ s.now - s.flt.masterAt ∧ s.flt.fenced = false ∧ s.flt.silent = none ∧ (flts {}).isMaster = true) ∧
    ((flts { silent := some (3, 0) }).flt.silent = some (3, 0) ∧ 1000000 ≤ (flts { silent := some (3, 0) }).now - 0) ∧
    (let s := { flts { heard := [(1, 19500000)] } with stb := { known := [0] }, host := { host.host with ident := some 5 } }
     Tab.get 0 s.flt.heard 1 ≠ 0 ∧ 500000 ≤ s.now - Tab.get 0 s.flt.heard 1 ∧ (1 : BitVec 12) ∉ s.flt.failed ∧ s.flt.fenced = false ∧
       s.isMaster = false ∧ Tab.get 0 s.flt.heard 2 = 0) ∧
    ((1 : BitVec 12) ∈ (flts { failed := [1] }).flt.failed ∧ (0 : BitVec 12) = host.ownIdent ∧ (0 : BitVec 12) ∉ host.flt.failed ∧
      (100 : BitVec 12) ≠ host.ownIdent ∧ (100 : BitVec 12) ∉ host.flt.failed ∧ host.trnOn = false ∧ host.sync.remote = []) ∧
    ((∀ g, g < 256 → host.curColl g = none) ∧ (∀ r, r < 4 → ∀ p, p < host.wrSize r → host.holderOf (host.wrRole r p) ≠ 100)) := by
  refine ⟨?_, ?_, ?_, ?_, ?_, ?_, ?_, ?_, ?_, ?_, ?_, ?_⟩ <;> decide +kernel

/-! ## States for the hypotheses: power, start-up, update, the sideband -/

/-- The module with its power state as given, at 20,000,000. -/
def powered (p : PwrSt) : State := { host with now := 20000000, pwr := p }
def off (p : PwrSt) : State := { powered p with boot := { released := false } }

theorem test_witness_PowerSequencingResult :
    ((powered {}).pwr.en = true ∧ (powered { en := false }).pwr.en = false ∧ (powered { en := false, vinOk := false }).pwr.vinOk = false) ∧
    (∀ t ∈ ([19000001, 19000000] : List Nat), (powered { en := false, inputFault := true, lowAt := t }).pwr.inputFault = true ∧
      ((powered {}).now - t < 1000000 ↔ t = 19000001)) ∧
    (let p := (powered { pgood := false, pd := [(62, 0)] }).pwr
     p.en = true ∧ p.inputFault = false ∧ p.trip = false ∧ p.upFail = false ∧ p.pgood = false ∧ Tab.get 2 p.pd 62 = 0) ∧
    (Tab.get 2 (powered {}).pwr.pd 62 = 2 ∧ (powered {}).pwr.trip = false ∧ (powered { trip := true }).pwr.trip = true) ∧
    ((powered {}).boot.released = true ∧ (off {}).boot.released = false ∧ (off {}).pwr.en = true ∧ (off {}).pwr.pgood = true ∧
      (off {}).pwr.trip = false ∧ (off {}).pwr.inputFault = false) ∧
    (∀ g ∈ ([0, 1, 57] : List Nat),
      let p := (powered { pgood := false, groups := g, pd := [((groupDomains g).headD 0, 1)] }).pwr
      p.en = true ∧ p.upFail = false ∧ p.inputFault = false ∧ p.trip = false ∧ p.pgood = false ∧ p.groups < 58 ∧
        Tab.get 2 p.pd ((groupDomains p.groups).headD 0) = 1 ∧ 150000 ≤ (powered p).now - p.groupAt) ∧
    ((powered {}).now - (powered { groupAt := 19850001 }).pwr.groupAt < 150000) := by
  refine ⟨?_, ?_, ?_, ?_, ?_, ?_, ?_⟩ <;> decide +kernel

theorem test_witness_ThrottlingResult :
    ((State.reset.boot.stage < 5) ∧ 5 ≤ host.boot.stage ∧ host.boot.stage ≠ 8 ∧ (host.cluster 0).cool < 9 ∧
      9 ≤ ((clu { cool := 9 } 0 0).cluster 0).cool) ∧
    (fld ((powered {}).reg 0x60000) 0 12 = 2400 ∧ (powered {}).pwr.pgood = true ∧ (powered {}).boot.released = true ∧ (powered {}).pwr.low < 9 ∧
      9 ≤ (powered { low := 9 }).pwr.low ∧ 100 * 2280 ≤ 95 * 2400 ∧ ¬ 100 * 2281 ≤ 95 * 2400 ∧ (powered { pgood := false }).pwr.pgood = false) := by
  decide +kernel

/-- A boot stage, and a flash device whose settings bank holds one record, its type and body as given. -/
def staged (n : Nat) : State := { boot := { stage := n } }
def flashOf (ty : Nat) (body : List Byte) : Flash :=
  let h : List Byte := [0x53, 0x42, 0x4E, 0x4B, 1, 0, 0, 0]
  { mode := 1, byte := (((h ++ toBytesLE 4 (crcOf h) ++ List.replicate 20 0 ++ ({ ty := ty, fmt := 1, seq := 1, body := body } : SetRec).bytes).zipIdx
      0x10000).map (fun (b, i) => (i, b))) }

/-- The module that decides for its domain, in a state of it. -/
def forming (d : DomSt) (expect : W64) : State :=
  { host with now := 50000000, regs := [(0x30000, 1), (0x50028, expect), (0x50020, 0x6481)], dom := d }
/-- Module 5, which module 0 leads. -/
def fifth : State := { forming {} 1 with stb := { known := [0] }, host := { host.host with ident := some 5 } }
/-- A BOOTCTL record as given, on a device that is only read. -/
def fl (c : BootCtl) : State := { staged 3 with boot := { stage := 3, fl0 := { flashOf 1 (c.body.take 2) with ro := true } } }
def bootWr (s : State) (o w : Nat) : Prop := BootWrites s (wr o (b64 w)) o (b64 w)

theorem bootWrites (l : List (State × Nat × Nat))
    (h : l.all (fun p => pxuOk p.1 (wr p.2.1 (b64 p.2.2)) 3 && fld (wr p.2.1 (b64 p.2.2)).dw1 0 20 == p.2.1 &&
      (wr p.2.1 (b64 p.2.2)).dw3 ++ (wr p.2.1 (b64 p.2.2)).dw2 == b64 p.2.2 && decide (0x50000 ≤ p.2.1) && decide (p.2.1 < 0x51000)) = true) :
    ∀ p ∈ l, bootWr p.1 p.2.1 p.2.2 := by
  intro p hp
  have q := List.all_eq_true.mp h p hp
  simp only [Bool.and_eq_true, beq_iff_eq, decide_eq_true_eq] at q
  exact ⟨onPxu q.1.1.1.1, q.1.1.1.2, q.1.1.2, q.1.2, q.2⟩

/-- An image without the magic number of a manifest. -/
theorem no_magic {rd : Nat → Nat → List Byte} (h : le4 (rd 0 4096) 0 ≠ 0x4D465A55) : imageFault rd 0 0 = some (0x0901, 0) := by
  have g : Man.ok (rd 0 4096) = false := by simp [Man.ok, h]
  simp only [imageFault, g]
  rfl

theorem first_word (g : Nat → Byte) : le4 ((List.range 4096).map g) 0 = ofBytesLE ((List.range 4).map g) := by
  simp [le4, leAt, ← List.map_take, List.take_range]

/-- A slot whose first bytes are not a manifest's does not verify. -/
theorem slot_fails {s : State} {d : Bool} (u : (s.dev d).up = true) (h : ofBytesLE ((s.dev d).at slotBase 4) ≠ 0x4D465A55)
    (v : s.boot.svnMin = 0) (r : s.boot.revoked = 0) : s.slotFault d = some 0x0901 := by
  have g := no_magic (rd := s.slotRead d) (by rw [State.slotRead, Nat.add_zero, Flash.at, first_word]; exact h)
  rw [State.slotFault, v, r, g]
  simp [u]

/-- The device is up, its slot holds no manifest, no fuse is set: what `slot_fails` asks. -/
def blank (s : State) (d : Bool) : Bool :=
  (s.dev d).up && ofBytesLE ((s.dev d).at slotBase 4) != 0x4D465A55 && s.boot.svnMin == 0 && s.boot.revoked == 0

theorem blank_fails {s : State} {d : Bool} (h : blank s d = true) : s.slotFault d = some 0x0901 := by
  simp only [blank, Bool.and_eq_true, bne_iff_ne, beq_iff_eq] at h
  exact slot_fails h.1.1.1 h.1.1.2 h.1.2 h.2

/-- Where the clauses assume that an image verifies, the crypto functions of the configuration decide (log 5): no theorem can settle
them, and the other hypotheses of those clauses are what stands here. -/
theorem test_witness_StartUpResult :
    ((off {}).boot.released = false ∧ 6 < host.boot.stage ∧ (∀ n ∈ ([0, 1, 2, 3, 4, 5, 6] : List Nat), (staged n).boot.released = true ∧
      (staged n).boot.stage = n) ∧ (staged 2).tieTypes = [] ∧ (staged 2).evenRecs.setting 2 = none) ∧
    (let s : State := { boot := { stage := 2, fl0 := flashOf 2 (toBytesLE 8 1 ++ toBytesLE 8 7) } }
     s.tieTypes = [] ∧ s.evenRecs.setting 2 = some (toBytesLE 8 1 ++ toBytesLE 8 7)) ∧
    (∀ c ∈ ([{ prevValid := true }, { prevValid := false }] : List BootCtl), (fl c).bootctl = c ∧ (fl c).bootctl.trialEn = false ∧
      blank (fl c) false = true ∧ (fl c).slotFault true = some 0x0902) ∧
    (∀ c ∈ ([{ trialEn := true, boots := 3 }, { trialEn := true, secs := 900 }] : List BootCtl), (fl c).bootctl = c ∧
      blank ((fl c).writeBootctl { c with trialEn := false, prevValid := false }) c.conf = true) ∧
    (let c : BootCtl := { trialEn := true, boots := 2, secs := 899 }
     (fl c).bootctl = c ∧ ((fl c).writeBootctl { c with boots := c.boots + 1, secs := min 900 (c.secs + 60) }).slotFault (!c.conf) = some 0x0902) ∧
    ((staged 4).repairs = [] ∧ (staged 5).setting 4 = none ∧ (staged 5).flt.fenced = false ∧ (staged 5).flt.selftests = [] ∧
      (staged 5).tl = {} ∧ ((staged 6).port .pxu).st ≠ .active ∧
      (({ host with boot := { stage := 6 } } : State).port .pxu).st = .active) ∧
    ((staged 3).dev false = {} ∧ ((staged 3).dev true).mode = 0 ∧ ((fl {}).dev false).mode ≠ 0 ∧ ((fl {}).dev false).tries < 3) ∧
    ((staged 7).domMaster = false ∧ (forming {} 1).domMaster = true ∧ (forming {} 1).dom.decided = false ∧
      (forming { decided := true, present := 1 } 1).dom.decided = true ∧
      (forming { decided := true, present := 1 } 1).presentNow = 1 ∧ (forming { decided := true, present := 3 } 1).presentNow ≠ 3) ∧
    ((forming {} 1).domExpect &&& (forming {} 1).presentNow = (forming {} 1).domExpect ∧
      (forming {} 3).domExpect &&& (forming {} 3).presentNow ≠ (forming {} 3).domExpect ∧ (forming {} 3).formTo = 201 ∧
      (forming { electAt := 29900001 } 3).now - 29900001 < 201 * 100000 ∧ 201 * 100000 ≤ (forming { electAt := 29900000 } 3).now - 29900000) ∧
    (∀ p ∈ ([(forming {} 1, 0x50040, 2), (forming {} 1, 0x50040, 0), (forming { st := 2 } 1, 0x50040, 1), (forming { st := 4 } 1, 0x50040, 1)] : List (State × Nat × Nat)),
      bootWr p.1 p.2.1 p.2.2) ∧
    BootWrites fifth ({ wr 0x50040 1 with dw0 := (wr 0x50040 1).dw0 + 5 * 64 }) 0x50040 1 ∧
    ((forming { st := 2 } 1).dom.st = 2 ∧ (forming { st := 4 } 1).domMaster = true ∧
      fifth.domMaster = false ∧ fifth.isMaster = false ∧ fifth.host.ident.isSome = true ∧ fld (fifth.reg 0x30000) 0 2 ≠ 0) := by
  refine ⟨?_, ?_, ?_, ?_, ?_, ?_, ?_, ?_, ?_, bootWrites _ (by decide +kernel), ⟨onPxu (by decide +kernel), ?_, ?_, ?_, ?_⟩, ?_⟩ <;> decide +kernel

/-- The update controller in a state, running or in RECOVERY; the image to program at 0x1000. -/
def upd (x : BootSt) (ue : List Nat) : State := { host with now := 6000000000, regs := [(0x50100, 0x1000)], boot := x, mem := { ue := ue } }
def run7 (n : Nat) : State := upd { stage := 7, upd := n, selfOk := true } []
def rec8 (n : Nat) : State := upd { stage := 8, upd := n } []

theorem fit_length (n : Nat) (b : List Byte) : (fit n b).length = n := by
  simp only [fit, List.length_take, List.length_append, List.length_replicate]; omega

/-- The report is the 14,912 bytes that Table 15.13 gives it, whatever the module's crypto functions answer. -/
theorem test_report_length (s : State) (n : List Byte) : (s.report n).length = 14912 := by
  have h : s.measures.length = 336 := by
    simp only [State.measures, List.length_append, fit_length, List.length_flatMap]
    rfl
  have g : s.aliasCert.length = 5504 := by
    simp only [State.aliasCert, signed, List.length_append, fit_length, List.length_replicate, toBytesLE, List.length_cons, List.length_nil]
  simp only [State.report, signed, List.length_append, fit_length, List.length_replicate, toBytesLE, List.length_cons, List.length_nil, h, g]

theorem unsigned_image {s : State} (h : ofBytesLE (s.peek (s.updSrc + 0) 4) ≠ 0x4D465A55) : imageFault s.updRead 0 0 = some (0x0901, 0) :=
  no_magic (by rw [State.updRead, State.peek, first_word]; exact h)

/-- Two clauses of the end of PROGRAM assume that the image verifies: see the note at the witness of the boot stages. -/
theorem test_witness_FirmwareUpdateResult :
    (∀ p ∈ ([(run7 0, 0x50108, 1), (run7 2, 0x50108, 1), (run7 1, 0x50108, 1), (rec8 2, 0x50108, 2), (run7 2, 0x50108, 2), (run7 0, 0x50108, 2),
        (run7 4, 0x50108, 3), (run7 3, 0x50108, 3), (run7 2, 0x50108, 4), (run7 3, 0x50108, 4), (run7 4, 0x50108, 4), (run7 0, 0x50108, 5),
        (run7 1, 0x50108, 5), (run7 0, 0x50200, 2 ^ 43), (run7 0, 0x50200, 2 ^ 42 + 1), (run7 0, 0x50200, 0), (run7 0, 0x50200, 2 ^ 42 + 32)] :
        List (State × Nat × Nat)), bootWr p.1 p.2.1 p.2.2) ∧
    ((run7 0).recovery = false ∧ (rec8 2).recovery = true ∧ (run7 4).boot.selfOk = true ∧ (run7 0).boot.att = none ∧ 32 % 32 = 0 ∧
      inOneTier 32 14912 = true ∧ 1 % 32 ≠ 0) ∧
    ((run7 0).boot.upd ≠ 1 ∧ (run7 1).boot.upd = 1 ∧ (run7 1).updUe = none ∧
      imageFault (run7 1).updRead (run7 1).boot.svnMin (run7 1).boot.revoked = some (0x0901, 0)) ∧
    ((let s := upd { stage := 7, upd := 1 } [0x1000 / 64]
      s.updBlocks = 0 ∧ s.boot.upd = 1) ∧ ((run7 1).dev false).writable = false ∧ (flashOf 2 []).writable = true) ∧
    (let s := { upd { stage := 7, upd := 1 } [0x1000 / 64] with mem := { byte := [(0x1008, 5)], ue := [0x1000 / 64] } }
     s.boot.upd = 1 ∧ s.updUe = some 0) ∧
    (let s := upd { stage := 7, upd := 4, trial := true } []
     s.boot.trial = true ∧ s.boot.fallAt = none ∧ 6000000000 ≤ s.now - s.boot.trialAt ∧ s.bootctl.secs < 900 ∧ s.flt.fenced = false) ∧
    (let s := upd { stage := 7, upd := 4, trial := true, fl0 := flashOf 1 (({ trialEn := true, secs := 900 } : BootCtl).body.take 2) } []
     s.boot.fallAt = none ∧ s.boot.trial = true ∧ s.boot.upd = 4 ∧ 900 ≤ s.bootctl.secs ∧ s.flt.fenced = false) ∧
    (∀ t ∈ ([5990000001, 5990000000] : List Nat), (upd { fallAt := some t } []).boot.fallAt = some t ∧
      ((upd { fallAt := some t } []).now - t < 10000000 ↔ t = 5990000001)) ∧
    ((upd { att := some (32, []) } []).boot.att = some (32, []) ∧
      Whole (upd { att := some (32, []) } []) 32 ((upd { att := some (32, []) } []).report []).length) := by
  refine ⟨bootWrites _ (by decide +kernel), ?_, ⟨?_, ?_, ?_, unsigned_image (by decide +kernel)⟩, ?_, ?_, ?_, ?_, ?_, rfl,
    by rw [test_report_length]; exact whole (by decide +kernel) rfl⟩ <;> decide +kernel

theorem test_witness_SidebandResult :
    (∀ t ∈ ([18000001, 18000000] : List Nat), (powered { enAt := t }).pwr.en = true ∧ Tab.get 2 (powered { enAt := t }).pwr.pd 62 = 2 ∧
      (2000000 ≤ (powered { enAt := t }).now - (powered { enAt := t }).pwr.enAt ↔ t = 18000000)) ∧
    (Tab.get 2 (powered { pd := [(62, 0)] }).pwr.pd 62 ≠ 2 ∧ (powered {}).pwr.rstN = true ∧ (powered { rstN := false }).pwr.rstN = false) := by
  decide +kernel

/-! ## The whole machine -/

theorem test_witness_StepRunsTheFrontCommand :
    ({ State.reset with pending := [.heartbeatSend] } : State).pending = .heartbeatSend :: [] ∧ State.reset.pending = [] ∧
    State.reset.boot.released = true ∧ (off {}).pending = [] ∧ (off {}).boot.released = false := by
  decide +kernel

theorem test_witness_TileRegistersHoldWhatWasWritten : (1 : Nat) ≠ 0 ∧ (2 : Nat) ≠ 1 ∧ (0 : Nat) < 2 ∧ (1 : Nat) < 2 := by decide

theorem test_witness_MemoryStaysCanonical :
    (∀ m ∈ ([{}, { byte := [(0, 1), (7, 2)] }] : List MemSt), Memory.wf m = true) ∧ Memory.wf { byte := [(7, 2), (0, 1)] } = false ∧
    step { State.reset with pending := [.powerFastLimit] } = .next { State.reset with pwr := { kp := 8, low := 0 } } :=
  ⟨by decide +kernel, by decide +kernel, rfl⟩

theorem test_witness_FusesAndQueueAreKept :
    ∃ s s' : State, step s = .next s' ∧ s.boot.svnMin = 3 ∧ s.boot.revoked.getLsbD 1 = true ∧ s.pending = [.powerFastLimit] :=
  ⟨{ State.reset with pending := [.powerFastLimit], boot := { svnMin := 3, revoked := 2 } }, _, rfl, rfl, rfl, rfl⟩

theorem test_witness_FabricPacketReadsBack :
    (4 : Nat) ≤ 4 ∧ (15 : Nat) < 16 ∧ (List.replicate 256 (1 : Byte)).length % 4 = 0 ∧
    (List.replicate 256 (1 : Byte)).length ≤ (if true then 256 else 8192) ∧
    (List.replicate 260 (1 : Byte)).length ≤ (if false then 256 else 8192) := by
  decide +kernel

theorem test_witness_JobSeedRegister :
    (∀ p ∈ ([(host, 0x108, 5), (busyHost, 0x108, 5)] : List (State × Nat × Nat)), Wr p.1 p.2.1 p.2.2) ∧ host.busy = false ∧ busyHost.busy = true ∧
    (OnPxu host (rd 0x108) 0x2 ∧ fld (rd 0x108).dw1 0 20 = 0x108 ∧ host.recovery = false ∧ host.putWaits = false) :=
  ⟨writes _ (by decide +kernel), by decide +kernel, by decide +kernel, onPxu (by decide +kernel), by decide +kernel, rfl, rfl⟩

theorem test_witness_FaultCountersCountAndAreReadOnly :
    (∀ p ∈ ([(host, 0x40100, 1), (host, 0x401D8, 1)] : List (State × Nat × Nat)), Wr p.1 p.2.1 p.2.2) ∧ 0x401D8 = 0x40100 + 8 * 27 ∧
    (OnPxu host (rd 0x401D8) 0x2 ∧ fld (rd 0x401D8).dw1 0 20 = 0x401D8) ∧ host.tensorSlot 7 = none ∧ (1 : Nat) ≠ 0 ∧
    (({ host with regs := [(0x41000, 0x1000009)] } : State).tensorSlot 9).isSome = true :=
  ⟨writes _ (by decide +kernel), rfl, ⟨onPxu (by decide +kernel), by decide +kernel⟩, by decide +kernel, by decide, by decide +kernel⟩

/-! ## Results worked out by hand -/

/-- The published check values of CRC-32C and of CRC-8 with the polynomial 0x07: over the ASCII digits 1 to 9. -/
theorem test_crcs : crc32c ((List.range 9).map (fun i => BitVec.ofNat 8 (0x31 + i))) = 0xE3069283 ∧
    crc8 ((List.range 9).map (fun i => BitVec.ofNat 8 (0x31 + i))) = 0xF4 := by
  decide +kernel
end Sys2Proof.Tests
end

section
/-! SUPPORT. Signals, sync waits and credit queues (01 R16; 04 R105 to R110): what a start, a signal, the end of a wait and a
passed stall bound do to the state, and the statement about them. -/
namespace Sys2Proof.Machine

/-! ## The parts of a tile context after an update -/

@[simp] theorem Tile.running_setRunning_same (x : Tile) (e : Eng) (l : List EInstr) : (x.setRunning e l).running e = l :=
  Tab.get_put_same _ _ _ _
@[simp] theorem Tile.queue_setQueue_same (x : Tile) (e : Eng) (l : List EInstr) : (x.setQueue e l).queue e = l :=
  Tab.get_put_same _ _ _ _

/-- A write to a scalar register changes the scalar registers alone. -/
theorem Tile.wr_frame (x : Tile) (n : Nat) (v : W64) : x.wr n v = { x with s := (x.wr n v).s } := by
  unfold Tile.wr
  split <;> rfl

theorem Tile.rd_wr (x : Tile) (n : Nat) (v : W64) : (x.wr n v).rd n = if n = 0 then 0 else v := by
  split
  · next h => subst h; rfl
  · next h => exact Tile.rd_wr_same x n v h

theorem Tile.ev_setEv (x : Tile) (e k : Nat) (v : BitVec 4) : (x.setEv e v).ev k = if k = e then v else x.ev k :=
  Tab.get_put _ _ _ _ _

/-! ## Local events (03 R69, 04 R88) -/

theorem Tile.waitsMet_of_ev {x : Tile} {w : W64} (h : ∀ k ∈ W.waits w, x.ev k ≠ 0) : x.waitsMet w = true := by
  simpa [Tile.waitsMet] using h

/-- One event signalled: Tile.giveSigs runs this over the slots of the word. -/
def Tile.giveSig (acc : Tile × Bool) (e : Nat) : Tile × Bool :=
  if acc.1.ev e = 15 then (acc.1, true) else (acc.1.setEv e (acc.1.ev e + 1), acc.2)

theorem Tile.giveSigs_eq_foldl (x : Tile) (w : W64) : x.giveSigs w = (W.sigs w).foldl Tile.giveSig (x, false) := rfl

/-- Distinct events that are not full each rise by 1, and nothing else of the context changes. -/
theorem Tile.foldl_giveSig (l : List Nat) (x : Tile) (hn : l.Nodup) (hv : ∀ k ∈ l, x.ev k ≠ 15) :
    ∃ y : Tile, l.foldl Tile.giveSig (x, false) = (y, false) ∧ y = { x with e := y.e } ∧
      ∀ k, y.ev k = x.ev k + (if k ∈ l then 1 else 0) := by
  induction l generalizing x with
  | nil => exact ⟨x, rfl, rfl, by simp⟩
  | cons a l ih =>
    obtain ⟨ha, hl⟩ := List.nodup_cons.mp hn
    have step : Tile.giveSig (x, false) a = (x.setEv a (x.ev a + 1), false) := if_neg (hv a (by simp))
    obtain ⟨y, hy, hf, he⟩ := ih (x.setEv a (x.ev a + 1)) hl (fun k hk => by
      have hka : k ≠ a := fun h => ha (h ▸ hk)
      rw [Tile.ev_setEv, if_neg hka]
      exact hv k (by simp [hk]))
    refine ⟨y, by rw [List.foldl_cons, step, hy], hf, fun k => ?_⟩
    rw [he, Tile.ev_setEv]
    by_cases hk : k = a
    · subst hk; simp [ha]
    · simp [hk]

/-- The signal slots of a word that passes the check of R88 name distinct events. -/
theorem W.sigs_nodup {w : W64} (h : dupEvents w = false) : (W.sigs w).Nodup := by
  unfold dupEvents at h
  unfold W.sigs
  cases h0 : slotEv (W.sig0 w) <;> cases h1 : slotEv (W.sig1 w) <;> simp_all

/-- A completion whose events are distinct and not full adds 1 to each of them. -/
theorem Tile.giveSigs_ok {x : Tile} {w : W64} (hd : dupEvents w = false) (hv : ∀ k ∈ W.sigs w, x.ev k ≠ 15) :
    ∃ y : Tile, x.giveSigs w = (y, false) ∧ y = { x with e := y.e } ∧ ∀ k, y.ev k = x.ev k + (if k ∈ W.sigs w then 1 else 0) :=
  x.giveSigs_eq_foldl w ▸ Tile.foldl_giveSig _ x (W.sigs_nodup hd) hv

/-! ## The LAUNCH of a tile -/

/-- A tile's LAUNCH is found by the name its context holds. -/
theorem State.launchOf_setTile (s : State) (t : Nat) (x : Tile) (h : x.launch = (s.tile t).launch) :
    (s.setTile t x).launchOf t = s.launchOf t := by
  unfold State.launchOf
  rw [State.tile_setTile_same, h]
  rfl

/-- Nothing is settled on a tile whose LAUNCH has met no fault. -/
theorem State.settle_of_no_fault {s : State} {t : Nat} {l : Launch} (hl : s.launchOf t = some l) (hf : l.fault = none) :
    s.settle t = s := by
  simp [State.settle, hl, State.settleFault, hf]

/-- The LAUNCH of a tile is of the name that the tile's context holds. -/
theorem State.launchOf_some {s : State} {t : Nat} {l : Launch} (h : s.launchOf t = some l) :
    (s.tile t).launch = some (l.q, l.seq) ∧ s.tl.launches.find? (fun m => m.q == l.q && m.seq == l.seq) = some l := by
  unfold State.launchOf at h
  cases hx : (s.tile t).launch with
  | none => simp [hx] at h
  | some p =>
    obtain ⟨q, n⟩ := p
    simp only [hx] at h
    have hp := List.find?_some h
    simp only [Bool.and_eq_true, beq_iff_eq] at hp
    obtain ⟨rfl, rfl⟩ := hp
    exact ⟨rfl, h⟩

/-! ## A signal that its home controller applies (01 R16, 04 R106) -/

/-- The oldest signal to an object is the first one listed. -/
theorem find?_oldest {l r : List Signal} {g : Signal} {o : Nat} (hg : g.obj = o) (hl : ∀ h ∈ l, h.obj ≠ o) :
    (l ++ g :: r).find? (fun h => h.obj == o) = some g := by
  rw [List.find?_append, List.find?_eq_none.mpr (by simpa using hl)]
  simp [hg]

theorem erase_oldest {l r : List Signal} {g : Signal} (hl : ∀ h ∈ l, h.obj ≠ g.obj) : (l ++ g :: r).erase g = l ++ r := by
  rw [List.erase_append_right _ (fun hm => hl g hm rfl), List.erase_cons_head]

theorem exec_syncSignalApply_stopped {o : BitVec 14} {s : State} (h : s.homeStopped o.toNat = true) :
    exec (.syncSignalApply o) s = .next s := by
  have hf : s.sync.sigs.find? (fun g => g.obj == o.toNat && !s.homeStopped o.toNat) = none :=
    List.find?_eq_none.mpr (by simp [h])
  show execSyncSignalApply o s = .next s
  simp only [execSyncSignalApply, hf]

/-- What the home controller leaves: the signal gone from those on their way, its value added. -/
theorem exec_syncSignalApply_oldest {o : BitVec 14} {s : State} {g : Signal} {l r : List Signal} (hs : s.sync.sigs = l ++ g :: r)
    (hg : g.obj = o.toNat) (hl : ∀ h ∈ l, h.obj ≠ o.toNat) (hh : s.homeStopped o.toNat = false) :
    exec (.syncSignalApply o) s =
      .next (({ s with sync := { s.sync with sigs := l ++ r } } : State).setObj o.toNat (s.obj o.toNat + g.add)) := by
  have hf : s.sync.sigs.find? (fun h => h.obj == o.toNat && !s.homeStopped o.toNat) = some g := by
    simpa [hs, hh] using find?_oldest hg hl
  have he : s.sync.sigs.erase g = l ++ r := by rw [hs]; exact erase_oldest (hg ▸ hl)
  show execSyncSignalApply o s = _
  simp only [execSyncSignalApply, hf, he]
  rfl

/-! ## The end of a sync wait (04 R107, R109, R110) -/

/-- The condition of a wait, as Table 4.10 states it. -/
def State.WaitHolds (s : State) (i : EInstr) : Prop :=
  let ro := (i.reg 0).toNat
  let rv : W32 := (i.reg 6).setWidth 32
  (W.op i.w = 2 ∧ s.homeStopped ro = false ∧ 0 ≤ (s.obj ro - rv).toInt) ∨
  (W.op i.w = 4 ∧ s.homeStopped (2 * ro) = false ∧ (s.obj (2 * ro) - s.obj (2 * ro + 1)).toNat < rv.toNat) ∨
  (W.op i.w = 5 ∧ s.homeStopped (2 * ro) = false ∧ s.obj (2 * ro) ≠ s.obj (2 * ro + 1)) ∨
  (W.op i.w = 8 ∧ ((i.reg 6).toNat < s.stb.step.toNat ∨
    (i.reg 6 = s.stb.step ∧ ((i.reg 0).setWidth 32 : W32).toNat ≤ s.phase.toNat)))

theorem SyncI.isWait_iff {i : EInstr} :
    SyncI.isWait i = true ↔ W.op i.w = 2 ∨ W.op i.w = 4 ∨ W.op i.w = 5 ∨ W.op i.w = 8 := by
  simp [SyncI.isWait, or_assoc]

/-- The signed compare of R46. -/
theorem reached32_iff (v w : W32) : reached32 v w = true ↔ 0 ≤ (v - w).toInt := by
  simp [reached32, BitVec.msb_eq_toInt]

theorem one_le_toNat_sub_iff (v w : W32) : 1 ≤ (v - w).toNat ↔ v ≠ w := by
  bv_omega

theorem State.syncMet_iff {s : State} {i : EInstr} (hw : SyncI.isWait i = true) :
    s.syncMet i = true ↔ s.WaitHolds i := by
  unfold State.syncMet State.WaitHolds
  rcases SyncI.isWait_iff.mp hw with h | h | h | h
  · simp [h, SyncI.ro, SyncI.rv, State.objReached, reached32_iff]
  · simp [h, SyncI.ro, SyncI.rv, BitVec.ult]
  · simp only [h, SyncI.ro, Bool.and_eq_true, decide_eq_true_eq, one_le_toNat_sub_iff]
    simp
  · simp [h, SyncI.ro, SyncI.rv, BitVec.ult_iff_lt, BitVec.lt_def]

/-- The wait's condition held first at time m: noted by its home controller, or true now. -/
def State.MetFirst (s : State) (i : EInstr) (m : Nat) : Prop :=
  i.metAt = some m ∨ (i.metAt = none ∧ s.WaitHolds i ∧ m = s.now)

theorem State.waitMetAt_iff {s : State} {i : EInstr} (hw : SyncI.isWait i = true) (m : Nat) :
    s.waitMetAt i = some m ↔ s.MetFirst i m := by
  unfold State.waitMetAt State.MetFirst
  rw [← State.syncMet_iff hw]
  cases i.metAt with
  | some n => simp
  | none =>
    by_cases h : s.syncMet i = true
    · simp [h, eq_comm]
    · simp [h]

theorem State.metInTime_some {s : State} {i : EInstr} {m : Nat} (h : s.waitMetAt i = some m) (hm : m ≤ i.expiry) :
    s.metInTime i = some m := by
  simp [State.metInTime, h, hm]

theorem State.metInTime_none {s : State} {i : EInstr} (h : ∀ m, s.waitMetAt i = some m → i.expiry < m) : s.metInTime i = none := by
  unfold State.metInTime
  cases hw : s.waitMetAt i with
  | none => rfl
  | some m => exact if_neg (Nat.not_le.mpr (h m hw))

theorem State.waiting_head {s : State} {t : Nat} {i : EInstr} {r : List EInstr} (hr : (s.tile t).running .sync = i :: r)
    (hw : SyncI.isWait i = true) : s.waiting t = some i := by
  simp [State.waiting, hr, hw]

/-- What the end of tile t's wait i with outcome o leaves, r the instructions that run on behind it. -/
def WaitEnds (s : State) (t : Nat) (i : EInstr) (r : List EInstr) (o : W64) (s' : State) : Prop :=
  let x := s.tile t
  OnlyTile t s s' ∧ (s'.tile t).running .sync = r ∧
  (s'.tile t).core = (if x.core = .syncWait then .run else x.core) ∧
  (s'.tile t).rd (fld i.w 12 6) = (if fld i.w 12 6 = 0 then 0 else o) ∧
  OtherRegs (fld i.w 12 6) x (s'.tile t) ∧ (s'.tile t).pc = x.pc ∧
  (∀ k, (s'.tile t).ev k = x.ev k + (if k ∈ W.sigs i.w then 1 else 0))

/-- The context once a wait has left the port and written its outcome. -/
def Tile.waitDone (x : Tile) (i : EInstr) (r : List EInstr) (o : W64) : Tile := (x.setRunning .sync r).wr (fld i.w 12 6) o

theorem Tile.waitDone_frame (x : Tile) (i : EInstr) (r : List EInstr) (o : W64) :
    x.waitDone i r o = { x.setRunning .sync r with s := (x.waitDone i r o).s } := Tile.wr_frame _ _ _

/-- The context that State.endWait leaves, the signalled events given. -/
theorem Tile.giveSigs_waitDone {x : Tile} {i : EInstr} (r : List EInstr) (o : W64) (hd : dupEvents i.w = false)
    (hv : ∀ k ∈ W.sigs i.w, x.ev k ≠ 15) :
    ∃ z : Tile, (x.waitDone i r o).giveSigs i.w = (z, false) ∧ z = { x.setRunning .sync r with s := (x.waitDone i r o).s, e := z.e } ∧
      ∀ k, z.ev k = x.ev k + (if k ∈ W.sigs i.w then 1 else 0) := by
  have hev (k : Nat) : (x.waitDone i r o).ev k = x.ev k := by rw [Tile.waitDone_frame]; rfl
  obtain ⟨z, hz, hzf, hze⟩ := Tile.giveSigs_ok (x := x.waitDone i r o) hd (by simpa only [hev] using hv)
  refine ⟨z, hz, ?_, by simpa only [hev] using hze⟩
  rw [Tile.waitDone_frame] at hzf
  exact hzf

theorem State.endWait_ends {s : State} {t : Nat} {i : EInstr} {r : List EInstr} {l : Launch} (o : W64)
    (hr : (s.tile t).running .sync = i :: r) (hd : dupEvents i.w = false) (hv : ∀ k ∈ W.sigs i.w, (s.tile t).ev k ≠ 15)
    (hl : s.launchOf t = some l) (hf : l.fault = none) : WaitEnds s t i r o (s.endWait t i o) := by
  obtain ⟨z, hz, hframe, hev⟩ := Tile.giveSigs_waitDone r o hd hv
  have hcore : z.core = (s.tile t).core := by rw [hframe]; rfl
  have hlaunch : z.launch = (s.tile t).launch := by rw [hframe]; rfl
  have hrd (k : Nat) : z.rd k = ((s.tile t).waitDone i r o).rd k := by rw [hframe]; rfl
  have heq : s.endWait t i o =
      s.setTile t { z with core := if z.core = .syncWait then .run else z.core, yieldAt := none } := by
    have hz' : (((s.tile t).setRunning .sync (((s.tile t).running .sync).drop 1)).wr (SyncI.rdReg i) o).giveSigs i.w = (z, false) := by
      rw [hr]; exact hz
    simp only [State.endWait, hz']
    exact State.settle_of_no_fault ((State.launchOf_setTile s t _ (by exact hlaunch)).trans hl) hf
  rw [heq]
  refine ⟨State.onlyTile_setTile _ _ _, ?_, ?_, ?_, fun k hk => ?_, ?_, fun k => ?_⟩ <;> rw [State.tile_setTile_same]
  · show z.running .sync = r
    rw [hframe]
    exact Tile.running_setRunning_same (s.tile t) .sync r
  · simp only [hcore]
  · exact (hrd _).trans (Tile.rd_wr _ _ _)
  · exact (hrd k).trans (Tile.rd_wr_other _ _ _ _ hk)
  · show z.pc = (s.tile t).pc
    rw [hframe]; rfl
  · exact hev k

theorem exec_syncWaitMet_in_time {t : BitVec 8} {s : State} {i : EInstr} {m : Nat} (hw : s.waiting t.toNat = some i)
    (hm : s.metInTime i = some m) :
    exec (.syncWaitMet t) s = .next (s.endWait t.toNat i (if m - i.t0 ≤ SyncI.bound i then 0 else 1)) := by
  show execSyncWaitMet t s = _
  simp [execSyncWaitMet, hw, hm]

theorem exec_syncWaitMet_late {t : BitVec 8} {s : State} {i : EInstr} (hw : s.waiting t.toNat = some i)
    (hm : s.metInTime i = none) : exec (.syncWaitMet t) s = .next s := by
  show execSyncWaitMet t s = _
  simp [execSyncWaitMet, hw, hm]

theorem exec_syncWaitTimeout_late {t : BitVec 8} {s : State} {i : EInstr} (hw : s.waiting t.toNat = some i)
    (hm : s.metInTime i = none) (hn : i.n ≤ s.now - i.t0) :
    exec (.syncWaitTimeout t) s = .next (s.endWait t.toNat i 2) := by
  show execSyncWaitTimeout t s = _
  simp [execSyncWaitTimeout, hw, hm, hn]

/-! ## A stall bound that has passed (04 R107, R109) -/

/-- A cqacq that neither ended before its stall bound nor was noted to have passed it. -/
theorem EInstr.stalls_of_late {now : Nat} {i : EInstr} (ho : W.op i.w = 4) (hs : i.stalled = false)
    (hb : SyncI.bound i < now - i.t0) (he : SyncI.bound i < i.expiry - i.t0)
    (hm : ∀ m, i.metAt = some m → SyncI.bound i < m - i.t0) : i.stalls now = true := by
  unfold EInstr.stalls
  rw [SyncI.isWait_iff.mpr (Or.inr (Or.inl ho))]
  cases h : i.metAt with
  | none => simp [hs, hb, he]
  | some m => simp [hs, hb, he, hm m h]

/-- The wait with its passed stall bound taken note of. -/
def EInstr.noteStall (now : Nat) (i : EInstr) : EInstr := if i.stalls now then { i with stalled := true } else i

/-- A wait of the context has outlasted its stall bound. -/
def Tile.lateWait (now : Nat) (x : Tile) : Bool := (x.running .sync).any (fun i => i.stalls now)
/-- A cqacq of the context has. -/
def Tile.lateCredit (now : Nat) (x : Tile) : Bool := (x.running .sync).any (fun i => i.stalls now && W.op i.w == 4)

theorem Tile.late_of_head {x : Tile} {now : Nat} {i : EInstr} {r : List EInstr} (hr : x.running .sync = i :: r)
    (ho : W.op i.w = 4) (hs : i.stalls now = true) : x.lateWait now = true ∧ x.lateCredit now = true := by
  simp [Tile.lateWait, Tile.lateCredit, hr, ho, hs]

@[simp] theorem Tile.running_mapWaits (x : Tile) (f : EInstr → EInstr) : (x.mapWaits f).running .sync = (x.running .sync).map f :=
  Tile.running_setRunning_same _ _ _

theorem exec_stallBound_running {t : BitVec 8} {s : State} (hl : (s.tile t.toNat).lateWait s.now = true)
    (hc : (s.tile t.toNat).lateCredit s.now = true) :
    exec (.syncStallBoundExpiry t) s =
      .next ((s.setTile t.toNat ((s.tile t.toNat).mapWaits (EInstr.noteStall s.now))).stageStall t.toNat (s.tile t.toNat)) := by
  show execSyncStallBoundExpiry t s = _
  exact (if_pos hl).trans (congrArg _ (if_pos hc))

/-- The saved context, its waits' passed bounds taken note of. -/
def Saved.noteStall (now : Nat) (v : Saved) : Saved := { v with ctx := v.ctx.mapWaits (EInstr.noteStall now) }

/-- The same of the saved contexts that are v, the others as they were. -/
def State.noteSaved (s : State) (v : Saved) : State :=
  { s with tl := { s.tl with saved := s.tl.saved.map (fun u => if u = v then u.noteStall s.now else u) } }

/-- A saved context of tile t, the first listed, whose cqacq has outlasted its bound while no wait of the tile itself has. -/
theorem exec_stallBound_saved {t : BitVec 8} {s : State} {v : Saved} (hl : (s.tile t.toNat).lateWait s.now = false)
    (hv : s.tl.saved.find? (fun u => u.tile == t.toNat && u.ctx.lateWait s.now) = some v) (hc : v.ctx.lateCredit s.now = true) :
    exec (.syncStallBoundExpiry t) s = .next ((s.noteSaved v).stageStall t.toNat v.ctx) := by
  have hl' : ¬ ((s.tile t.toNat).running .sync).any (fun i => i.stalls s.now) = true := by rw [← Tile.lateWait, hl]; simp
  show execSyncStallBoundExpiry t s = _
  unfold execSyncStallBoundExpiry
  simp only [if_neg hl']
  have hv' : s.tl.saved.find? (fun u => u.tile == t.toNat && (u.ctx.running .sync).any (fun i => i.stalls s.now)) = some v := hv
  simp only [hv']
  exact congrArg _ (if_pos hc)

/-- STAGE_STALL leaves the tiles, saved contexts, sync objects and memory as they are, and marks its LAUNCH. -/
theorem State.stageStall_frame (s : State) (t : Nat) {x : Tile} {q : Nat} {n : W32} (h : x.launch = some (q, n)) :
    (s.stageStall t x).tl = (s.updLaunch q n (fun l => { l with stageStall := true })).tl ∧
    (s.stageStall t x).sync = s.sync ∧ (s.stageStall t x).mem = s.mem := by
  simp only [State.stageStall, h, State.notice]
  rw [State.log_frame]
  exact ⟨rfl, rfl, rfl⟩

/-- A LAUNCH found by its name is found with its mark. -/
theorem find?_marked {ls : List Launch} {q : Nat} {n : W32} {l : Launch} (h : ls.find? (fun m => m.q == q && m.seq == n) = some l) :
    (ls.map (fun m => if m.q == q && m.seq == n then { m with stageStall := true } else m)).find?
      (fun m => m.q == q && m.seq == n) = some { l with stageStall := true } := by
  have hp : ((fun m : Launch => m.q == q && m.seq == n) ∘ fun m => if m.q == q && m.seq == n then { m with stageStall := true } else m)
      = fun m => m.q == q && m.seq == n := by
    funext m
    simp only [Function.comp_apply]
    split <;> rfl
  have hl := List.find?_some h
  rw [List.find?_map, hp, h, Option.map_some, if_pos hl]

/-- Tiles read the same where their table does. -/
theorem State.tile_of_tl {s s' : State} (h : s'.tl.tile = s.tl.tile) (u : Nat) : s'.tile u = s.tile u := by
  unfold State.tile
  rw [h]

theorem State.launchOf_stageStall {s : State} {t : Nat} {x : Tile} {l : Launch} (hx : x.launch = (s.tile t).launch)
    (hl : s.launchOf t = some l) : (s.stageStall t x).launchOf t = some { l with stageStall := true } := by
  obtain ⟨hname, hfind⟩ := State.launchOf_some hl
  obtain ⟨htl, -, -⟩ := State.stageStall_frame s t (hx.trans hname)
  have htile : (s.stageStall t x).tile t = s.tile t := State.tile_of_tl (by rw [htl]; rfl) t
  unfold State.launchOf
  rw [htile, hname]
  simp only [htl]
  exact find?_marked hfind

/-! ## Signals and credit queues that start (04 R105, R106, R108) -/

/-- What lets instruction i, at the head of tile t's sync queue before r, start. -/
structure SyncStarts (s : State) (t : Nat) (i : EInstr) (r : List EInstr) : Prop where
  queue : (s.tile t).queue .sync = i :: r
  running : (s.tile t).running .sync = []
  cls : W.cls i.w = 3
  held : s.tileHeld t = false
  stop : (s.tile t).core.isStop = false
  flow : (s.tile t).core ≠ .flowFault
  waits : ∀ k ∈ W.waits i.w, (s.tile t).ev k ≠ 0
  interlock : startWaits (s.tile t) .sync i = false
  check : startCheck s t (s.tile t) i = none

/-- The instruction as it runs: its start and its timeout taken. -/
def EInstr.started (s : State) (i : EInstr) : EInstr := { i with t0 := s.now, n := SyncI.timeout s i }

/-- The context once i has started, r the instructions queued behind it. -/
def Tile.syncStarted (x : Tile) (s : State) (i : EInstr) (r : List EInstr) : Tile :=
  ((x.takeWaits i.w).setQueue .sync r).setRunning .sync [i.started s]

theorem Tile.queue_syncStarted (x : Tile) (s : State) (i : EInstr) (r : List EInstr) : (x.syncStarted s i r).queue .sync = r :=
  Tile.queue_setQueue_same (x.takeWaits i.w) .sync r
theorem Tile.running_syncStarted (x : Tile) (s : State) (i : EInstr) (r : List EInstr) :
    (x.syncStarted s i r).running .sync = [i.started s] := Tile.running_setRunning_same _ _ _

theorem exec_engineInstrStart_sync {t : BitVec 8} {s : State} {i : EInstr} {r : List EInstr} (h : SyncStarts s t.toNat i r) :
    exec (.engineInstrStart t .sync) s =
      .next ((s.setTile t.toNat ((s.tile t.toNat).syncStarted s i r)).startSig t.toNat (i.started s)) := by
  have hcap : startCapture s (s.tile t.toNat) i = i.started s := if_pos h.cls
  have hgo : ¬ (s.tileHeld t.toNat = true ∨ (s.tile t.toNat).core.isStop = true ∨ (s.tile t.toNat).core = .flowFault ∨
      (!(s.tile t.toNat).waitsMet i.w) = true ∨ startWaits (s.tile t.toNat) .sync i = true) := by
    simp [h.held, h.stop, h.flow, Tile.waitsMet_of_ev h.waits, h.interlock]
  show execEngineInstrStart t .sync s = _
  unfold execEngineInstrStart
  simp only [h.queue, if_neg hgo, h.check, h.running, hcap, h.cls]
  rfl

/-- A signal to a peer reaches the holder of its role where that holder is another module that has not failed. -/
theorem State.sendSig_peer {s : State} (t : Nat) {m : BitVec 12} (o : Nat) (a : W32) (hd : s.host.ident ≠ some (s.holderOf m))
    (hf : s.isFailed (s.holderOf m) = false) : s.sendSig t (some m) o a = s.remoteSig (.tile t) (s.holderOf m) o a := by
  simp [State.sendSig, State.peerSig, State.sigToHolder, hd, hf]

/-- The instructions that signal, with the object that each names: ssig the object itself, cqput TAIL and cqrel HEAD of a queue. -/
def signalForms : List (Nat × (Nat → Nat)) := [(1, fun ro => ro), (3, fun ro => 2 * ro), (6, fun ro => 2 * ro + 1)]

/-- The Plain forms put one signal on its way to an object of this module. -/
theorem State.startSig_plain {p : Nat × (Nat → Nat)} (hp : p ∈ signalForms) {s : State} (t : Nat) {i : EInstr} (ho : W.op i.w = p.1)
    (hf : W.full i.w = false) :
    s.startSig t i = s.signal
      { src := some t, obj := p.2 (i.reg 0).toNat, add := if p.1 = 1 then (i.reg 6).setWidth 32 else 1 } := by
  have hpeer : SyncI.peer s i = none := by simp [SyncI.peer, hf]
  simp only [signalForms, List.mem_cons, List.not_mem_nil, or_false] at hp
  rcases hp with rfl | rfl | rfl <;> simp [State.startSig, ho, hf, hpeer, State.sendSig, SyncI.ro, SyncI.rv]

/-- The Full forms send the same signal to the peer named: ssig to it alone, cqput and cqrel beside the one of this module. -/
theorem State.startSig_full {p : Nat × (Nat → Nat)} (hp : p ∈ signalForms) {s : State} (t : Nat) {i : EInstr} {m : BitVec 12}
    (ho : W.op i.w = p.1) (hpeer : SyncI.peer s i = some m) (hf : W.full i.w = true) (hd : s.host.ident ≠ some (s.holderOf m))
    (hn : s.isFailed (s.holderOf m) = false) :
    s.startSig t i =
      (if p.1 = 1 then s else s.signal { src := some t, obj := p.2 (i.reg 0).toNat, add := (i.reg 6).setWidth 32 }).remoteSig
        (.tile t) (s.holderOf m) (p.2 (i.reg 0).toNat) ((i.reg 6).setWidth 32) := by
  have hsend (g : Signal) (o : Nat) (a : W32) :
      (s.signal g).sendSig t (some m) o a = (s.signal g).remoteSig (.tile t) (s.holderOf m) o a :=
    State.sendSig_peer (s := s.signal g) t o a hd hn
  simp only [signalForms, List.mem_cons, List.not_mem_nil, or_false] at hp
  rcases hp with rfl | rfl | rfl
  · simp only [State.startSig, ho, hpeer]
    exact State.sendSig_peer t _ _ hd hn
  · simp only [State.startSig, ho, hf, hpeer]
    exact hsend _ _ _
  · simp only [State.startSig, ho, hf, hpeer]
    exact hsend _ _ _

theorem SyncI.peer_full {s : State} {i : EInstr} (hf : W.full i.w = true) (hm : s.host.ident ≠ some (BitVec.ofNat 12 (fld (i.reg 18) 0 12))) :
    SyncI.peer s i = some (BitVec.ofNat 12 (fld (i.reg 18) 0 12)) := by
  have h : (SyncI.rx i).setWidth 12 = BitVec.ofNat 12 (fld (i.reg 18) 0 12) := by
    apply BitVec.eq_of_toNat_eq
    simp [SyncI.rx, fld]
  simp [SyncI.peer, hf, h, hm]

/-! ## The statement, part by part -/

theorem exec_syncSignalApply_result {o : BitVec 14} {s : State} {g : Signal} {l r : List Signal} (hs : s.sync.sigs = l ++ g :: r)
    (hg : g.obj = o.toNat) (hl : ∀ h ∈ l, h.obj ≠ o.toNat) (hh : s.homeStopped o.toNat = false) :
    ∃ s', exec (.syncSignalApply o) s = .next s' ∧ s'.sync.sigs = l ++ r ∧ s'.obj o.toNat = s.obj o.toNat + g.add ∧
      (∀ k, k ≠ o.toNat → s'.obj k = s.obj k) ∧ s'.sync.remote = s.sync.remote ∧ s' = { s with sync := s'.sync } :=
  ⟨_, exec_syncSignalApply_oldest hs hg hl hh, rfl, State.obj_setObj_same _ _ _, fun k hk => State.obj_setObj_other _ _ _ k hk,
    rfl, rfl⟩

theorem exec_stallBound_running_result {t : BitVec 8} {s : State} {i : EInstr} {r : List EInstr} {l : Launch}
    (hr : (s.tile t.toNat).running .sync = i :: r) (ho : W.op i.w = 4) (hs : i.stalls s.now = true)
    (hl : s.launchOf t.toNat = some l) :
    ∃ s' m, exec (.syncStallBoundExpiry t) s = .next s' ∧ s'.launchOf t.toNat = some m ∧ m.stageStall = true ∧
      ((s'.tile t.toNat).running .sync).head? = some { i with stalled := true } ∧
      (∀ k, (s'.tile t.toNat).rd k = (s.tile t.toNat).rd k) ∧ s'.sync = s.sync ∧ s'.mem = s.mem := by
  obtain ⟨hlate, hcredit⟩ := Tile.late_of_head hr ho hs
  obtain ⟨hname, -⟩ := State.launchOf_some hl
  let y := (s.tile t.toNat).mapWaits (EInstr.noteStall s.now)
  obtain ⟨htl, hsync, hmem⟩ := State.stageStall_frame (s.setTile t.toNat y) t.toNat hname
  have hy : ((s.setTile t.toNat y).stageStall t.toNat (s.tile t.toNat)).tile t.toNat = y :=
    (State.tile_of_tl (by rw [htl]; rfl) _).trans (State.tile_setTile_same s t.toNat y)
  refine ⟨_, _, exec_stallBound_running hlate hcredit,
    State.launchOf_stageStall (by rw [State.tile_setTile_same]; rfl) ((State.launchOf_setTile s t.toNat y rfl).trans hl),
    rfl, ?_, ?_, hsync, hmem⟩ <;> rw [hy]
  · simp [y, hr, EInstr.noteStall, hs]
  · exact fun k => rfl

theorem exec_stallBound_saved_result {t : BitVec 8} {s : State} {v : Saved} {a b : List Saved} {i : EInstr} {q : Nat} {n : W32}
    (hv : s.tl.saved = a ++ v :: b) (ht : v.tile = t.toNat) (ha : ∀ u ∈ a, u.tile ≠ t.toNat)
    (hx : (s.tile t.toNat).running .sync = []) (hr : v.ctx.running .sync = [i]) (hq : v.ctx.launch = some (q, n))
    (ho : W.op i.w = 4) (hs : i.stalls s.now = true) :
    ∃ s' w, exec (.syncStallBoundExpiry t) s = .next s' ∧ s'.tl.saved[a.length]? = some w ∧ w.tile = v.tile ∧
      w.ctx.running .sync = [{ i with stalled := true }] ∧ s'.tl.tile = s.tl.tile ∧ s'.sync = s.sync ∧ s'.mem = s.mem ∧
      ∀ l ∈ s'.tl.launches, l.q = q → l.seq = n → l.stageStall = true := by
  obtain ⟨hlate, hcredit⟩ := Tile.late_of_head hr ho hs
  have hnot : (s.tile t.toNat).lateWait s.now = false := by simp [Tile.lateWait, hx]
  have hfind : s.tl.saved.find? (fun u => u.tile == t.toNat && u.ctx.lateWait s.now) = some v := by
    rw [hv, List.find?_append, List.find?_eq_none.mpr (fun u hu => by simp [ha u hu])]
    simp [ht, hlate]
  obtain ⟨htl, hsync, hmem⟩ := State.stageStall_frame (s.noteSaved v) t.toNat hq
  refine ⟨_, v.noteStall s.now, exec_stallBound_saved hnot hfind hcredit, ?_, rfl, ?_, ?_, hsync, hmem, ?_⟩
  · rw [htl]
    simp [State.updLaunch, State.noteSaved, hv]
  · simp [Saved.noteStall, hr, EInstr.noteStall, hs]
  · rw [htl]; rfl
  · rw [htl]
    intro l hl hlq hln
    obtain ⟨m, -, rfl⟩ := List.mem_map.mp hl
    by_cases hm : (m.q == q && m.seq == n) = true
    · rw [if_pos hm]
    · rw [if_neg hm] at hlq hln
      simp [hlq, hln] at hm

theorem exec_signalStart_plain {p : Nat × (Nat → Nat)} (hp : p ∈ signalForms) {t : BitVec 8} {s : State} {i : EInstr} {r : List EInstr}
    (h : SyncStarts s t.toNat i r) (ho : W.op i.w = p.1) (hf : W.full i.w = false) :
    ∃ s', exec (.engineInstrStart t .sync) s = .next s' ∧
      s'.sync.sigs = s.sync.sigs ++
        [{ src := some t.toNat, obj := p.2 (i.reg 0).toNat, add := if p.1 = 1 then (i.reg 6).setWidth 32 else 1 }] ∧
      s'.sync.obj = s.sync.obj ∧ s'.sync.remote = s.sync.remote ∧ (s'.tile t.toNat).queue .sync = r ∧
      ((s'.tile t.toNat).running .sync).map (fun j => j.w) = [i.w] ∧
      (∀ u, u ≠ t.toNat → s'.tile u = s.tile u) ∧ s'.mem = s.mem ∧ s'.regs = s.regs := by
  have hstart := State.tile_setTile_same s t.toNat ((s.tile t.toNat).syncStarted s i r)
  exact ⟨_, (exec_engineInstrStart_sync h).trans (congrArg _ (State.startSig_plain hp t.toNat (i := i.started s) ho hf)), rfl, rfl, rfl,
    (congrArg (Tile.queue · .sync) hstart).trans (Tile.queue_syncStarted _ s i r),
    congrArg (List.map EInstr.w) ((congrArg (Tile.running · .sync) hstart).trans (Tile.running_syncStarted _ s i r)),
    fun u hu => State.tile_setTile_other s t.toNat _ u hu, rfl, rfl⟩

theorem exec_signalStart_full {p : Nat × (Nat → Nat)} (hp : p ∈ signalForms) {t : BitVec 8} {s : State} {i : EInstr} {r : List EInstr}
    {m d : BitVec 12} (h : SyncStarts s t.toNat i r) (ho : W.op i.w = p.1) (hf : W.full i.w = true)
    (hm : m = BitVec.ofNat 12 (fld (i.reg 18) 0 12)) (hd : d = s.holderOf m) (hself : s.host.ident ≠ some m)
    (hother : s.host.ident ≠ some d) (hn : s.isFailed d = false) :
    ∃ s' e, exec (.engineInstrStart t .sync) s = .next s' ∧
      s'.sync.remote = s.sync.remote ++
        [{ owner := .tile t.toNat, peer := d, eseq := e, obj := p.2 (i.reg 0).toNat, add := (i.reg 6).setWidth 32 }] ∧
      s'.sync.sigs = s.sync.sigs ++ (if p.1 = 1 then [] else
        [{ src := some t.toNat, obj := p.2 (i.reg 0).toNat, add := (i.reg 6).setWidth 32 }]) ∧
      Posted s s' [(d, .sig (BitVec.ofNat 14 (p.2 (i.reg 0).toNat)) ((i.reg 6).setWidth 32))] ∧
      (s'.tile t.toNat).queue .sync = r ∧ (∀ u, u ≠ t.toNat → s'.tile u = s.tile u) ∧ s'.mem = s.mem ∧ s'.regs = s.regs := by
  subst hm hd
  let s1 := s.setTile t.toNat ((s.tile t.toNat).syncStarted s i r)
  have hpeer : SyncI.peer s1 (i.started s) = some _ := SyncI.peer_full (s := s1) (i := i.started s) hf hself
  have hrun := (exec_engineInstrStart_sync h).trans
    (congrArg _ (State.startSig_full hp (s := s1) t.toNat (i := i.started s) ho hpeer hf hother hn))
  have hqueue : (s1.tile t.toNat).queue .sync = r := by
    rw [State.tile_setTile_same, Tile.queue_syncStarted]
  have hframe (u : Nat) (hu : u ≠ t.toNat) : s1.tile u = s.tile u := State.tile_setTile_other s t.toNat _ u hu
  by_cases h1 : p.1 = 1
  · rw [if_pos h1] at hrun ⊢
    exact ⟨_, _, hrun, rfl, (List.append_nil _).symm, ⟨_, rfl, rfl⟩, hqueue, hframe, rfl, rfl⟩
  · rw [if_neg h1] at hrun ⊢
    exact ⟨_, _, hrun, rfl, rfl, ⟨_, rfl, rfl⟩, hqueue, hframe, rfl, rfl⟩

/-- Settles O14, part by part: an applied signal, a running wait that ends or outlasts its bound, a saved cqacq that outlasts its
bound, and the Plain and the Full forms that signal. -/
theorem syncResult : Obligations.SyncResult := by
  unfold Obligations.SyncResult
  refine ⟨?_, ?_, ?_, ?_, ?_⟩
  · intro o s g l r hs hg hl
    exact ⟨exec_syncSignalApply_stopped, exec_syncSignalApply_result hs hg hl⟩
  · intro t s i r l x ro rv met since expiry ends hr ho hd hv hl hf
    have hi : SyncI.isWait i = true := SyncI.isWait_iff.mpr ho
    have hw : s.waiting t.toNat = some i := State.waiting_head hr hi
    have hends (o : W64) : ends o (s.endWait t.toNat i o) := State.endWait_ends o hr hd hv hl hf
    refine ⟨fun m hm hle => ?_, fun hlate => ?_, fun ho4 hs hb he hm => ?_⟩
    · exact ⟨_, exec_syncWaitMet_in_time hw (State.metInTime_some ((State.waitMetAt_iff hi m).mpr hm) hle), hends _⟩
    · have hnone : s.metInTime i = none := State.metInTime_none fun m hm => hlate m ((State.waitMetAt_iff hi m).mp hm)
      exact ⟨exec_syncWaitMet_late hw hnone, fun hn => ⟨_, exec_syncWaitTimeout_late hw hnone hn, hends 2⟩⟩
    · exact exec_stallBound_running_result hr ho4 (EInstr.stalls_of_late ho4 hs hb he hm) hl
  · intro t s v a b i q n hv ht ha hx hr hq ho hm hs hb he
    exact exec_stallBound_saved_result hv ht ha hx hr hq ho (EInstr.stalls_of_late ho hs hb he (by simp [hm]))
  · intro p hp t s i r x hq hr hc ho hf hh hstop hflow hwaits hil hcheck
    exact exec_signalStart_plain hp ⟨hq, hr, hc, hh, hstop, hflow, hwaits, hil, hcheck⟩ ho hf
  · intro p hp t s i r m d x hq hr hc ho hf hm hd hself hother hn hh hstop hflow hwaits hil hcheck
    exact exec_signalStart_full hp ⟨hq, hr, hc, hh, hstop, hflow, hwaits, hil, hcheck⟩ ho hf hm hd hself hother hn

end Sys2Proof.Machine
end

section
/-! SUPPORT. The end of a matrix or vector instruction (03 R69): it leaves its engine, gives its signals, and the tile holds its
result. -/
namespace Sys2Proof.Machine

/-- Nothing is settled on a tile without a LAUNCH, or whose LAUNCH has met no fault. -/
theorem State.settle_of_unfaulted {s : State} {t : Nat} (h : ∀ l, s.launchOf t = some l → l.fault = none) : s.settle t = s := by
  cases hl : s.launchOf t with
  | none => simp [State.settle, hl]
  | some l => exact State.settle_of_no_fault hl (h l hl)

/-! ## Counters -/

/-- The state with other fault and saturation counters. -/
def State.withCounts (s : State) (c tc : Tab W64) : State := { s with flt := { s.flt with cnt := c, tcnt := tc } }

theorem State.countSat_eq_withCounts (s : State) (tensor k : Nat) : ∃ c tc, s.countSat tensor k = s.withCounts c tc := by
  unfold State.countSat
  split
  · exact ⟨_, _, rfl⟩
  · split <;> exact ⟨_, _, rfl⟩

/-! ## Frames of a tile context -/

/-- What the result of a matrix or vector instruction may change of its tile: scratchpad, masks and accumulators. -/
def ResultFrame (x y : Tile) : Prop := y = { x with spad := y.spad, k := y.k, acc0 := y.acc0, acc1 := y.acc1 }

/-- What the end of the instruction may change beside its result: running instructions, events and flags. -/
def EndFrame (x y : Tile) : Prop := y = { x with run := y.run, e := y.e, vsticky := y.vsticky, fl := y.fl }

/-- The context z once instruction i, of result y, has left engine e of the context x. -/
structure Tile.Leaves (x : Tile) (e : Eng) (i : EInstr) (y z : Tile) : Prop where
  resultFrame : ResultFrame x y
  endFrame : EndFrame y z
  running : z.running e = (x.running e).erase i
  ev : ∀ k, z.ev k = x.ev k + (if k ∈ W.sigs i.w then 1 else 0)

theorem Tile.Leaves.launch {x y z : Tile} {e : Eng} {i : EInstr} (h : x.Leaves e i y z) : z.launch = x.launch := by
  obtain ⟨hy, hz, -, -⟩ := h
  unfold ResultFrame at hy
  unfold EndFrame at hz
  rw [hz, hy]

/-- A result with its flags taken up, then given its signals, has left its engine. -/
theorem Tile.leaves_of_giveSigs {x y : Tile} {e : Eng} {i : EInstr} (f : Fl) (hd : dupEvents i.w = false)
    (hv : ∀ k ∈ W.sigs i.w, x.ev k ≠ 15) (hy : ResultFrame x y) :
    ∃ z, ((y.addFlags f).setRunning e (((y.addFlags f).running e).erase i)).giveSigs i.w = (z, false) ∧ x.Leaves e i y z := by
  have hev (k : Nat) : y.ev k = x.ev k := by unfold ResultFrame at hy; rw [hy]; rfl
  have hrun : y.running e = x.running e := by unfold ResultFrame at hy; rw [hy]; rfl
  obtain ⟨z, hz, hframe, hze⟩ := Tile.giveSigs_ok
    (x := (y.addFlags f).setRunning e (((y.addFlags f).running e).erase i)) hd (fun k hk => hev k ▸ hv k hk)
  refine ⟨z, hz, hy, ?_, ?_, fun k => (hze k).trans (congrArg (· + _) (hev k))⟩
  · unfold EndFrame
    rw [hframe]
    rfl
  · rw [hframe, ← hrun]
    exact Tile.running_setRunning_same (y.addFlags f) e _

/-! ## The instruction's effect and its end -/

theorem not_isMdr_of_cls {i : EInstr} (hc : W.cls i.w = 4 ∨ W.cls i.w = 5) : isMdr i = false := by
  rcases hc with hc | hc <;> simp [isMdr, hc]

theorem State.mayComplete_of_cls {s : State} {t : Nat} {i : EInstr} (hc : W.cls i.w = 4 ∨ W.cls i.w = 5) :
    s.mayComplete t i = true := by
  rcases hc with hc | hc <;> simp [State.mayComplete, hc]

/-- The effect of a matrix or vector instruction, after n corrections have been counted: the tile's result with its flags. -/
theorem State.engEffect_arith {s : State} {t n : Nat} {i : EInstr} {r : EngRes} (hc : W.cls i.w = 4 ∨ W.cls i.w = 5)
    (hr : arithEffect s t (s.tile t) i = some r) :
    ∃ c tc, (s.count Cnt.spadCorr n).engEffect t i = ((s.setTile t (r.x.addFlags r.fl)).withCounts c tc, some r, none) := by
  have hr' : arithEffect (s.count Cnt.spadCorr n) t ((s.count Cnt.spadCorr n).tile t) i = some r := hr
  obtain ⟨c, tc, h⟩ := State.countSat_eq_withCounts ((s.count Cnt.spadCorr n).setTile t (r.x.addFlags r.fl)) r.tensor r.fl.sat
  refine ⟨c, tc, ?_⟩
  simp only [State.engEffect, hr', not_isMdr_of_cls hc, Bool.false_eq_true, false_and, if_false, h]
  rfl

/-- The state at the end of an instruction: its effect on tile t's context, y, the counters, and the context z it leaves. -/
def State.arithDone (s : State) (t : Nat) (c tc : Tab W64) (y z : Tile) : State :=
  ((s.setTile t y).withCounts c tc).setTile t z

theorem State.tile_arithDone_same (s : State) (t : Nat) (c tc : Tab W64) (y z : Tile) : (s.arithDone t c tc y z).tile t = z :=
  State.tile_setTile_same _ _ _

/-- The LAUNCH of a tile whose instruction ends without a fault goes on. -/
theorem State.settle_arithDone {s : State} {t : Nat} {e : Eng} {i : EInstr} {x y z : Tile} (c tc : Tab W64)
    (hf : ∀ l, s.launchOf t = some l → l.fault = none) (h : (s.tile t).Leaves e i x z) :
    (s.arithDone t c tc y z).settle t = s.arithDone t c tc y z := by
  have hlaunch : (s.arithDone t c tc y z).launchOf t = s.launchOf t := by
    unfold State.launchOf
    rw [State.tile_arithDone_same, h.launch]
    rfl
  exact State.settle_of_unfaulted (hlaunch ▸ hf)

/-- A context that has left its engine, and other counters, are all that the end of the instruction changes. -/
theorem State.arithEnd_arithDone {s : State} {t : Nat} {e : Eng} {i : EInstr} {x y z : Tile} (c tc : Tab W64)
    (h : (s.tile t).Leaves e i x z) : ArithEnd t e i s (s.arithDone t c tc y z) := by
  have hother (u : Nat) (hu : u ≠ t) : (s.arithDone t c tc y z).tile u = s.tile u :=
    (State.tile_setTile_other _ _ _ u hu).trans (State.tile_setTile_other s _ _ u hu)
  obtain ⟨hx, hz, hrun, hev⟩ := h
  unfold ResultFrame at hx
  unfold EndFrame at hz
  unfold ArithEnd
  rw [State.tile_arithDone_same]
  exact ⟨hother, rfl, rfl, rfl, rfl, rfl, hrun, by rw [hz, hx], by rw [hz, hx], by rw [hz, hx], by rw [hz, hx], hev⟩

/-- ENGINE_INSTR_COMPLETE of a matrix or vector instruction whose codes found nothing: the tile holds its result r, and beside it
only what ArithEnd says has changed. -/
theorem exec_engineInstrComplete_result {t : BitVec 8} {e : Eng} {s : State} {i : EInstr} {r : EngRes} (flag : Bool)
    (hend : EndsInOrder s t.toNat e i) (hc : W.cls i.w = 4 ∨ W.cls i.w = 5)
    (hr : arithEffect s t.toNat (s.tile t.toNat) i = some r) (hx : ResultFrame (s.tile t.toNat) r.x) :
    ∃ s', exec (.engineInstrComplete t e (cleanFind flag)) s = .next s' ∧ ArithEnd t.toNat e i s s' ∧
      EndFrame r.x (s'.tile t.toNat) := by
  obtain ⟨hhead, hheld, hplaus, hdup, hev, hfault⟩ := hend
  obtain ⟨rest, hrun⟩ := List.head?_eq_some_iff.mp hhead
  obtain ⟨c, tc, heff⟩ := State.engEffect_arith (n := 0) hc hr
  obtain ⟨z, hgive, hleaves⟩ := Tile.leaves_of_giveSigs (e := e) r.fl hdup hev hx
  have hdone : ((s.setTile t.toNat (r.x.addFlags r.fl)).withCounts c tc).engDone t.toNat e i =
      s.arithDone t.toNat c tc (r.x.addFlags r.fl) z := by
    have hy : ((s.setTile t.toNat (r.x.addFlags r.fl)).withCounts c tc).tile t.toNat = r.x.addFlags r.fl :=
      State.tile_setTile_same s _ _
    simp only [State.engDone, hy, hgive, Bool.false_eq_true, if_false]
    rfl
  have hwatch : (s.arithDone t.toNat c tc (r.x.addFlags r.fl) z).plaus (t.toNat / 16) = false := hplaus
  have hfound : s.found noFind = s := rfl
  refine ⟨s.arithDone t.toNat c tc (r.x.addFlags r.fl) z, ?_, State.arithEnd_arithDone c tc hleaves, by
    rw [State.tile_arithDone_same]; exact hleaves.endFrame⟩
  show execEngineInstrComplete t e (cleanFind flag) s = _
  simp [execEngineInstrComplete, cleanFind, hrun, hheld, State.mayComplete_of_cls hc, hfound, State.noteTab,
    not_isMdr_of_cls hc, heff, hdone, hwatch, State.settle_arithDone c tc hfault hleaves]

end Sys2Proof.Machine
end

section
/-! SUPPORT. Matrix products in an accumulator half (05 R118; 06 R153), and the statement about them. -/
namespace Sys2Proof.Machine

/-! ## Entries of a half -/

theorem Tile.acc_setAcc (x : Tile) (h e : Nat) (v : A36) (g k : Nat) :
    (x.setAcc h e v).acc g k = if (g = 0 ↔ h = 0) ∧ k = e then v else x.acc g k := by
  unfold Tile.setAcc Tile.acc
  by_cases hh : h = 0 <;> by_cases hg : g = 0 <;> simp [hh, hg, Tab.get_put]

/-- Writing entries of a half moves the accumulators alone. -/
theorem Tile.setHalf_frame (x : Tile) (h e : Nat) (vs : List A36) :
    ∃ a b, x.setHalf h e vs = { x with acc0 := a, acc1 := b } := by
  induction vs generalizing x e with
  | nil => exact ⟨_, _, rfl⟩
  | cons v vs ih =>
    obtain ⟨a, b, hab⟩ := ih (x.setAcc h e v) (e + 1)
    refine ⟨a, b, hab.trans ?_⟩
    unfold Tile.setAcc
    split <;> rfl

/-- The other half keeps its entries. -/
theorem Tile.acc_setHalf_other (x : Tile) {h g : Nat} (e : Nat) (vs : List A36) (k : Nat) (hg : ¬ (g = 0 ↔ h = 0)) :
    (x.setHalf h e vs).acc g k = x.acc g k := by
  induction vs generalizing x e with
  | nil => rfl
  | cons v vs ih => rw [Tile.setHalf, ih, Tile.acc_setAcc, if_neg (fun h => hg h.1)]

/-- The half itself holds the values written from entry e on, and below e what it held. -/
theorem Tile.acc_setHalf_below (x : Tile) (h : Nat) {e k : Nat} (vs : List A36) (hk : k < e) :
    (x.setHalf h e vs).acc h k = x.acc h k := by
  induction vs generalizing x e with
  | nil => rfl
  | cons v vs ih => rw [Tile.setHalf, ih _ (by omega), Tile.acc_setAcc, if_neg (by omega)]

theorem Tile.acc_setHalf (x : Tile) (h e j : Nat) {vs : List A36} {v : A36} (hv : vs[j]? = some v) :
    (x.setHalf h e vs).acc h (e + j) = v := by
  induction vs generalizing x e j with
  | nil => simp at hv
  | cons u vs ih =>
    rw [Tile.setHalf]
    cases j with
    | zero =>
      rw [Tile.acc_setHalf_below _ _ _ (by omega), Tile.acc_setAcc, if_pos ⟨Iff.rfl, rfl⟩]
      exact Option.some.inj hv
    | succ j =>
      rw [show e + (j + 1) = e + 1 + j by omega]
      exact ih _ _ _ hv

theorem Tile.getElem?_half (x : Tile) (h : Nat) {e : Nat} (he : e < 8192) : (x.half h)[e]? = some (x.acc h e) := by
  rw [Tile.half, List.getElem?_map, List.getElem?_range he, Option.map_some]

/-! ## The sums (05 R118, 06 R153) -/

/-- Entry e after the products: the sum from its value at the start. -/
theorem getElem?_mmPlain (x : Tile) (o : MmOpt) (l : MmLay) {start : List A36} {e : Nat} {v : A36} (h : start[e]? = some v) :
    (mmPlain x o l start).1[e]? =
      some (sum36 v ((List.range l.k).map (fun k => (mmProd x o l (e / 128) (e % 128) k).1))).1 := by
  simp [mmPlain, mmProds, List.getElem?_zipIdx, h, Function.comp_def]

/-- The entries a product starts from: the half's own under ACCUM, else zeros. -/
theorem getElem?_mmStart (x : Tile) (accum : Bool) (h : Nat) {e : Nat} (he : e < 8192) :
    (if accum then x.half h else List.replicate 8192 a36Zero)[e]? = some (if accum then x.acc h e else a36Zero) := by
  cases accum
  · exact List.getElem?_replicate_of_lt he
  · exact x.getElem?_half h he

/-- What a product without chunks makes of its half. -/
theorem runMm_plain (x : Tile) {i : EInstr} (ho : W.op i.w ≠ 4) :
    (runMm x i).x = x.setHalf (fld i.w 0 1) 0 (mmPlain x (mmOpt i) (mmLay i)
      (if (mmOpt i).accum then x.half (fld i.w 0 1) else List.replicate 8192 a36Zero)).1 := by
  simp only [runMm, if_neg ho]

/-- Settles O11: the effect writes entry e of its half alone, once for each e, with the sum of R153. -/
theorem matrixProductResult : Obligations.MatrixProductResult := by
  unfold Obligations.MatrixProductResult
  intro t s i flag e x h hend hcls hop hchunk he
  have hhalf : h < 2 := Nat.mod_lt _ (by decide)
  have hother : ¬ (1 - h = 0 ↔ h = 0) := by omega
  have hrun := runMm_plain x hchunk
  obtain ⟨a, b, hstores⟩ := x.setHalf_frame h 0 (mmPlain x (mmOpt i) (mmLay i)
    (if (mmOpt i).accum then x.half h else List.replicate 8192 a36Zero)).1
  have heff : arithEffect s t.toNat x i = some (runMm x i) := by simp [arithEffect, hcls, hop]
  obtain ⟨s', hexec, hdone, hframe⟩ :=
    exec_engineInstrComplete_result flag hend (Or.inl hcls) heff (hrun ▸ hstores ▸ rfl)
  have hacc (g j : Nat) : (s'.tile t.toNat).acc g j = (runMm x i).x.acc g j := by rw [hframe]; rfl
  refine ⟨s', hexec, hdone, by rw [hframe, hrun, hstores], by rw [hframe, hrun, hstores], fun k => ?_, ?_⟩
  · rw [hacc, hrun]; exact x.acc_setHalf_other _ _ _ hother
  · rw [hacc, hrun, ← Nat.zero_add e]
    refine (x.acc_setHalf h 0 e (getElem?_mmPlain x _ _ (getElem?_mmStart x _ h he))).trans ?_
    rw [Nat.zero_add]

end Sys2Proof.Machine
end

section
/-! SUPPORT. Elementwise vector results and comparisons (05 R113, R126, R128, R129), and the statement about them. -/
namespace Sys2Proof.Machine

/-! ## Digits and bytes (00 R7, 05 R113) -/

/-- The digits of a number composed from a list, in the base that bounds them. -/
theorem foldr_digit {α : Type} {f : α → Nat} {b : Nat} (hf : ∀ a, f a < b) (l : List α) (j : Nat) :
    l.foldr (fun a n => f a + b * n) 0 / b ^ j % b = (l[j]?.map f).getD 0 := by
  induction l generalizing j with
  | nil => simp
  | cons a l ih =>
    have hb : 0 < b := Nat.lt_of_le_of_lt (Nat.zero_le _) (hf a)
    cases j with
    | zero => simp [Nat.mod_eq_of_lt (hf a)]
    | succ j =>
      rw [List.foldr_cons, Nat.pow_succ', ← Nat.div_div_eq_div_mul, Nat.add_mul_div_left _ _ hb, Nat.div_eq_of_lt (hf a), Nat.zero_add,
        ih, List.getElem?_cons_succ]

theorem length_toBytesLE (k n : Nat) : (toBytesLE k n).length = k := by
  induction k generalizing n with
  | zero => rfl
  | succ k ih => rw [toBytesLE, List.length_cons, ih]

theorem toBytesLE_getD {k i : Nat} (n : Nat) (hi : i < k) : (toBytesLE k n).getD i 0 = BitVec.ofNat 8 (n / 256 ^ i) := by
  induction k generalizing n i with
  | zero => omega
  | succ k ih =>
    rw [toBytesLE]
    cases i with
    | zero => simp
    | succ i => rw [List.getD_cons_succ, ih _ (by omega), Nat.div_div_eq_div_mul, Nat.pow_succ']

/-- The bytes of a number, read back. -/
theorem ofBytesLE_bytes (n k : Nat) : ofBytesLE ((List.range k).map (fun i => BitVec.ofNat 8 (n / 256 ^ i))) = n % 256 ^ k := by
  induction k generalizing n with
  | zero => simp [ofBytesLE, Nat.mod_one]
  | succ k ih =>
    have h := ih (n / 256)
    simp only [Nat.div_div_eq_div_mul, ← Nat.pow_succ'] at h
    rw [List.range_succ_eq_map, List.map_cons, List.map_map, ofBytesLE, Function.comp_def, h, Nat.pow_succ', Nat.mod_mul]
    simp

/-! ## Codes in the scratchpad -/

theorem length_packCodes (w : Nat) (cs : List Nat) : (packCodes w cs).length = cs.length * w / 8 := length_toBytesLE _ _

theorem Tile.spad_setSpad (x : Tile) (off : Nat) (bs : List Byte) (b : Nat) :
    Tab.get 0 (x.setSpad off bs).spad b = if off ≤ b ∧ b < off + bs.length then bs.getD (b - off) 0 else Tab.get 0 x.spad b :=
  putBytes_get _ _ _ _

/-- Bytes m to m + k − 1 of a number written to the scratchpad. -/
theorem Tile.spadNat_setSpad_toBytesLE (x : Tile) (off v : Nat) {n m k : Nat} (h : m + k ≤ n) :
    (x.setSpad off (toBytesLE n v)).spadNat (off + m) k = v / 256 ^ m % 256 ^ k := by
  rw [← ofBytesLE_bytes, Tile.spadNat, Tile.spadBytes]
  refine congrArg ofBytesLE (List.map_congr_left fun i hi => ?_)
  have hik : i < k := List.mem_range.mp hi
  rw [Tile.spad_setSpad, if_pos (by rw [length_toBytesLE]; omega), show off + m + i - off = m + i by omega,
    toBytesLE_getD _ (by omega), Nat.pow_add, Nat.div_div_eq_div_mul]

/-- A code of whole bytes is the number those bytes spell. -/
theorem Tile.spadCode_bytes (x : Tile) (off m k : Nat) : x.spadCode off (8 * m) (8 * k) = x.spadNat (off + m) k % 2 ^ (8 * k) := by
  have hdiv : 8 * m / 8 = m := by omega
  have hmod : 8 * m % 8 = 0 := by omega
  have hwidth : (0 + 8 * k + 7) / 8 = k := by omega
  rw [Tile.spadCode, hdiv, hmod, hwidth, Nat.shiftRight_zero]

/-- Element j of a packed list of codes of k bytes reads back as its code. -/
theorem Tile.spadCode_setSpad_packCodes (x : Tile) (off k : Nat) {cs : List Nat} {j c : Nat} (hc : cs[j]? = some c) :
    (x.setSpad off (packCodes (8 * k) cs)).spadCode off (8 * k * j) (8 * k) = c % 2 ^ (8 * k) := by
  obtain ⟨hj, -⟩ := List.getElem?_eq_some_iff.mp hc
  have hlen : cs.length * (8 * k) / 8 = k * cs.length := by rw [Nat.mul_comm, Nat.mul_assoc]; omega
  have hin : k * j + k ≤ k * cs.length := Nat.mul_le_mul_left k hj
  have hbase : 256 ^ (k * j) = (2 ^ (8 * k)) ^ j ∧ 256 ^ k = 2 ^ (8 * k) := by
    rw [Nat.pow_mul 256, Nat.pow_mul 2]; exact ⟨rfl, rfl⟩
  rw [packCodes, hlen, Nat.mul_assoc, Tile.spadCode_bytes, Tile.spadNat_setSpad_toBytesLE _ _ _ hin, hbase.1, hbase.2,
    foldr_digit (f := fun c => c % 2 ^ (8 * k)) (fun _ => Nat.mod_lt _ (Nat.two_pow_pos _)), hc]
  exact Nat.mod_mod _ _

/-! ## Elementwise instructions (05 R126, R128) -/

/-- The exact results of Table 5.10 by opcode, from σ and the elements of A and B. -/
def vectorForms : List (Nat × (Num → Num → Num → Num)) :=
  [(1, fun _ a b => (a.addX b).1), (2, fun _ a b => (a.addX b.neg).1), (3, fun _ a b => (a.mulX b).1),
    (4, fun _ a b => vMaxNum a b), (5, fun _ a b => vMinNum a b), (6, fun g a _ => (g.mulX a).1),
    (7, fun g a b => ((g.mulX a).1.addX b).1), (8, fun _ a _ => a)]

theorem vElem_q {p : Nat × (Num → Num → Num → Num)} (hp : p ∈ vectorForms) (x : Tile) {i : EInstr} (ho : W.op i.w = p.1) (j : Nat) :
    (vElem x i j).q =
      .num (p.2 (vSigmaNum i) (x.elem (vFmt i) (i.reg 6).toNat j) (x.elem (vFmt i) (i.reg 12).toNat j)) false := by
  simp only [vectorForms, List.mem_cons, List.not_mem_nil, or_false] at hp
  rcases hp with rfl | rfl | rfl | rfl | rfl | rfl | rfl | rfl <;> simp only [vElem, ho] <;> rfl

theorem vectorForms_op {p : Nat × (Num → Num → Num → Num)} (hp : p ∈ vectorForms) : p.1 ≤ 8 := by
  revert p
  simp [vectorForms]

/-- The formats without shared scales have codes of whole bytes. -/
theorem fmtOf_bytes {c : Nat} {F : Fmt} (hc : c < 4) (h : fmtOf c = some F) : ∃ k, F.bits = 8 * k := by
  have hall : ∀ c < 4, ∀ F ∈ fmtOf c, F.bits = 8 * (F.bits / 8) := by decide
  exact ⟨_, hall c hc F h⟩

/-- The codes that masking delivers. -/
theorem vMasked_codes (x : Tile) (i : EInstr) (off n : Nat) (col : Nat → Nat) (f : Nat → Nat × Fl) :
    (vMasked x i off n col f).map (fun r => r.1) = (List.range n).map (fun j =>
      if vMk i = 0 ∨ bit (x.rdK (vMk i)) (col j % 256) = true then (f j).1
      else if vMz i then 0 else x.spadCode off (fmtBits (vOfmt i) * j) (fmtBits (vOfmt i))) := by
  unfold vMasked
  rw [List.map_map]
  refine List.map_congr_left fun j _ => ?_
  simp only [Function.comp_apply, Bool.or_eq_true, decide_eq_true_eq]
  split <;> rfl

/-- The code of element j after an elementwise instruction of exact result v. -/
def vCode (x : Tile) (e : VEnv) (i : EInstr) (F : Fmt) (off j : Nat) (v : Num) : Nat :=
  if vMk i = 0 ∨ bit (x.rdK (vMk i)) (j % 256) = true then (F.storeQuot (vRounding e i j) e.sat (.num v false)).1
  else if vMz i then 0 else x.spadCode off (F.bits * j) F.bits

/-- An elementwise instruction packs the codes of its N elements at s[RD]. -/
theorem runElem_x {p : Nat × (Num → Num → Num → Num)} (hp : p ∈ vectorForms) (x : Tile) (e : VEnv) {i : EInstr}
    (ho : W.op i.w = p.1) {F : Fmt} (hc : vOfmt i < 4) (hF : fmtOf (vOfmt i) = some F) :
    (runElem x e i).x = x.setSpad (i.reg 0).toNat (packCodes F.bits ((List.range (vN i)).map (fun j =>
      vCode x e i F (i.reg 0).toNat j
        (p.2 (vSigmaNum i) (x.elem (vFmt i) (i.reg 6).toNat j) (x.elem (vFmt i) (i.reg 12).toNat j))))) := by
  have hmx : isMx (vOfmt i) = false := by simp [isMx]; omega
  have hbits : fmtBits (vOfmt i) = F.bits := by simp [fmtBits, hF]
  simp only [runElem, hmx, Bool.false_eq_true, if_false, vDeliver, vMasked_codes, vStore, vElem_q hp x ho, hbits, hF, Option.getD_some]
  rfl

/-! ## Comparisons (05 R129) -/

theorem Tile.rdK_wrK_same (x : Tile) {n : Nat} (v : BitVec 256) (hn : n ≠ 0) : (x.wrK n v).rdK n = v := by
  simp [Tile.wrK, Tile.rdK, hn]

theorem Tile.rdK_wrK_other (x : Tile) {n m : Nat} (v : BitVec 256) (h : m ≠ n) : (x.wrK n v).rdK m = x.rdK m := by
  unfold Tile.wrK Tile.rdK
  split
  · rfl
  · split
    · rfl
    · exact Tab.get_put_other _ _ _ h

/-- Bit j of a mask composed from a list of booleans. -/
theorem bit_ofNat_foldr {α : Type} (f : α → Bool) (l : List α) {j : Nat} (hj : j < 256) :
    bit (BitVec.ofNat 256 (l.foldr (fun a n => b2n (f a) + 2 * n) 0)) j = (l[j]?.map f).getD false := by
  have hdigit := foldr_digit (f := fun a => b2n (f a)) (b := 2) (fun a => by cases f a <;> decide) l j
  rw [bit, BitVec.toNat_ofNat, Nat.testBit_mod_two_pow, decide_eq_true hj, Bool.true_and, Nat.testBit_eq_decide_div_mod_eq, hdigit]
  cases l[j]? with
  | none => rfl
  | some a => cases f a <;> simp [b2n]

/-- B of a comparison: element j of B for vcmp, σ for vcmps. -/
def cmpOperand (x : Tile) (i : EInstr) (j : Nat) : Num :=
  if W.op i.w = 9 then x.elem (vFmt i) (i.reg 12).toNat j else vSigmaNum i

/-- A comparison writes k[K] alone, and bit j of it is the comparison of element j. -/
theorem runCmp_x (x : Tile) (i : EInstr) : ∃ m : BitVec 256, (runCmp x i).x = x.wrK (fld i.w 0 3) m ∧
    ∀ j, j < 256 → bit m j =
      (decide (j < vN i) && condHolds (fld i.w 3 3) (x.elem (vFmt i) (i.reg 6).toNat j) (cmpOperand x i j)) := by
  refine ⟨_, rfl, fun j hj => ?_⟩
  rw [bit_ofNat_foldr _ _ hj, List.getElem?_map]
  by_cases h : j < vN i
  · rw [List.getElem?_range h, decide_eq_true h]
    rfl
  · rw [List.getElem?_eq_none (by rw [List.length_range]; omega), decide_eq_false h]
    rfl

/-! ## The statement, part by part -/

theorem arithEffect_vector (s : State) (t : Nat) (x : Tile) {i : EInstr} (hc : W.cls i.w = 5) :
    arithEffect s t x i = some (runVec x (s.vEnv t) i) := by
  simp only [arithEffect, hc]

theorem exec_vectorElementwise_result {p : Nat × (Num → Num → Num → Num)} (hp : p ∈ vectorForms) {t : BitVec 8} {s : State}
    {i : EInstr} (flag : Bool) {F : Fmt} (hend : EndsInOrder s t.toNat .vector i) (hcls : W.cls i.w = 5) (hop : W.op i.w = p.1)
    (hfmt : vOfmt i < 4) (hF : fmtOf (vOfmt i) = some F) :
    let x := s.tile t.toNat
    let off := (i.reg 0).toNat
    ∃ s', exec (.engineInstrComplete t .vector (cleanFind flag)) s = .next s' ∧ ArithEnd t.toNat .vector i s s' ∧
      (s'.tile t.toNat).acc0 = x.acc0 ∧ (s'.tile t.toNat).acc1 = x.acc1 ∧ (s'.tile t.toNat).k = x.k ∧
      (∀ j, j < vN i → (s'.tile t.toNat).spadCode off (F.bits * j) F.bits = vCode x (s.vEnv t.toNat) i F off j
        (p.2 (vSigmaNum i) (x.elem (vFmt i) (i.reg 6).toNat j) (x.elem (vFmt i) (i.reg 12).toNat j)) % 2 ^ F.bits) ∧
      (∀ b, b < off ∨ off + vN i * F.bits / 8 ≤ b → Tab.get 0 (s'.tile t.toNat).spad b = Tab.get 0 x.spad b) := by
  intro x off
  obtain ⟨k, hk⟩ := fmtOf_bytes hfmt hF
  have hle := vectorForms_op hp
  have hvec : runVec x (s.vEnv t.toNat) i = runElem x (s.vEnv t.toNat) i := by
    rw [runVec, if_neg (by omega), if_neg (by omega), if_pos (by omega)]
  have hx := runElem_x hp x (s.vEnv t.toNat) hop hfmt hF
  obtain ⟨s', hexec, hdone, hframe⟩ := exec_engineInstrComplete_result flag hend (Or.inr hcls)
    ((arithEffect_vector s t.toNat x hcls).trans (congrArg some hvec)) (hx ▸ rfl)
  have hspad : (s'.tile t.toNat).spad = (runElem x (s.vEnv t.toNat) i).x.spad := by rw [hframe]
  have hcode (b n : Nat) : (s'.tile t.toNat).spadCode off b n = (runElem x (s.vEnv t.toNat) i).x.spadCode off b n := by
    rw [hframe]; rfl
  refine ⟨s', hexec, hdone, by rw [hframe, hx]; rfl, by rw [hframe, hx]; rfl, by rw [hframe, hx]; rfl, fun j hj => ?_, fun b hb => ?_⟩
  · rw [hcode, hx, hk]
    exact x.spadCode_setSpad_packCodes off k (by rw [List.getElem?_map, List.getElem?_range hj]; rfl)
  · rw [hspad, hx, Tile.spad_setSpad, length_packCodes, List.length_map, List.length_range, if_neg (by omega)]

theorem exec_vectorCompare_result {t : BitVec 8} {s : State} {i : EInstr} (flag : Bool) (hend : EndsInOrder s t.toNat .vector i)
    (hcls : W.cls i.w = 5) (hop : W.op i.w = 9 ∨ W.op i.w = 0x0A) (hK : fld i.w 0 3 ≠ 0) :
    let x := s.tile t.toNat
    ∃ s', exec (.engineInstrComplete t .vector (cleanFind flag)) s = .next s' ∧ ArithEnd t.toNat .vector i s s' ∧
      (s'.tile t.toNat).acc0 = x.acc0 ∧ (s'.tile t.toNat).acc1 = x.acc1 ∧ (s'.tile t.toNat).spad = x.spad ∧
      (∀ k, k ≠ fld i.w 0 3 → (s'.tile t.toNat).rdK k = x.rdK k) ∧
      (∀ j, j < 256 → bit ((s'.tile t.toNat).rdK (fld i.w 0 3)) j =
        (decide (j < vN i) && condHolds (fld i.w 3 3) (x.elem (vFmt i) (i.reg 6).toNat j) (cmpOperand x i j))) := by
  intro x
  have hvec : runVec x (s.vEnv t.toNat) i = runCmp x i := by
    rw [runVec, if_neg (by omega), if_neg (by omega), if_neg (by omega), if_pos hop]
  obtain ⟨m, hx, hm⟩ := runCmp_x x i
  have hwr : x.wrK (fld i.w 0 3) m = { x with k := Tab.put 0 x.k (fld i.w 0 3) m } := if_neg hK
  obtain ⟨s', hexec, hdone, hframe⟩ := exec_engineInstrComplete_result flag hend (Or.inr hcls)
    ((arithEffect_vector s t.toNat x hcls).trans (congrArg some hvec)) (hx ▸ hwr ▸ rfl)
  have hrdK (k : Nat) : (s'.tile t.toNat).rdK k = (runCmp x i).x.rdK k := by rw [hframe]; rfl
  refine ⟨s', hexec, hdone, by rw [hframe, hx, hwr], by rw [hframe, hx, hwr], by rw [hframe, hx, hwr], fun k hk => ?_,
    fun j hj => ?_⟩
  · rw [hrdK, hx, Tile.rdK_wrK_other _ _ hk]
  · rw [hrdK, hx, Tile.rdK_wrK_same _ _ hK, hm j hj]

/-- Settles O10: the packed codes of an elementwise result read back one by one, and a comparison's bits stand in its mask. -/
theorem vectorResult : Obligations.VectorResult := by
  unfold Obligations.VectorResult
  refine ⟨?_, ?_⟩
  · intro p hp t s i flag F x off hend hcls hop hfmt hF
    obtain ⟨s', hexec, hdone, hacc0, hacc1, hk, hcode, hrest⟩ := exec_vectorElementwise_result hp flag hend hcls hop hfmt hF
    refine ⟨s', hexec, hdone, hacc0, hacc1, hk, fun j hj => (hcode j hj).trans ?_, hrest⟩
    unfold vCode
    split
    · rfl
    · split
      · rfl
      · exact Nat.mod_mod _ _
  · intro t s i flag x b hend hcls hop hK
    exact exec_vectorCompare_result flag hend hcls hop hK

end Sys2Proof.Machine
end

section
/-! SUPPORT. Register reads and writes over the host link (02 R39, R42, R43), and the statement about JOB_SEED (06 R147). -/
namespace Sys2Proof.Machine

/-! ## The header of a packet that goes up (02 R39) -/

/-- The header fields of an upward packet do not overlap, so DW0 holds their sum. -/
theorem mkUp_dw0_toNat {ty : Nat} (hty : ty < 16) (tag m : Nat) (a b c : W32) (pl : List Byte) :
    (mkUp ty tag m a b c pl).dw0.toNat =
      ty + 16 + (m % 64) * 2 ^ 6 + ((padTo 32 pl).length / 32 % 2 ^ 11) * 2 ^ 12 + (tag % 512) * 2 ^ 23 := by
  have hlen : (padTo 32 pl).length / 32 % 2 ^ 11 < 2 ^ 11 := Nat.mod_lt _ (by decide)
  have hm : m % 64 < 64 := Nat.mod_lt _ (by decide)
  have ht : tag % 512 < 512 := Nat.mod_lt _ (by decide)
  rw [mkUp, BitVec.toNat_ofNat, Nat.mod_eq_of_lt (by omega)]

theorem mkUp_type {ty : Nat} (hty : ty < 16) (tag m : Nat) (a b c : W32) (pl : List Byte) :
    fld (mkUp ty tag m a b c pl).dw0 0 4 = ty := by
  rw [fld, mkUp_dw0_toNat hty, Nat.shiftRight_eq_div_pow]
  omega

theorem mkUp_dir {ty : Nat} (hty : ty < 16) (tag m : Nat) (a b c : W32) (pl : List Byte) :
    bit (mkUp ty tag m a b c pl).dw0 4 = true := by
  rw [bit, mkUp_dw0_toNat hty, Nat.testBit_eq_decide_div_mod_eq, decide_eq_true_eq]
  omega

theorem mkUp_mod {ty : Nat} (hty : ty < 16) (tag m : Nat) (a b c : W32) (pl : List Byte) :
    fld (mkUp ty tag m a b c pl).dw0 6 6 = m % 64 := by
  rw [fld, mkUp_dw0_toNat hty, Nat.shiftRight_eq_div_pow]
  omega

theorem mkUp_tag {ty : Nat} (hty : ty < 16) (tag m : Nat) (a b c : W32) (pl : List Byte) :
    fld (mkUp ty tag m a b c pl).dw0 23 9 = tag % 512 := by
  have hlen : (padTo 32 pl).length / 32 % 2 ^ 11 < 2 ^ 11 := Nat.mod_lt _ (by decide)
  rw [fld, mkUp_dw0_toNat hty, Nat.shiftRight_eq_div_pow]
  omega

/-! ## Answers (02 R41, Table 2.4) -/

/-- The packet made for an answer is one. -/
theorem answers_mkUp (s : State) (k : Packet) {ty : Nat} (hty : ty < 16) (dw1 : W32) (v : W64) (pl : List Byte) :
    Answers s k (mkUp ty (Packet.tag k) s.modNumber dw1 (v.setWidth 32) ((v >>> 32).setWidth 32) pl) ty dw1 v pl :=
  have hmod : s.modNumber % 64 = s.modNumber := Nat.mod_mod _ _
  have htag : Packet.tag k % 512 = fld k.dw0 23 9 := Nat.mod_mod _ _
  ⟨mkUp_type hty .., mkUp_dir hty .., (mkUp_mod hty ..).trans hmod, (mkUp_tag hty ..).trans htag, rfl, rfl, rfl, rfl⟩

/-- A packet of a type on PXU carries that type. -/
theorem OnPxu.ty_eq {s : State} {k : Packet} {ty : Nat} (h : OnPxu s k ty) : Packet.ty k = ty := by
  obtain ⟨-, -, hty, -⟩ := h
  exact hty

/-- A register write is a REG_WR on PXU. -/
theorem Writes.onPxu {s : State} {k : Packet} {o : Nat} {w : W64} (h : Writes s k o w) : OnPxu s k 0x3 := by
  obtain ⟨hpxu, -⟩ := h
  exact hpxu

/-- A response from a state with the module's identity hands PXU one answer, and does nothing else. -/
theorem State.respond_answers {s s1 : State} {k : Packet} {ty : Nat} (hk : Packet.ty k = ty)
    (hid : s1.host.ident = s.host.ident) (st : W16) (v : W64) (pl : List Byte) :
    ∃ r, Answers s k r ty (st.setWidth 32) v pl ∧ s1.respond k st v pl = s1.postUp r := by
  subst hk
  refine ⟨_, answers_mkUp s k (Nat.mod_lt _ (by decide)) _ v pl, ?_⟩
  rw [State.modNumber, ← hid]
  rfl

/-- A packet taken from PXU and responded to in the state as it is leaves the answer alone. -/
theorem State.onlyAnswered_respond {s : State} {k : Packet} {ty : Nat} (hk : Packet.ty k = ty) (st : W16) (v : W64) (pl : List Byte) :
    OnlyAnswered s ((s.takeRx .pxu k).respond k st v pl) k ty (st.setWidth 32) v pl := by
  obtain ⟨r, hr, hs⟩ := State.respond_answers (s := s) (s1 := s.takeRx .pxu k) hk rfl st v pl
  exact ⟨r, hr, by rw [hs]; rfl⟩

/-- A register stored for a packet of PXU, and an answer handed up, change the ports, the registers and the packets to send. -/
theorem State.takeRx_setReg_postUp_frame (s : State) (k r : Packet) (o : Nat) (v : W64) :
    let s' := ((s.takeRx .pxu k).setReg o v).postUp r
    s' = { s with ports := s'.ports, regs := s'.regs, host := { s.host with upTx := s'.host.upTx } } := by
  simp only [State.postUp, State.setReg, State.takeRx, State.updPort, State.setPort]

/-! ## Reads of stored registers (02 R42, R43) -/

/-- A stored register reads as it was last written. -/
theorem State.regVal_of_isStored (s : State) {o : Nat} (v : W64) (h : isStored o = true) : s.regVal o v = some (s.reg o) := if_pos h

/-- A read of a stored register that shows no open value answers what the register holds. -/
theorem State.readNow_of_isStored {s : State} {k : Packet} {o : Nat} (ho : Packet.off k = o) (hst : isStored o = true)
    (hopen : isOpen o = false) (hserv : regServed s o = true) : s.readNow k = s.respond k Status.ok (s.reg o) [] := by
  simp [State.readNow, ho, hopen, hserv, State.regVal_of_isStored s _ hst]

/-- A REG_RD on PXU, of a register with no row of its own and with no DATA_PUT waiting, is read at once. -/
theorem exec_regRd_here {s : State} {k : Packet} (h : OnPxu s k 0x2) (hstep : Packet.off k ≠ 0x20010)
    (hrc : isRc (Packet.off k) = false) (hput : s.putWaits = false) : exec (.regRd k) s = .next ((s.takeRx .pxu k).readNow k) := by
  have hturn : (s.takeRx .pxu k).putWaits = false := hput
  change execRegRd k s = _
  rw [execRegRd, if_neg (by simp [hstep, hrc]), State.pxu_here _ h, State.inTurn, hturn]
  rfl

/-- Outside RECOVERY every register is served (15 R391). -/
theorem regServed_of_not_recovery {s : State} (h : s.recovery = false) (o : Nat) : regServed s o = true := by
  simp [regServed, h]

/-! ## JOB_SEED (06 R147) -/

/-- JOB_SEED takes any value while the job has no command queued or running, and none otherwise. -/
theorem State.writeOther_jobSeed (s : State) (w : W64) :
    s.writeOther Reg.jobSeed w = if s.busy then none else some (s.setReg Reg.jobSeed w) := rfl

/-- No other row takes a write to JOB_SEED. -/
theorem ownWrite_jobSeed (w : W64) : ownWrite Reg.jobSeed w = false := rfl

/-- A write to JOB_SEED while the job is not busy. -/
theorem exec_registerWrite_jobSeed_idle {s : State} {k : Packet} {w : W64} (h : Writes s k Reg.jobSeed w) (hb : s.busy = false) :
    exec (.registerWrite k) s = .next (((s.takeRx .pxu k).setReg Reg.jobSeed w).respond k Status.ok 0 []) := by
  have hbusy : (s.takeRx .pxu k).busy = false := hb
  have hmine : (!ownWrite Reg.jobSeed (Packet.qw k)) = true := by rw [ownWrite_jobSeed]; rfl
  exact congrArg Host.Outcome.next (State.regWr_ok h hmine (by rw [State.writeOther_jobSeed, hbusy]; rfl))

/-- A write to JOB_SEED while the job is busy. -/
theorem exec_registerWrite_jobSeed_busy {s : State} {k : Packet} {w : W64} (h : Writes s k Reg.jobSeed w) (hb : s.busy = true) :
    exec (.registerWrite k) s = .next ((s.takeRx .pxu k).respond k Status.errRange 0 []) := by
  have hbusy : (s.takeRx .pxu k).busy = true := hb
  have hmine : (!ownWrite Reg.jobSeed (Packet.qw k)) = true := by rw [ownWrite_jobSeed]; rfl
  exact congrArg Host.Outcome.next (State.regWr_no h hmine (by rw [State.writeOther_jobSeed, hbusy]; rfl))

/-- A read of JOB_SEED outside RECOVERY. -/
theorem exec_regRd_jobSeed {s : State} {k : Packet} (h : OnPxu s k 0x2) (ho : Packet.off k = Reg.jobSeed) (hput : s.putWaits = false)
    (hrec : s.recovery = false) : exec (.regRd k) s = .next ((s.takeRx .pxu k).respond k Status.ok s.jobSeed []) := by
  have hserv : regServed (s.takeRx .pxu k) Reg.jobSeed = true := regServed_of_not_recovery hrec _
  rw [exec_regRd_here h (by rw [ho]; decide) (by rw [ho]; decide) hput, State.readNow_of_isStored ho (by decide) (by decide) hserv]
  rfl

/-- Settles O58: the register's reset value, and one case each for a write while the job is idle, a write while it is busy and a
read. -/
theorem jobSeedRegister : Obligations.JobSeedRegister := by
  unfold Obligations.JobSeedRegister
  refine ⟨?_, fun k s w => ⟨?_, ?_, ?_⟩⟩
  · rfl
  · intro h hb
    obtain ⟨r, hr, hs⟩ := State.respond_answers (s := s) (s1 := (s.takeRx .pxu k).setReg Reg.jobSeed w)
      h.onPxu.ty_eq rfl Status.ok 0 []
    refine ⟨_, (exec_registerWrite_jobSeed_idle h hb).trans (congrArg Host.Outcome.next hs), ?_, ?_, ⟨r, hr, rfl⟩,
      State.takeRx_setReg_postUp_frame ..⟩
    · exact State.reg_setReg_same _ _ _
    · exact fun x hx => State.reg_setReg_other _ _ _ x hx
  · intro h hb
    exact ⟨_, exec_registerWrite_jobSeed_busy h hb, State.onlyAnswered_respond h.onPxu.ty_eq Status.errRange 0 []⟩
  · intro h ho hput hrec
    exact ⟨_, exec_regRd_jobSeed h ho hput hrec, State.onlyAnswered_respond h.ty_eq Status.ok s.jobSeed []⟩

end Sys2Proof.Machine
end

section
/-! SUPPORT. Memory that is usable (09 R222, R225, R231): what a read by reference returns, and what writes at locations leave. -/
namespace Sys2Proof.Machine

/-! ## References -/

/-- The reference names memory itself, not a buffer by its handle. -/
def Ref.plain : Ref → Bool
  | .hnd _ _ => false
  | _ => true

@[simp] theorem Ref.add_zero (r : Ref) : r.add 0 = r := by cases r <;> rfl

theorem Ref.add_add (r : Ref) (i j : Nat) : (r.add i).add j = r.add (i + j) := by
  cases r <;> simp [Ref.add, Nat.add_assoc]

theorem Ref.plain_add (r : Ref) (i : Nat) : (r.add i).plain = r.plain := by cases r <;> rfl

/-- Up to the next granule locations run with the bytes of a reference. -/
theorem State.refLoc_add {s : State} {r : Ref} {l : Nat} (i : Nat) (hp : r.plain = true) (hl : s.refLoc r = some l)
    (hi : i < pieceLen r.num) : s.refLoc (r.add i) = some (l + i) := by
  cases r with
  | addr a => exact (addrLoc_add s i hl (by have : i < 64 - a % 64 := hi; omega)).1
  | hnd h o => cases hp
  | loc k => cases hl; rfl

/-! ## Reads -/

/-- Each of n bytes from the reference lies in memory, in a granule that is not uncorrectable. -/
def State.Readable (s : State) (r : Ref) (n : Nat) : Prop :=
  ∀ i, i < n → ∃ l, s.refLoc (r.add i) = some l ∧ s.mem.ue.contains (l / 64) = false

theorem State.Readable.drop {s : State} {r : Ref} {n : Nat} (h : s.Readable r n) (k : Nat) : s.Readable (r.add k) (n - k) := by
  intro i hi
  rw [Ref.add_add]
  exact h (k + i) (by omega)

/-- Without uncorrectable granules every byte by location can be read. -/
theorem State.readable_loc {s : State} (h : s.mem.ue = []) (l n : Nat) : s.Readable (.loc l) n :=
  fun i _ => ⟨l + i, rfl, by rw [h]; rfl⟩

theorem addrLoc_of_inOneTier (s : State) {a n i : Nat} (h : inOneTier a n = true) (hi : i < n) : ∃ l, s.addrLoc (a + i) = some l := by
  by_cases hn : a + i < nearSize
  · exact ⟨_, addrLoc_near s _ hn⟩
  · refine ⟨_, (addrLoc_far s _ hn).trans (if_pos ?_)⟩
    simp only [inOneTier, inOuter, Bool.or_eq_true, Bool.and_eq_true, decide_eq_true_eq] at h ⊢
    omega

theorem State.readable_addr {s : State} {a n : Nat} (h : Whole s a n) : s.Readable (.addr a) n := by
  intro i hi
  obtain ⟨htier, hue⟩ := h
  obtain ⟨l, hl⟩ := addrLoc_of_inOneTier s htier hi
  exact ⟨l, hl, hue i hi l hl⟩

/-- A granule that can be read needs no repair. -/
theorem State.repairGranule_usable {s : State} {g : Nat} (h : s.mem.ue.contains g = false) : s.repairGranule g = (s, true) := by
  simp only [State.repairGranule, h, Bool.false_eq_true, if_false]

/-- The bytes that n bytes from a reference hold; 0 where it names none. -/
def State.refBytes (s : State) (r : Ref) (n : Nat) : List Byte :=
  (List.range n).map (fun i => ((s.refLoc (r.add i)).map s.memByte).getD 0)

theorem State.refBytes_addr (s : State) (a n : Nat) : s.refBytes (.addr a) n = s.peek a n := by
  unfold State.refBytes State.peek
  refine List.map_congr_left fun i _ => ?_
  show ((s.addrLoc (a + i)).map s.memByte).getD 0 = _
  cases s.addrLoc (a + i) <;> rfl

/-- The bytes of the first piece, and those behind it. -/
theorem State.refBytes_split {s : State} {r : Ref} {l k n : Nat} (hp : r.plain = true) (hl : s.refLoc r = some l)
    (hk : k ≤ pieceLen r.num) (hkn : k ≤ n) : s.refBytes r n = s.locBytes l k ++ s.refBytes (r.add k) (n - k) := by
  obtain ⟨m, rfl⟩ := Nat.exists_eq_add_of_le hkn
  have hfirst : ∀ i ∈ List.range k, ((s.refLoc (r.add i)).map s.memByte).getD 0 = s.memByte (l + i) := by
    intro i hi
    rw [State.refLoc_add i hp hl (by have := List.mem_range.mp hi; omega)]
    rfl
  unfold State.refBytes State.locBytes
  rw [List.range_add, List.map_append, List.map_congr_left hfirst, List.map_map, Nat.add_sub_cancel_left]
  simp only [Function.comp_def, Ref.add_add]

theorem State.readAt_usable {s : State} (fuel : Nat) {r : Ref} {n : Nat} (hp : r.plain = true) (hf : n < fuel)
    (h : s.Readable r n) : s.readAt fuel r n = (s.refBytes r n, s, none) := by
  induction fuel generalizing r n with
  | zero => omega
  | succ fuel ih =>
    by_cases hn : n = 0
    · subst hn; rfl
    · have hpiece : 1 ≤ pieceLen r.num := by unfold pieceLen; omega
      obtain ⟨l, hl, hue⟩ := h 0 (by omega)
      rw [Ref.add_zero] at hl
      have hrest := ih (r := r.add (min n (pieceLen r.num))) (n := n - min n (pieceLen r.num))
        ((Ref.plain_add _ _).trans hp) (by omega) (h.drop _)
      simp only [State.readAt, if_neg hn, hl, State.repairGranule_usable hue, hrest, if_true]
      rw [← State.refBytes_split hp hl (Nat.min_le_right _ _) (Nat.min_le_left _ _)]

/-- A read of usable data returns its bytes and changes nothing. -/
theorem State.readRef_usable {s : State} {r : Ref} {n : Nat} (hp : r.plain = true) (h : s.Readable r n) :
    s.readRef r n = (s.refBytes r n, s, none) := State.readAt_usable _ hp (Nat.lt_succ_self n) h

theorem State.readRef_addr {s : State} {a n : Nat} (h : Whole s a n) : s.readRef (.addr a) n = (s.peek a n, s, none) :=
  (State.readRef_usable rfl (State.readable_addr h)).trans (by rw [State.refBytes_addr])

/-! ## Writes at locations -/

/-- A plain write at a location, with nothing of memory uncorrectable. -/
theorem State.putBytesAt_loc (fuel : Nat) {s : State} {l : Nat} {bs : List Byte} (hf : bs.length < fuel) (h : s.mem.ue = []) :
    let s' := (s.putBytesAt fuel (.loc l) bs).1
    WriteFrame s s' ∧ s'.mem.ue = [] ∧
      ∀ k, s'.memByte k = if l ≤ k ∧ k < l + bs.length then bs.getD (k - l) 0 else s.memByte k := by
  induction fuel generalizing s l bs with
  | zero => omega
  | succ fuel ih =>
    cases bs with
    | nil => exact ⟨rfl, h, fun k => (if_neg (by rw [List.length_nil]; omega)).symm⟩
    | cons b bs =>
      have hpiece : 1 ≤ pieceLen l := by unfold pieceLen; omega
      generalize hp : (b :: bs).take (pieceLen l) = piece
      generalize hr : (b :: bs).drop (pieceLen l) = rest
      have hbs : b :: bs = piece ++ rest := by rw [← hp, ← hr, List.take_append_drop]
      have hlen : piece.length = min (pieceLen l) (b :: bs).length := by rw [← hp, List.length_take]
      have hrest : rest.length = (b :: bs).length - pieceLen l := by rw [← hr, List.length_drop]
      obtain ⟨-, hframe, hbyte, hue⟩ := State.putPiece_ok s l piece (by rw [h]; rfl)
      have hue1 : (s.putPiece l piece).1.mem.ue = [] := by rw [hue, h]; rfl
      obtain ⟨hframe2, hue2, hbyte2⟩ := ih (s := (s.putPiece l piece).1) (l := l + pieceLen l) (bs := rest)
        (by simp only [List.length_cons] at *; omega) hue1
      have hstep : (s.putBytesAt (fuel + 1) (.loc l) (b :: bs)).1 =
          ((s.putPiece l piece).1.putBytesAt fuel (.loc (l + pieceLen l)) rest).1 := by
        rw [← hp, ← hr]; rfl
      rw [hstep]
      refine ⟨hframe.trans hframe2, hue2, fun k => ?_⟩
      rw [hbyte2, hbyte, hbs, List.length_append]
      by_cases hlow : k < l + piece.length
      · rw [if_neg (by omega)]
        by_cases hk : l ≤ k
        · rw [if_pos ⟨hk, hlow⟩, if_pos (by omega), List.getD_eq_getElem?_getD, List.getD_eq_getElem?_getD,
            List.getElem?_append_left (by omega)]
        · rw [if_neg (by omega), if_neg (by omega)]
      · rw [if_neg (c := l ≤ k ∧ k < l + piece.length) (by omega)]
        by_cases hk : k < l + piece.length + rest.length
        · rw [if_pos (by omega), if_pos (by omega), List.getD_eq_getElem?_getD, List.getD_eq_getElem?_getD,
            List.getElem?_append_right (by omega)]
          exact congrArg (fun i => rest[i]?.getD 0) (by omega)
        · rw [if_neg (by omega), if_neg (by omega)]

/-- The writes of a list, each of bytes at a location, one after the other. -/
def State.writeAll (s : State) (ws : List (Nat × List Byte)) : State :=
  ws.foldl (fun s w => (s.writeRef (.loc w.1) w.2).1) s

theorem State.writeAll_append (s : State) (us ws : List (Nat × List Byte)) : s.writeAll (us ++ ws) = (s.writeAll us).writeAll ws :=
  List.foldl_append ..

theorem State.writeAll_frame {s : State} (ws : List (Nat × List Byte)) (h : s.mem.ue = []) :
    WriteFrame s (s.writeAll ws) ∧ (s.writeAll ws).mem.ue = [] := by
  induction ws generalizing s with
  | nil => exact ⟨rfl, h⟩
  | cons w ws ih =>
    obtain ⟨hframe, hue, -⟩ := State.putBytesAt_loc (l := w.1) _ (Nat.lt_succ_self w.2.length) h
    obtain ⟨hframe2, hue2⟩ := ih hue
    exact ⟨hframe.trans hframe2, hue2⟩

/-- A location that no write of the list covers. -/
def Uncovered (ws : List (Nat × List Byte)) (l : Nat) : Prop := ∀ w ∈ ws, l < w.1 ∨ w.1 + w.2.length ≤ l

theorem State.memByte_writeAll_uncovered {s : State} {ws : List (Nat × List Byte)} (h : s.mem.ue = []) {l : Nat}
    (hl : Uncovered ws l) : (s.writeAll ws).memByte l = s.memByte l := by
  induction ws generalizing s with
  | nil => rfl
  | cons w ws ih =>
    obtain ⟨-, hue, hbyte⟩ := State.putBytesAt_loc (l := w.1) _ (Nat.lt_succ_self w.2.length) h
    obtain ⟨hw, hws⟩ := List.forall_mem_cons.mp hl
    refine (ih hue hws).trans ((hbyte l).trans (if_neg ?_))
    omega

/-- Writes that do not overlap all stand in memory. -/
theorem State.memByte_writeAll_written {s : State} {ws : List (Nat × List Byte)} (h : s.mem.ue = [])
    (hd : ws.Pairwise (fun u v => u.1 + u.2.length ≤ v.1 ∨ v.1 + v.2.length ≤ u.1)) {w : Nat × List Byte} (hw : w ∈ ws) {j : Nat}
    (hj : j < w.2.length) : (s.writeAll ws).memByte (w.1 + j) = w.2.getD j 0 := by
  induction ws generalizing s with
  | nil => cases hw
  | cons v ws ih =>
    obtain ⟨-, hue, hbyte⟩ := State.putBytesAt_loc (l := v.1) _ (Nat.lt_succ_self v.2.length) h
    obtain ⟨hv, hws⟩ := List.pairwise_cons.mp hd
    rcases List.mem_cons.mp hw with rfl | hw
    · have hlater : Uncovered ws (w.1 + j) := fun u hu => by have := hv u hu; omega
      refine (State.memByte_writeAll_uncovered hue hlater).trans ((hbyte _).trans ?_)
      rw [if_pos (by omega), Nat.add_sub_cancel_left]
    · exact ih hue hws hw

/-- Lists of writes that each depend on the state, where what they depend on stays as it was. -/
theorem State.foldl_writeAll {ι : Type} (P : State → Prop) (f : State → ι → List (Nat × List Byte)) {s : State} {is : List ι}
    (hf : ∀ t, P t → ∀ i ∈ is, f t i = f s i ∧ P (t.writeAll (f s i))) {t : State} (ht : P t) :
    is.foldl (fun t i => t.writeAll (f t i)) t = t.writeAll (is.flatMap (f s)) := by
  induction is generalizing t with
  | nil => rfl
  | cons i is ih =>
    obtain ⟨heq, hnext⟩ := hf t ht i List.mem_cons_self
    rw [List.foldl_cons, List.flatMap_cons, State.writeAll_append, heq]
    exact ih (fun t ht j hj => hf t ht j (List.mem_cons_of_mem i hj)) hnext

/-! ## Page tables (07 Table 7.7) -/

/-- Every byte of context c's table reads as before. -/
def SameTable (c : Nat) (s t : State) : Prop :=
  ∀ j, j < 524288 → ∀ l, s.addrLoc (s.ctxTable c + j) = some l → t.memByte l = s.memByte l

/-- The entry of a page whose place in the table lies in memory. The definition is unfolded as a function, before its arguments are
there: the kernel would evaluate the address map on an address that is not known. -/
theorem State.pageEntry_of_some {s : State} {c p l : Nat} {epoch : W32}
    (h : s.addrLoc (s.ctxTable c + 131072 * (epoch.toNat % 4) + 8 * p) = some l) :
    s.pageEntry c epoch p = BitVec.ofNat 64 (ofBytesLE (s.locBytes l 8)) := by
  generalize hf : @State.pageEntry = f
  delta State.pageEntry at hf
  subst hf
  simp only [h]

theorem State.pageEntry_of_none {s : State} {c p : Nat} {epoch : W32}
    (h : s.addrLoc (s.ctxTable c + 131072 * (epoch.toNat % 4) + 8 * p) = none) : s.pageEntry c epoch p = 0 := by
  generalize hf : @State.pageEntry = f
  delta State.pageEntry at hf
  subst hf
  simp only [h]

theorem State.locBytes_of_sameTable {s t : State} {c a l : Nat} (h : SameTable c s t) (ha : a % 8 = 0) (hb : a < 524288)
    (hl : s.addrLoc (s.ctxTable c + a) = some l) : t.locBytes l 8 = s.locBytes l 8 := by
  have halign : (s.ctxTable c + a) % 64 ≤ 56 := by unfold State.ctxTable; omega
  refine List.map_congr_left fun i hi => ?_
  have hi8 := List.mem_range.mp hi
  refine h (a + i) (by omega) _ ?_
  rw [← (addrLoc_add s i hl (by omega)).1, Nat.add_assoc]

/-- Page entries stay where plain writes leave the table alone. -/
theorem State.pageEntry_of_sameTable {s t : State} {c p : Nat} (epoch : W32) (hf : WriteFrame s t) (ht : SameTable c s t)
    (hp : p < 16384) : t.pageEntry c epoch p = s.pageEntry c epoch p := by
  have hctx : t.ctxTable c = s.ctxTable c := by unfold WriteFrame at hf; rw [hf]; rfl
  have haddr : t.addrLoc (t.ctxTable c + 131072 * (epoch.toNat % 4) + 8 * p) =
      s.addrLoc (s.ctxTable c + 131072 * (epoch.toNat % 4) + 8 * p) := by rw [hf.addrLoc, hctx]
  cases hl : s.addrLoc (s.ctxTable c + 131072 * (epoch.toNat % 4) + 8 * p) with
  | none => rw [State.pageEntry_of_none hl, State.pageEntry_of_none (haddr.trans hl)]
  | some l =>
    rw [State.pageEntry_of_some hl, State.pageEntry_of_some (haddr.trans hl)]
    rw [Nat.add_assoc] at hl
    rw [State.locBytes_of_sameTable ht (by omega) (by omega) hl]

end Sys2Proof.Machine
end

section
/-! SUPPORT. The parts that the rows of a Woad ring share (08 R204 to R208; 13 R325): packets handed to the fabric, what an update of
one ring leaves alone, blocks pushed on. -/
namespace Sys2Proof.Machine

/-! ## Packets handed to the fabric (13 R325) -/

theorem Posted.refl (s : State) : Posted s s [] := ⟨[], (List.append_nil _).symm, rfl⟩

theorem Posted.trans {s t u : State} {l m : List (BitVec 12 × FabBody)} (h : Posted s t l) (k : Posted t u m) : Posted s u (l ++ m) := by
  obtain ⟨ps, hps, rfl⟩ := h
  obtain ⟨qs, hqs, rfl⟩ := k
  exact ⟨ps ++ qs, by rw [hqs, hps, List.append_assoc], List.map_append⟩

theorem State.posted_fabSend (s : State) (d : BitVec 12) (b : FabBody) : Posted s (s.fabSend d b).1 [(d, b)] := ⟨_, rfl, rfl⟩

theorem State.posted_sendMsg_ctl (s : State) (d : BitVec 12) {m : Msg} (h : m.load = none) : Posted s (s.sendMsg d m) [(d, .ctl m)] := by
  rw [State.sendMsg_ctl s d m h]
  exact s.posted_fabSend d _

/-- A message with n bytes of data goes in its parts. -/
theorem State.posted_sendMsg_bulk (s : State) (d : BitVec 12) {m : Msg} {n : Nat} (h : m.load = some n) :
    Posted s (s.sendMsg d m) ((List.range (bulkParts n)).map (fun i => (d, .bulk m i))) := by
  unfold State.sendMsg
  rw [h]
  dsimp only
  generalize List.range (bulkParts n) = l
  induction l generalizing s with
  | nil => exact Posted.refl s
  | cons i l ih => exact (s.posted_fabSend d (.bulk m i)).trans (ih _)

/-! ## One ring and the rest of the state -/

@[simp] theorem State.ringOf_setRing_same (s : State) (r : Nat) (x : Ring) : (s.setRing r x).ringOf r = x := Tab.get_put_same _ _ _ _
theorem State.ringOf_setRing_other (s : State) (r : Nat) (x : Ring) (k : Nat) (h : k ≠ r) : (s.setRing r x).ringOf k = s.ringOf k :=
  Tab.get_put_other _ _ _ h

theorem State.ringOf_of_ring {s t : State} (h : t.ring = s.ring) (k : Nat) : t.ringOf k = s.ringOf k := by
  unfold State.ringOf
  rw [h]

/-- Other rings, the registers, the host's part and the tiles are as they were. -/
def RingAlone (r : Nat) (s t : State) : Prop :=
  (∀ k, k ≠ r → t.ringOf k = s.ringOf k) ∧ t.regs = s.regs ∧ t.host = s.host ∧ t.tl = s.tl

theorem RingAlone.trans {r : Nat} {s t u : State} (h : RingAlone r s t) (k : RingAlone r t u) : RingAlone r s u := by
  obtain ⟨hring, hregs, hhost, htl⟩ := h
  obtain ⟨kring, kregs, khost, ktl⟩ := k
  exact ⟨fun i hi => (kring i hi).trans (hring i hi), kregs.trans hregs, khost.trans hhost, ktl.trans htl⟩

theorem State.ringAlone_setRing (s : State) (r : Nat) (x : Ring) : RingAlone r s (s.setRing r x) :=
  ⟨s.ringOf_setRing_other r x, rfl, rfl, rfl⟩

theorem State.ringAlone_sendMsg (s : State) (r : Nat) (d : BitVec 12) (m : Msg) : RingAlone r s (s.sendMsg d m) :=
  ⟨fun k _ => State.ringOf_of_ring (s.sendMsg_ring d m) k, s.sendMsg_regs d m, s.sendMsg_host d m, s.sendMsg_tl d m⟩

/-- What a ring object is told changes the signals on their way alone. -/
theorem State.ringAlone_ringSignal (s : State) (r o k : Nat) : RingAlone r s (s.ringSignal r o k) := ⟨fun _ _ => rfl, rfl, rfl, rfl⟩

theorem WriteFrame.ringAlone {s t : State} (h : WriteFrame s t) (r : Nat) : RingAlone r s t := by
  unfold WriteFrame at h
  rw [h]
  exact ⟨fun _ _ => rfl, rfl, rfl, rfl⟩

theorem WriteFrame.regs {s t : State} (h : WriteFrame s t) : t.regs = s.regs := by unfold WriteFrame at h; rw [h]
theorem WriteFrame.ring {s t : State} (h : WriteFrame s t) : t.ring = s.ring := by unfold WriteFrame at h; rw [h]
theorem WriteFrame.sync {s t : State} (h : WriteFrame s t) : t.sync = s.sync := by unfold WriteFrame at h; rw [h]
theorem WriteFrame.cx {s t : State} (h : WriteFrame s t) : t.cx = s.cx := by unfold WriteFrame at h; rw [h]

/-- Zeros written over a range are a plain write as far as the rest of the state goes. -/
theorem State.zeroRange_frame {s : State} (a n : Nat) (h : s.mem.ue = []) :
    WriteFrame s (s.zeroRange a n) ∧ (s.zeroRange a n).mem.ue = [] := by
  have hue : s.mem.ue.filter (fun g => !s.inRange a n (64 * g)) = [] := by rw [h]; rfl
  unfold State.zeroRange State.zeroWhere
  extract_lets lost s1
  split <;> exact ⟨rfl, hue⟩

/-! ## Blocks pushed on (08 R206, R207) -/

/-- The ring with other counts of blocks forwarded. -/
def Ring.withFwd (x : Ring) (a b : Nat) : Ring := { x with cw := { x.cw with fwd := a }, ccw := { x.ccw with fwd := b } }

theorem Ring.setDir_fwd (x : Ring) (ccw : Bool) (k : Nat) : ∃ a b, x.setDir ccw { x.dir ccw with fwd := k } = x.withFwd a b := by
  cases ccw
  · exact ⟨k, x.ccw.fwd, rfl⟩
  · exact ⟨x.cw.fwd, k, rfl⟩

/-- Blocks of ring r may have gone on: beside the packets of the fabric only the ring's counts of them differ. -/
structure Pushed (r : Nat) (s t : State) : Prop where
  frame : t = { s with fab := t.fab, ring := t.ring }
  others : ∀ k, k ≠ r → t.ringOf k = s.ringOf k
  ring : ∃ a b, t.ringOf r = (s.ringOf r).withFwd a b

theorem Pushed.refl (r : Nat) (s : State) : Pushed r s s := ⟨rfl, fun _ _ => rfl, _, _, rfl⟩

theorem Pushed.trans {r : Nat} {s t u : State} (h : Pushed r s t) (k : Pushed r t u) : Pushed r s u := by
  obtain ⟨hframe, hothers, a, b, hring⟩ := h
  obtain ⟨kframe, kothers, c, d, kring⟩ := k
  refine ⟨?_, fun i hi => (kothers i hi).trans (hothers i hi), c, d, ?_⟩
  · rw [hframe] at kframe
    exact kframe
  · rw [kring, hring]; rfl

theorem Pushed.ringAlone {r : Nat} {s t : State} (h : Pushed r s t) : RingAlone r s t := by
  obtain ⟨hframe, hothers, -⟩ := h
  refine ⟨hothers, ?_, ?_, ?_⟩ <;> rw [hframe]

theorem Pushed.mem {r : Nat} {s t : State} (h : Pushed r s t) : t.mem = s.mem := by rw [h.frame]
theorem Pushed.sync {r : Nat} {s t : State} (h : Pushed r s t) : t.sync = s.sync := by rw [h.frame]
theorem Pushed.cx {r : Nat} {s t : State} (h : Pushed r s t) : t.cx = s.cx := by rw [h.frame]

/-- One block sent to a neighbour and counted. -/
theorem State.pushed_sendMsg_setRing (s : State) (r : Nat) (ccw : Bool) (d : BitVec 12) (m : Msg) (k : Nat) :
    Pushed r s ((s.sendMsg d m).setRing r ((s.ringOf r).setDir ccw { (s.ringOf r).dir ccw with fwd := k })) := by
  obtain ⟨a, b, hfwd⟩ := (s.ringOf r).setDir_fwd ccw k
  refine ⟨?_, fun i hi => ?_, a, b, (State.ringOf_setRing_same ..).trans hfwd⟩
  · rw [State.sendMsg_frame]; rfl
  · exact (State.ringOf_setRing_other _ _ _ i hi).trans (State.ringOf_of_ring (s.sendMsg_ring d m) i)

/-- Pages of usable memory are read without a change. -/
theorem State.ringPagesRead_usable {s : State} (h : s.mem.ue = []) (r : Nat) (epoch : W32) (ps : List Nat) :
    ∃ bs, s.ringPagesRead r epoch ps = (bs, s, true) := by
  induction ps with
  | nil => exact ⟨[], rfl⟩
  | cons p ps ih =>
    obtain ⟨bs, hbs⟩ := ih
    obtain ⟨b, hb⟩ : ∃ b, s.readRef (.loc ((s.pageCopies (s.wrCtx r) (s.pageEntry (s.wrCtx r) epoch p)).headD 0)) (s.wrPageBytes r) =
        (b, s, none) := ⟨_, State.readRef_usable rfl (State.readable_loc h _ _)⟩
    exact ⟨b ++ bs, by simp only [State.ringPagesRead, hb, hbs]⟩

theorem State.ringPush_pushed {s : State} (h : s.mem.ue = []) (r : Nat) (ccw : Bool) (n : Nat) : Pushed r s (s.ringPush r ccw n) := by
  induction n generalizing s with
  | zero => exact Pushed.refl r s
  | succ n ih =>
    unfold State.ringPush
    split
    · next k b p _ _ =>
      obtain ⟨bs, hbs⟩ := State.ringPagesRead_usable h r p.epoch
        ((List.range (s.wrBlkpg r)).map (fun i => k * s.wrPps r + b * s.wrBlkpg r + i))
      have hblock : s.ringBlock r p.epoch k b = (bs, s, true) := hbs
      rw [hblock]
      have hone := s.pushed_sendMsg_setRing r ccw (if ccw then s.wrPrev r else s.wrNext r) (.ringBlock (BitVec.ofNat 2 r) ccw bs)
        (((s.ringOf r).dir ccw).fwd + 1)
      exact hone.trans (ih (hone.mem.symm ▸ h))
    · exact Pushed.refl r s

theorem State.ringPushAll_pushed {s : State} (h : s.mem.ue = []) (r : Nat) : Pushed r s (s.ringPushAll r) :=
  have hcw := State.ringPush_pushed h r false (s.wrBps r * s.wrSize r)
  hcw.trans (State.ringPush_pushed (hcw.mem.symm ▸ h) r true _)

end Sys2Proof.Machine
end

section
/-! SUPPORT. A Woad ring forms: hashes, and the ring formed anew (08 R203, R214). -/
namespace Sys2Proof.Machine

/-! ## Hashes (08 R203) -/

/-- Hashes go to both neighbours where none has gone for 1 ms. -/
theorem exec_ringHashSend_due {r : BitVec 2} {s : State} {x : Ring} (hx : s.ringOf r.toNat = x) (hst : x.st = 1 ∨ x.st = 2)
    (hdue : ∀ t, x.hashAt = some t → 100000 ≤ s.now - t) :
    ∃ s', exec (.ringHashSend r) s = .next s' ∧ s'.ringOf r.toNat = { x with hashAt := some s.now } ∧ RingAlone r.toNat s s' ∧
      s'.mem = s.mem ∧ Posted s s' [(s.wrNext r.toNat, .ctl (.ringHash r (s.wrHash r.toNat))),
        (s.wrPrev r.toNat, .ctl (.ringHash r (s.wrHash r.toNat)))] := by
  let s1 := s.setRing r.toNat { x with hashAt := some s.now }
  let m : Msg := .ringHash r (s.wrHash r.toNat)
  have hexec : exec (.ringHashSend r) s = .next ((s1.sendMsg (s.wrNext r.toNat) m).sendMsg (s.wrPrev r.toNat) m) := by
    show execRingHashSend r s = _
    unfold execRingHashSend
    simp only [hx]
    refine if_pos ⟨hst, ?_⟩
    cases ht : x.hashAt with
    | none => rfl
    | some t => exact decide_eq_true (hdue t ht)
  refine ⟨_, hexec, ?_, ?_, ?_, ?_⟩
  · exact (State.ringOf_of_ring (by rw [State.sendMsg_ring, State.sendMsg_ring]) _).trans (s.ringOf_setRing_same _ _)
  · exact ((s.ringAlone_setRing _ _).trans (s1.ringAlone_sendMsg _ _ m)).trans (State.ringAlone_sendMsg _ _ _ m)
  · rw [State.sendMsg_mem, State.sendMsg_mem]; rfl
  · exact (s1.posted_sendMsg_ctl (s.wrNext r.toNat) (m := m) rfl).trans (State.posted_sendMsg_ctl _ _ rfl)

/-- The hash of a neighbour counts while the ring forms without an error. -/
theorem hash_counts {α : Type} {st err : Nat} {src next prev : α} (hst : st = 1) (herr : err ≠ 1) (hsrc : src = next ∨ src = prev) :
    ¬ (st ≠ 1 ∨ err = 1 ∨ (src ≠ next ∧ src ≠ prev)) := by
  rintro (h | h | ⟨hnext, hprev⟩)
  · exact h hst
  · exact herr h
  · exact hsrc.elim hnext hprev

/-- A different hash is an error of the ring. -/
theorem exec_ringHashReceive_other {r : BitVec 2} {src : BitVec 12} {h : W64} {s : State} {x : Ring} (hx : s.ringOf r.toNat = x)
    (hst : x.st = 1) (herr : x.err ≠ 1) (hsrc : src = s.wrNext r.toNat ∨ src = s.wrPrev r.toNat) (hh : h ≠ s.wrHash r.toNat) :
    ∃ s', exec (.ringHashReceive r src h) s = .next s' ∧ s'.ringOf r.toNat = { x with err := 1 } ∧
      (∀ k, k ≠ r.toNat → s'.ringOf k = s.ringOf k) ∧ s'.regs = s.regs ∧ s'.mem = s.mem ∧ s'.tl = s.tl := by
  subst hx
  let s1 := s.setRing r.toNat { s.ringOf r.toNat with err := 1 }
  have hexec : exec (.ringHashReceive r src h) s = .next (s1.notice (Unit.iod 0xFF) (BitVec.ofNat 64 r.toNat)) := by
    refine congrArg Host.Outcome.next ?_
    unfold State.ringHashFrom
    exact (if_neg (hash_counts hst herr hsrc)).trans (if_pos hh)
  refine ⟨_, hexec, ?_⟩
  rw [State.notice, State.log_frame]
  exact ⟨s.ringOf_setRing_same _ _, s.ringOf_setRing_other _ _, rfl, rfl, rfl⟩

/-- The neighbour's hash is kept, and two equal ones make the ring ready. -/
theorem exec_ringHashReceive_own {r : BitVec 2} {src : BitVec 12} {s : State} {x : Ring} (hx : s.ringOf r.toNat = x)
    (hst : x.st = 1) (herr : x.err ≠ 1) (hsrc : src = s.wrNext r.toNat ∨ src = s.wrPrev r.toNat) :
    let h := s.wrHash r.toNat
    let ph := if src = s.wrPrev r.toNat then some h else x.prevHash
    let nh := if src = s.wrNext r.toNat then some h else x.nextHash
    ∃ s', exec (.ringHashReceive r src h) s = .next s' ∧ RingAlone r.toNat s s' ∧ s'.mem = s.mem ∧
      s'.ringOf r.toNat = { x with prevHash := ph, nextHash := nh, st := if ph = some h ∧ nh = some h then 2 else 1 } := by
  subst hx
  intro h ph nh
  have hexec : exec (.ringHashReceive r src h) s = .next (s.setRing r.toNat
      { s.ringOf r.toNat with prevHash := ph, nextHash := nh, st := if ph = some h ∧ nh = some h then 2 else 1 }) := by
    refine congrArg Host.Outcome.next ?_
    unfold State.ringHashFrom
    refine (if_neg (hash_counts hst herr hsrc)).trans ((if_neg (not_not_intro rfl)).trans ?_)
    by_cases hboth : ph = some h ∧ nh = some h
    · rw [if_pos hboth, if_pos hboth]
    · rw [if_neg hboth, if_neg hboth, hst]
  exact ⟨_, hexec, s.ringAlone_setRing _ _, rfl, s.ringOf_setRing_same _ _⟩

/-! ## Formed anew (08 R214) -/

theorem State.obj_setObj (s : State) (i : Nat) (v : W32) (o : Nat) : (s.setObj i v).obj o = if o = i then v else s.obj o :=
  Tab.get_put 0 s.sync.obj o i v

/-- Objects of a ring set to 0 one after the other. -/
theorem State.foldl_clearObj (r : Nat) (l : List Nat) (s : State) :
    let t := l.foldl (fun s i => s.setObj (s.wrObj r + i) 0) s
    t = { s with sync := t.sync } ∧ ∀ o, t.obj o = if ∃ i ∈ l, o = s.wrObj r + i then 0 else s.obj o := by
  induction l generalizing s with
  | nil => exact ⟨rfl, fun o => (if_neg (by simp)).symm⟩
  | cons a l ih =>
    obtain ⟨hframe, hobj⟩ := ih (s.setObj (s.wrObj r + a) 0)
    refine ⟨hframe, fun o => (hobj o).trans ?_⟩
    have hbase : (s.setObj (s.wrObj r + a) 0).wrObj r = s.wrObj r := rfl
    have hcons : (∃ i ∈ a :: l, o = s.wrObj r + i) ↔ o = s.wrObj r + a ∨ ∃ i ∈ l, o = s.wrObj r + i := by simp
    simp only [hbase, State.obj_setObj, hcons]
    by_cases hl : ∃ i ∈ l, o = s.wrObj r + i
    · rw [if_pos hl, if_pos (Or.inr hl)]
    · by_cases ha : o = s.wrObj r + a
      · rw [if_neg hl, if_pos ha, if_pos (Or.inl ha)]
      · rw [if_neg hl, if_neg ha, if_neg (not_or.mpr ⟨ha, hl⟩)]

/-- A ring whose objects of a list are cleared, and which then forms. -/
theorem State.foldl_clearObj_setRing (s : State) (r : Nat) (l : List Nat) :
    let t := (l.foldl (fun s i => s.setObj (s.wrObj r + i) 0) s).setRing r { st := 1 }
    RingAlone r s t ∧ t.ringOf r = { st := 1 } ∧ t.mem = s.mem ∧
      ∀ o, t.obj o = if ∃ i ∈ l, o = s.wrObj r + i then 0 else s.obj o := by
  obtain ⟨hframe, hobj⟩ := State.foldl_clearObj r l s
  generalize l.foldl (fun s i => s.setObj (s.wrObj r + i) 0) s = t at hframe hobj
  have halone : RingAlone r s t := by rw [hframe]; exact ⟨fun _ _ => rfl, rfl, rfl, rfl⟩
  have hmem : t.mem = s.mem := by rw [hframe]
  exact ⟨halone.trans (t.ringAlone_setRing r _), t.ringOf_setRing_same r _, hmem, hobj⟩

theorem State.ringAnew_result (s : State) (r : Nat) :
    RingAlone r s (s.ringAnew r) ∧ (s.ringAnew r).ringOf r = { st := 1 } ∧ (∀ i, i < 64 → (s.ringAnew r).obj (s.wrObj r + i) = 0) ∧
      (∀ o, o < s.wrObj r ∨ s.wrObj r + 64 ≤ o → (s.ringAnew r).obj o = s.obj o) ∧ (s.ringAnew r).mem = s.mem := by
  obtain ⟨halone, hring, hmem, hobj⟩ := s.foldl_clearObj_setRing r (List.range 64)
  refine ⟨halone, hring, fun i hi => ?_, fun o ho => ?_, hmem⟩
  · exact (hobj _).trans (if_pos ⟨i, List.mem_range.mpr hi, rfl⟩)
  · refine (hobj o).trans (if_neg ?_)
    rintro ⟨i, hi, rfl⟩
    have := List.mem_range.mp hi
    omega

theorem State.ringWhole_iff (s : State) (r : Nat) :
    s.ringWhole r = true ↔ ∀ p, p < s.wrSize r → s.holderOf (s.wrRole r p) ∉ s.flt.failed := by
  simp [State.ringWhole, State.isFailed]

/-- A suspended ring whose positions are all held forms anew. -/
theorem exec_ringReform_suspended {r : BitVec 2} {s : State} (hst : (s.ringOf r.toNat).st = 3) (hw : s.ringWhole r.toNat = true)
    (cfg gbuf : W64) : exec (.ringReform r cfg gbuf) s = .next (s.ringAnew r.toNat) := by
  show execRingReform r cfg gbuf s = _
  simp only [execRingReform, hst, hw, if_true]

/-- The bits of WR_GBUF that are stored (08 Table 8.4). -/
theorem at64_gbase (gbuf : W64) : at64 0 39 gbuf.toNat = gbuf &&& 0x7FFFFFFFFF#64 := by
  apply BitVec.eq_of_toNat_eq
  have hmask : (0x7FFFFFFFFF#64).toNat = 2 ^ 39 - 1 := by decide
  rw [BitVec.toNat_and, hmask, Nat.and_two_pow_sub_one_eq_mod, at64, BitVec.toNat_ofNat]
  omega

/-- A spare whose ring is off takes the configuration of its position. -/
theorem exec_ringReform_spare {r : BitVec 2} {s u : State} {cfg gbuf : W64} (hst : (s.ringOf r.toNat).st = 0)
    (hrole : s.myRole ≠ s.ownIdent) (hcfg : bit cfg 0 = true)
    (hu : u = (s.setReg (0x80000 + 64 * r.toNat) (cfg &&& wrCfgMask cfg)).setReg (0x80008 + 64 * r.toNat) (gbuf &&& 0x7FFFFFFFFF#64))
    (hok : u.ringOk r.toNat = true) (hw : u.ringWhole r.toNat = true) :
    exec (.ringReform r cfg gbuf) s = .next (u.ringAnew r.toNat) := by
  have hu' : (s.setReg (Reg.wrCfg r.toNat) (cfg &&& wrCfgMask cfg)).setReg (Reg.wrGbuf r.toNat) (at64 0 39 gbuf.toNat) = u := by
    rw [hu, at64_gbase]; rfl
  show execRingReform r cfg gbuf s = _
  unfold execRingReform
  simp only [hu', hok, hw]
  rw [if_neg (by omega), if_pos ⟨hst, hrole, hcfg⟩]
  rfl

end Sys2Proof.Machine
end

section
/-! SUPPORT. A block of a Woad ring lands (08 R206): its pages stand in every copy, and the rest of memory is as it was. -/
namespace Sys2Proof.Machine

/-! ## Settings of a ring -/

theorem State.wr_of_regs {s t : State} (h : t.regs = s.regs) (r lo n : Nat) : t.wr r lo n = s.wr r lo n := by
  unfold State.wr State.reg
  rw [h]

theorem State.wrObj_of_regs {s t : State} (h : t.regs = s.regs) (r : Nat) : t.wrObj r = s.wrObj r :=
  congrArg (64 * ·) (State.wr_of_regs h r 36 8)

theorem State.wrBps_of_regs {s t : State} (h : t.regs = s.regs) (r : Nat) : t.wrBps r = s.wrBps r :=
  congrArg (2 * ·) (State.wr_of_regs h r 22 11)

theorem State.wrPps_of_regs {s t : State} (h : t.regs = s.regs) (r : Nat) : t.wrPps r = s.wrPps r := by
  unfold State.wrPps State.wrBlkpg
  rw [State.wrBps_of_regs h, State.wr_of_regs h]

theorem State.pageCopies_of_regs {s t : State} (h : t.regs = s.regs) (c : Nat) (e : W64) : t.pageCopies c e = s.pageCopies c e := by
  unfold State.pageCopies State.ctxCopiesLog2 State.reg
  rw [h]

theorem State.memByte_of_mem {s t : State} (h : t.mem = s.mem) (l : Nat) : t.memByte l = s.memByte l := by
  unfold State.memByte
  rw [h]

/-! ## The pages of a block -/

/-- Where the copies of page i of block b of slot k lie, each with i. -/
def State.pageCells (s : State) (r c : Nat) (epoch : W32) (k b i : Nat) : List (Nat × Nat) :=
  (s.pageCopies c (s.pageEntry c epoch (k * s.wrPps r + b * s.wrBlkpg r + i))).map (fun l => (l, i))

/-- The same for every page of the block. -/
def State.blockCells (s : State) (r c : Nat) (epoch : W32) (k b : Nat) : List (Nat × Nat) :=
  (List.range (s.wrBlkpg r)).flatMap (s.pageCells r c epoch k b)

/-- The write of one copy: page u.2 of the data at location u.1. -/
def cellWrite (pb : Nat) (data : List Byte) (u : Nat × Nat) : Nat × List Byte := (u.1, (data.drop (pb * u.2)).take pb)

theorem State.pageCells_of_sameTable {s t : State} {r c k b i : Nat} (epoch : W32) (hf : WriteFrame s t) (ht : SameTable c s t)
    (hp : k * s.wrPps r + b * s.wrBlkpg r + i < 16384) : t.pageCells r c epoch k b i = s.pageCells r c epoch k b i := by
  have hblkpg : t.wrBlkpg r = s.wrBlkpg r := State.wr_of_regs hf.regs r 15 7
  unfold State.pageCells
  rw [State.wrPps_of_regs hf.regs, hblkpg, State.pageEntry_of_sameTable epoch hf ht hp, State.pageCopies_of_regs hf.regs]

/-- The table of context c lies outside the cells, each of pb bytes. -/
def TableApart (s : State) (c pb : Nat) (cells : List (Nat × Nat)) : Prop :=
  ∀ u ∈ cells, ∀ j, j < 524288 → ∀ l, s.addrLoc (s.ctxTable c + j) = some l → l < u.1 ∨ u.1 + pb ≤ l

theorem cellWrite_length_le (pb : Nat) (data : List Byte) (u : Nat × Nat) : (cellWrite pb data u).2.length ≤ pb := by
  rw [cellWrite, List.length_take]
  exact Nat.min_le_left _ _

theorem SameTable.writeAll {s t : State} {c pb : Nat} {cells : List (Nat × Nat)} (data : List Byte) (h : SameTable c s t)
    (hue : t.mem.ue = []) (ha : TableApart s c pb cells) : SameTable c s (t.writeAll (cells.map (cellWrite pb data))) := by
  intro j hj l hl
  refine (State.memByte_writeAll_uncovered hue fun w hw => ?_).trans (h j hj l hl)
  obtain ⟨u, hu, rfl⟩ := List.mem_map.mp hw
  have hlen := cellWrite_length_le pb data u
  have := ha u hu j hj l hl
  show l < u.1 ∨ u.1 + (cellWrite pb data u).2.length ≤ l
  omega

/-- Page after page written, each through the table as it then is, is one list of writes. -/
theorem State.foldl_pages {s : State} {r c k b pb : Nat} {epoch : W32} (data : List Byte) (hue : s.mem.ue = [])
    (hp : k * s.wrPps r + (b + 1) * s.wrBlkpg r ≤ 16384) (ha : TableApart s c pb (s.blockCells r c epoch k b)) :
    (List.range (s.wrBlkpg r)).foldl (fun t i => t.writeAll ((t.pageCells r c epoch k b i).map (cellWrite pb data))) s =
      s.writeAll ((s.blockCells r c epoch k b).map (cellWrite pb data)) := by
  rw [State.blockCells, List.map_flatMap]
  refine State.foldl_writeAll (fun t => WriteFrame s t ∧ t.mem.ue = [] ∧ SameTable c s t)
    (fun t i => (t.pageCells r c epoch k b i).map (cellWrite pb data)) ?_ ⟨rfl, hue, fun _ _ _ _ => rfl⟩
  rintro t ⟨hframe, htue, htable⟩ i hi
  have hib := List.mem_range.mp hi
  have hcells := State.pageCells_of_sameTable epoch hframe htable (i := i) (r := r) (k := k) (b := b)
    (by rw [Nat.add_mul] at hp; omega)
  obtain ⟨hnext, hnextue⟩ := State.writeAll_frame ((s.pageCells r c epoch k b i).map (cellWrite pb data)) htue
  refine ⟨by rw [hcells], hframe.trans hnext, hnextue, htable.writeAll data htue fun u hu => ha u ?_⟩
  exact List.mem_flatMap.mpr ⟨i, hi, hu⟩

/-- Blocks of whole pages: what each copy holds once they are written, and what stays. -/
theorem State.writeAll_cells {s : State} {pb n : Nat} {cells : List (Nat × Nat)} {data : List Byte} (hue : s.mem.ue = [])
    (hlen : data.length = n * pb) (hn : ∀ u ∈ cells, u.2 < n) (hd : cells.Pairwise (fun u v => u.1 + pb ≤ v.1 ∨ v.1 + pb ≤ u.1)) :
    let t := s.writeAll (cells.map (cellWrite pb data))
    (∀ u ∈ cells, ∀ j, j < pb → data[pb * u.2 + j]? = some (t.memByte (u.1 + j))) ∧
      (∀ l, (∀ u ∈ cells, l < u.1 ∨ u.1 + pb ≤ l) → t.memByte l = s.memByte l) := by
  have hin : ∀ u ∈ cells, pb * u.2 + pb ≤ data.length := fun u hu => by
    rw [hlen, Nat.mul_comm n, ← Nat.mul_succ]
    exact Nat.mul_le_mul_left pb (hn u hu)
  have hsize : ∀ u ∈ cells, (cellWrite pb data u).2.length = pb := fun u hu => by
    have := hin u hu
    rw [cellWrite, List.length_take, List.length_drop]
    omega
  refine ⟨fun u hu j hj => ?_, fun l hl => State.memByte_writeAll_uncovered hue fun w hw => ?_⟩
  · have hpairs : (cells.map (cellWrite pb data)).Pairwise (fun u v => u.1 + u.2.length ≤ v.1 ∨ v.1 + v.2.length ≤ u.1) := by
      refine List.pairwise_map.mpr (hd.imp_of_mem fun {u v} hu hv huv => ?_)
      rw [hsize u hu, hsize v hv]
      exact huv
    have hwritten := State.memByte_writeAll_written hue hpairs (List.mem_map_of_mem hu) (j := j) (by rw [hsize u hu]; exact hj)
    have hj' : pb * u.2 + j < data.length := by have := hin u hu; omega
    refine Eq.trans ?_ (congrArg some hwritten.symm)
    rw [cellWrite, List.getD_eq_getElem?_getD, List.getElem?_take_of_lt hj, List.getElem?_drop, List.getElem?_eq_getElem hj']
    rfl
  · obtain ⟨u, hu, rfl⟩ := List.mem_map.mp hw
    rw [hsize u hu]
    exact hl u hu

/-! ## The row -/

theorem State.ringTakes_iff (s : State) (r : Nat) (ccw : Bool) :
    s.ringTakes r ccw = true ↔ (s.ringOf r).on = true ∧ ((s.ringOf r).dir ccw).got < s.wrSteps r ccw * s.wrBps r := by
  simp [State.ringTakes]

@[simp] theorem Ring.dir_setDir (x : Ring) (ccw : Bool) (d : RingDir) : (x.setDir ccw d).dir ccw = d := by cases ccw <;> rfl

theorem Ring.got_dir_withFwd (x : Ring) (a b : Nat) (ccw : Bool) : ((x.withFwd a b).dir ccw).got = (x.dir ccw).got := by
  cases ccw <;> rfl

/-- A block without a place lands nowhere. -/
theorem exec_ringBlockLanded_no {r : BitVec 2} {ccw : Bool} {s : State} (data : List Byte) (h : s.ringTakes r.toNat ccw = false) :
    exec (.ringBlockLanded r ccw data noFind) s = .next s :=
  congrArg Host.Outcome.next (if_neg (by simp [h]))

/-- A block with a place, without GRAD: its pages, its count, its signal, and what may go on. -/
theorem State.ringLand_eq {s : State} {r : Nat} {ccw : Bool} {x : Ring} {pin : Pin} (data : List Byte) (hx : s.ringOf r = x)
    (hpin : s.ringPin r = some pin) (hst : x.st = 2) (ht : s.ringTakes r ccw = true) (hg : s.wrGrad r = false) :
    let k := s.wrSlot r ccw ((x.dir ccw).got / s.wrBps r + 1)
    let b := (x.dir ccw).got % s.wrBps r
    s.ringLand r ccw data =
      (((((List.range (s.wrBlkpg r)).foldl (fun t i => t.writeAll
        ((t.pageCells r (s.wrCtx r) pin.epoch k b i).map (cellWrite (s.wrPageBytes r) data))) s).setRing r
          (x.setDir ccw { x.dir ccw with got := (x.dir ccw).got + 1 })).ringSignal r (4 + 4 * k) 1).ringPush r ccw
            (s.wrBps r * s.wrSize r)) := by
  subst hx
  intro k b
  simp only [State.writeAll, State.pageCells, List.map_map, List.foldl_map, cellWrite, Function.comp_apply]
  unfold State.ringLand
  simp only [hpin, hg]
  exact if_neg (by simp [hst, ht])

theorem exec_ringBlockLanded_result {r : BitVec 2} {ccw : Bool} {s : State} {x : Ring} {pin : Pin} {data : List Byte}
    (hx : s.ringOf r.toNat = x) (hpin : s.ringPin r.toNat = some pin) (hon : x.on = true) (hst : x.st = 2)
    (hgot : (x.dir ccw).got < s.wrSteps r.toNat ccw * s.wrBps r.toNat) (hg : s.wrGrad r.toNat = false) (hue : s.mem.ue = []) :
    let n := r.toNat
    let d := x.dir ccw
    let k := s.wrSlot n ccw (d.got / s.wrBps n + 1)
    let pb := s.wrPageBytes n
    let cs := s.blockCells n (s.wrCtx n) pin.epoch k (d.got % s.wrBps n)
    k * s.wrPps n + (d.got % s.wrBps n + 1) * s.wrBlkpg n ≤ 16384 → data.length = s.wrBlkpg n * pb →
    cs.Pairwise (fun u v => u.1 + pb ≤ v.1 ∨ v.1 + pb ≤ u.1) → TableApart s (s.wrCtx n) pb cs →
    ∃ s', exec (.ringBlockLanded r ccw data noFind) s = .next s' ∧ RingAlone n s s' ∧ ((s'.ringOf n).dir ccw).got = d.got + 1 ∧
      s'.sync.sigs = s.sync.sigs ++ [{ src := none, obj := s.wrObj n + (4 + 4 * k), add := BitVec.ofNat 32 1 }] ∧ s'.cx = s.cx ∧
      (∀ u ∈ cs, ∀ j, j < pb → data[pb * u.2 + j]? = some (s'.memByte (u.1 + j))) ∧
      (∀ l, (∀ u ∈ cs, l < u.1 ∨ u.1 + pb ≤ l) → s'.memByte l = s.memByte l) := by
  intro n d k pb cs hpages hlen hd ha
  have ht : s.ringTakes n ccw = true := (s.ringTakes_iff n ccw).mpr (hx ▸ ⟨hon, hgot⟩)
  have hexec : exec (.ringBlockLanded r ccw data noFind) s = .next (s.ringLand n ccw data) :=
    congrArg Host.Outcome.next (if_pos ⟨hx ▸ hst, ht⟩)
  have hcell : ∀ u ∈ cs, u.2 < s.wrBlkpg n := fun u hu => by
    obtain ⟨i, hi, hui⟩ := List.mem_flatMap.mp hu
    obtain ⟨l, -, rfl⟩ := List.mem_map.mp hui
    exact List.mem_range.mp hi
  obtain ⟨hheld, hkept⟩ := State.writeAll_cells hue hlen hcell hd
  obtain ⟨hframe, hue1⟩ := State.writeAll_frame (cs.map (cellWrite pb data)) hue
  rw [State.ringLand_eq data hx hpin hst ht hg, State.foldl_pages data hue hpages ha] at hexec
  generalize s.writeAll (cs.map (cellWrite pb data)) = s1 at hexec hheld hkept hframe hue1
  let y := x.setDir ccw { d with got := d.got + 1 }
  let s2 := (s1.setRing n y).ringSignal n (4 + 4 * k) 1
  have hpush : Pushed n s2 (s2.ringPush n ccw (s.wrBps n * s.wrSize n)) :=
    State.ringPush_pushed (s := s2) hue1 n ccw _
  generalize s2.ringPush n ccw (s.wrBps n * s.wrSize n) = s3 at hexec hpush
  obtain ⟨a, b, hring⟩ := hpush.ring
  have hring2 : s2.ringOf n = y := s1.ringOf_setRing_same n y
  have hmem : s3.mem = s1.mem := hpush.mem
  refine ⟨s3, hexec, ?_, ?_, ?_, hpush.cx.trans hframe.cx, fun u hu j hj => ?_, fun l hl => ?_⟩
  · exact (((hframe.ringAlone n).trans (s1.ringAlone_setRing n y)).trans (State.ringAlone_ringSignal _ n _ _)).trans hpush.ringAlone
  · rw [hring, Ring.got_dir_withFwd, hring2, Ring.dir_setDir]
  · have hobj : (s1.setRing n y).wrObj n = s.wrObj n := State.wrObj_of_regs (t := s1.setRing n y) hframe.regs n
    rw [hpush.sync]
    show s1.sync.sigs ++ [{ src := none, obj := (s1.setRing n y).wrObj n + (4 + 4 * k), add := BitVec.ofNat 32 1 }] = _
    rw [hobj, hframe.sync]
  · rw [State.memByte_of_mem hmem]
    exact hheld u hu j hj
  · rw [State.memByte_of_mem hmem]
    exact hkept l hl

end Sys2Proof.Machine
end

section
/-! SUPPORT. The rotation of a Woad ring (08 R205, R207, R208, R212): it starts, grants credit, sends its gradient on and ends; and the
statement about the rows of a ring. -/
namespace Sys2Proof.Machine

/-! ## The start of a rotation (08 R205) -/

theorem State.objReached_iff (s : State) (o : Nat) (v : W32) :
    s.objReached o v = true ↔ s.homeStopped o = false ∧ 0 ≤ (s.obj o - v).toInt := by
  simp [State.objReached, reached32_iff]

/-- What lets ring n start a rotation in the epoch e of its context. -/
def State.rotationReady (s : State) (n : Nat) (e : W32) : Prop :=
  let x := s.ringOf n
  x.st = 2 ∧ x.on = false ∧ x.badEpoch ≠ some e ∧
    s.objReached (s.wrObj n) (BitVec.ofNat 32 ((x.rot.toNat + 1) * s.wrNsig n)) = true

/-- The rotation runs and holds its pin; nothing has landed or gone on yet. -/
def State.rotationBegun (s : State) (n : Nat) (e : W32) : State :=
  let x := s.ringOf n
  ({ s with cx := { s.cx with pins := s.cx.pins ++ [{ ctx := s.wrCtx n, epoch := e, holder := .ring n }] } } : State).setRing n
    { x with on := true, badEpoch := none, err := if x.err = 3 then 0 else x.err, gsent := 0, gin := 0,
             cw := { x.cw with got := 0, fwd := 0 }, ccw := { x.ccw with got := 0, fwd := 0 } }

/-- With GRAD, the sum of slot 0 at 0. -/
def State.rotationZeroed (s : State) (n : Nat) : State := if s.wrGrad n then s.zeroRange (s.wrSum n 0) (s.wrRegion n) else s

theorem State.rotationZeroed_frame {s : State} (n : Nat) (h : s.mem.ue = []) :
    WriteFrame s (s.rotationZeroed n) ∧ (s.rotationZeroed n).mem.ue = [] ∧ (s.wrGrad n = false → (s.rotationZeroed n).mem = s.mem) := by
  unfold State.rotationZeroed
  split
  · next hg =>
    obtain ⟨hframe, hue⟩ := State.zeroRange_frame (s.wrSum n 0) (s.wrRegion n) h
    exact ⟨hframe, hue, fun hn => absurd hg (by simp [hn])⟩
  · exact ⟨rfl, h, fun _ => rfl⟩

theorem exec_rotationStart_pages {r : BitVec 2} {s : State} {e : W32} (he : (s.ctx (s.wrCtx r.toNat)).epoch = e)
    (hready : s.rotationReady r.toNat e) (hpages : s.ringPages r.toNat e = true) (hue : s.mem.ue = []) :
    let n := r.toNat
    ∃ s', exec (.rotationStart r noFind) s = .next s' ∧ RingAlone n s s' ∧ (s'.ringOf n).on = true ∧
      (s'.ringOf n).rot = (s.ringOf n).rot ∧ (s'.ringOf n).gsent = 0 ∧ (s'.ringOf n).gin = 0 ∧ (s'.ringOf n).cw.got = 0 ∧
      (s'.ringOf n).ccw.got = 0 ∧ s'.cx.pins = s.cx.pins ++ [{ ctx := s.wrCtx n, epoch := e, holder := .ring n }] ∧
      s'.cx.ctx = s.cx.ctx ∧
      s'.sync.sigs = s.sync.sigs ++ [{ src := none, obj := s.wrObj n + 4, add := BitVec.ofNat 32 (s.wrBps n) }] ∧
      (s.wrGrad n = false → s'.mem = s.mem) := by
  intro n
  let s2 := s.rotationBegun n e
  let s3 := s2.rotationZeroed n
  let s4 := s3.ringSignal n 4 (s3.wrBps n)
  obtain ⟨hframe, hue3, hmem3⟩ := State.rotationZeroed_frame (s := s2) n hue
  have hexec : exec (.rotationStart r noFind) s = .next (s4.ringPushAll n) := by
    subst he
    show execRotationStart r noFind s = _
    unfold execRotationStart
    exact (if_pos hready).trans (if_pos hpages)
  have hpush : Pushed n s4 (s4.ringPushAll n) := State.ringPushAll_pushed (s := s4) hue3 n
  generalize s4.ringPushAll n = s5 at hexec hpush
  have hring : s4.ringOf n = s2.ringOf n := State.ringOf_of_ring (t := s4) hframe.ring n
  have hregs : s3.regs = s.regs := hframe.regs
  have halone : RingAlone n s s2 := ⟨State.ringOf_setRing_other _ n _, rfl, rfl, rfl⟩
  have hx : s2.ringOf n = _ := State.ringOf_setRing_same _ n _
  obtain ⟨a, b, hfwd⟩ := hpush.ring
  rw [hring, hx] at hfwd
  have hcx : s5.cx = s2.cx := hpush.cx.trans hframe.cx
  refine ⟨s5, hexec, ?_, ?_⟩
  · exact ((halone.trans (hframe.ringAlone n)).trans (s3.ringAlone_ringSignal n 4 _)).trans hpush.ringAlone
  · rw [hfwd, hcx, hpush.sync]
    refine ⟨rfl, rfl, rfl, rfl, rfl, rfl, rfl, rfl, ?_, fun hg => hpush.mem.trans (hmem3 hg)⟩
    show s3.sync.sigs ++ [{ src := none, obj := s3.wrObj n + 4, add := BitVec.ofNat 32 (s3.wrBps n) }] = _
    rw [State.wrObj_of_regs hregs, State.wrBps_of_regs hregs, hframe.sync]
    rfl

/-- An invalid page keeps the rotation from starting. -/
theorem exec_rotationStart_noPages {r : BitVec 2} {s : State} {e : W32} (he : (s.ctx (s.wrCtx r.toNat)).epoch = e)
    (hready : s.rotationReady r.toNat e) (hpages : s.ringPages r.toNat e = false) :
    exec (.rotationStart r noFind) s = .next (s.setRing r.toNat { s.ringOf r.toNat with err := 3, badEpoch := some e }) := by
  subst he
  show execRotationStart r noFind s = _
  unfold execRotationStart
  exact (if_pos hready).trans (if_neg (by simp [hpages]))

/-! ## Credit (08 R207) -/

theorem exec_ringCreditGrant_result {r : BitVec 2} {ccw : Bool} {s : State} {x : Ring} (hx : s.ringOf r.toNat = x) (hst : x.st = 2)
    (hon : x.on = true) (hgrant : (x.dir ccw).grant < (x.rot.toNat + 1) * s.wrSteps r.toNat ccw)
    (hover : s.slotOver r.toNat ccw ((x.dir ccw).grant - x.rot.toNat * s.wrSteps r.toNat ccw + 1) = true) :
    ∃ s', exec (.ringCreditGrant r ccw) s = .next s' ∧ RingAlone r.toNat s s' ∧
      s'.ringOf r.toNat = x.setDir ccw { x.dir ccw with grant := (x.dir ccw).grant + 1 } ∧
      Posted s s' [(if ccw then s.wrNext r.toNat else s.wrPrev r.toNat, .ctl (.ringCredit r ccw))] ∧ s'.mem = s.mem ∧
      s'.sync = s.sync := by
  let s1 := s.setRing r.toNat (x.setDir ccw { x.dir ccw with grant := (x.dir ccw).grant + 1 })
  let d := if ccw then s.wrNext r.toNat else s.wrPrev r.toNat
  have hexec : exec (.ringCreditGrant r ccw) s = .next (s1.sendMsg d (.ringCredit r ccw)) := by
    show execRingCreditGrant r ccw s = _
    unfold execRingCreditGrant
    simp only [hx]
    exact if_pos ⟨hst, hon, hgrant, hover⟩
  refine ⟨_, hexec, (s.ringAlone_setRing _ _).trans (s1.ringAlone_sendMsg _ d _), ?_, s1.posted_sendMsg_ctl d rfl, s1.sendMsg_mem d _,
    s1.sendMsg_sync d _⟩
  exact (State.ringOf_of_ring (s1.sendMsg_ring d _) _).trans (s.ringOf_setRing_same _ _)

/-! ## The gradient (08 R212) -/

/-- What the sum raises is noted in the step accounting and the counters alone. -/
theorem State.ringFlags_frame (s : State) (fl : Fl) :
    ∃ a c tc, s.ringFlags fl = { s with trn := a, flt := { s.flt with cnt := c, tcnt := tc } } := by
  have hstep : ∃ a, s.stepFlags s.trnVer true fl = { s with trn := a } := by
    unfold State.stepFlags
    (repeat' split) <;> exact ⟨_, rfl⟩
  obtain ⟨a, ha⟩ := hstep
  obtain ⟨c, tc, hc⟩ := ({ s with trn := a } : State).countSat_eq_withCounts 0 fl.sat
  exact ⟨a, c, tc, by rw [State.ringFlags, ha, hc]; rfl⟩

/-- Nothing but failure handling's state and what the host is sent may differ. -/
def LogFrame (s t : State) : Prop := t = { s with flt := t.flt, host := t.host }

theorem LogFrame.trans {s t u : State} (h : LogFrame s t) (k : LogFrame t u) : LogFrame s u := by
  unfold LogFrame at *
  rw [h] at k
  exact k

theorem State.logFrame_log (s : State) (c a : Nat) (st u : W16) (i : BitVec 12) (d : W64) : LogFrame s (s.log c a st u i d) := by
  unfold LogFrame
  rw [State.log_frame]

/-- Residue misses are counted and logged. -/
theorem State.logFrame_fabricMiss (s : State) (u : BitVec 2) (n : Nat) : LogFrame s (s.fabricMiss u n) := by
  have hlogs : ∀ (l : List Nat) (t : State), LogFrame t (l.foldl (fun s i =>
      s.log Cls.adder (if i < 2 then 1 else 0) Status.ok (Unit.iod (0x28 + (u.toNat + i / 2) % 4)) (s.host.ident.getD 0) 0) t) := by
    intro l
    induction l with
    | nil => exact fun t => rfl
    | cons i l ih => exact fun t => (t.logFrame_log _ _ _ _ _ _).trans (ih _)
  have hcount : LogFrame s (if n = 0 then s else s.count Cnt.residue n) := by split <;> rfl
  exact hcount.trans (hlogs _ _)

/-- The partial that comes with step st: none at step 0. -/
def State.ringPartialIn (s : State) (n st : Nat) : List Byte :=
  if st = 0 then List.replicate (s.wrRegion n) 0 else s.peek (s.wrIn n (s.wrSlot n false st)) (s.wrRegion n)

/-- Where SUM and IN are usable the sum goes to the next member. -/
theorem State.gradSend_usable {s : State} {n : Nat} {x : Ring} (hx : s.ringOf n = x)
    (hsum : Whole s (s.wrSum n (s.wrSlot n false x.gsent)) (s.wrRegion n))
    (hin : x.gsent ≠ 0 → Whole s (s.wrIn n (s.wrSlot n false x.gsent)) (s.wrRegion n)) :
    let p := ringSum s.satPolicy (s.peek (s.wrSum n (s.wrSlot n false x.gsent)) (s.wrRegion n)) (s.ringPartialIn n x.gsent)
    let s3 := (s.ringFlags p.2).setRing n { x with gsent := x.gsent + 1 }
    s.gradSend n = s3.sendMsg (s3.wrNext n) (.ringPartial (BitVec.ofNat 2 n) p.1) := by
  subst hx
  unfold State.gradSend State.ringPartialIn
  simp only [State.readRef_addr hsum]
  by_cases h0 : (s.ringOf n).gsent = 0
  · simp only [if_pos h0]
  · simp only [if_neg h0, State.readRef_addr (hin h0)]

/-- What lets the gradient of the present step go on. -/
theorem State.gradReady_of {s : State} {n : Nat} {x : Ring} (hx : s.ringOf n = x) (hg : s.wrGrad n = true) (hlt : x.gsent < s.wrSize n)
    (hin : x.gsent ≤ x.gin) (hcredit : x.gsent + 1 = s.wrSize n ∨ x.rot.toNat * s.wrSteps n false + x.gsent < x.cw.credit)
    (hdone : s.objReached (s.wrObj n + 6 + 4 * s.wrSlot n false x.gsent) (BitVec.ofNat 32
      ((if x.gsent = 0 then x.rot.toNat + 1 else s.wrUses n false x.rot.toNat x.gsent + 1) * s.wrNsig n)) = true) :
    s.gradReady n = true := by
  subst hx
  simp only [State.gradReady, Bool.and_eq_true, Bool.or_eq_true, decide_eq_true_eq, beq_iff_eq]
  exact ⟨⟨⟨⟨hg, hlt⟩, hin⟩, hcredit⟩, hdone⟩

/-- The sum of the step goes to the next member. -/
theorem exec_ringGradientForward_sent {r : BitVec 2} {s : State} {x : Ring} (hx : s.ringOf r.toNat = x) (hst : x.st = 2)
    (hon : x.on = true) (hready : s.gradReady r.toNat = true)
    (hsum : Whole s (s.wrSum r.toNat (s.wrSlot r.toNat false x.gsent)) (s.wrRegion r.toNat))
    (hin : x.gsent ≠ 0 → Whole s (s.wrIn r.toNat (s.wrSlot r.toNat false x.gsent)) (s.wrRegion r.toNat)) :
    let out := (ringSum s.satPolicy (s.peek (s.wrSum r.toNat (s.wrSlot r.toNat false x.gsent)) (s.wrRegion r.toNat))
      (s.ringPartialIn r.toNat x.gsent)).1
    ∀ u : BitVec 2, ∃ s', exec (.ringGradientForward r noFind u 0) s = .next s' ∧ RingAlone r.toNat s s' ∧
      s'.ringOf r.toNat = { x with gsent := x.gsent + 1 } ∧
      Posted s s' ((List.range (bulkParts out.length)).map (fun i => (s.wrNext r.toNat, .bulk (.ringPartial r out) i))) ∧
      s'.mem = s.mem ∧ s'.sync = s.sync := by
  intro out u
  have hexec : exec (.ringGradientForward r noFind u 0) s = .next (s.gradSend r.toNat) := by
    show execRingGradientForward r noFind u 0 s = _
    unfold execRingGradientForward
    exact if_pos ⟨hx ▸ hst, hx ▸ hon, hready⟩
  rw [State.gradSend_usable hx hsum hin] at hexec
  generalize hfl : (ringSum s.satPolicy (s.peek (s.wrSum r.toNat (s.wrSlot r.toNat false x.gsent)) (s.wrRegion r.toNat))
    (s.ringPartialIn r.toNat x.gsent)).2 = fl at hexec
  obtain ⟨a, c, tc, hframe⟩ := s.ringFlags_frame fl
  rw [hframe, BitVec.ofNat_toNat, BitVec.setWidth_eq] at hexec
  let s1 : State := { s with trn := a, flt := { s.flt with cnt := c, tcnt := tc } }
  let s2 := s1.setRing r.toNat { x with gsent := x.gsent + 1 }
  let m : Msg := .ringPartial r out
  refine ⟨s2.sendMsg (s.wrNext r.toNat) m, hexec, ?_, ?_, s2.posted_sendMsg_bulk _ rfl, s2.sendMsg_mem _ m, s2.sendMsg_sync _ m⟩
  · exact (s1.ringAlone_setRing r.toNat _).trans (s2.ringAlone_sendMsg _ _ m)
  · exact (State.ringOf_of_ring (s2.sendMsg_ring _ m) _).trans (s1.ringOf_setRing_same _ _)

/-- A third residue miss gives the sum up. -/
theorem exec_ringGradientForward_lost {r : BitVec 2} {s : State} {x : Ring} (hx : s.ringOf r.toNat = x) (hst : x.st = 2)
    (hon : x.on = true) (hready : s.gradReady r.toNat = true) (u : BitVec 2) :
    ∃ s', exec (.ringGradientForward r noFind u 3) s = .next s' ∧ s'.ring = s.ring ∧ s'.fab = s.fab ∧ s'.mem = s.mem ∧
      s'.sync = s.sync := by
  have hexec : exec (.ringGradientForward r noFind u 3) s = .next (s.fabricMiss u 3) := by
    show execRingGradientForward r noFind u 3 s = _
    unfold execRingGradientForward
    exact if_pos ⟨hx ▸ hst, hx ▸ hon, hready⟩
  have hframe := s.logFrame_fabricMiss u 3
  unfold LogFrame at hframe
  exact ⟨_, hexec, by rw [hframe], by rw [hframe], by rw [hframe], by rw [hframe]⟩

/-! ## The end of a rotation (08 R208) -/

theorem State.foldl_signal (l : List (W32 × Nat)) (s : State) :
    l.foldl (fun (s : State) p => s.signal { src := none, obj := p.2, add := 1 }) s =
      { s with sync := { s.sync with sigs := s.sync.sigs ++ l.map (fun p => { src := none, obj := p.2, add := 1 }) } } := by
  induction l generalizing s with
  | nil => simp
  | cons p l ih =>
    rw [List.foldl_cons, ih]
    simp [State.signal]

/-- A pin dropped: signals at reclaim follow those on their way, and contexts may be brought up to date. -/
theorem State.unpin_frame (s : State) (p : Pin) :
    ∃ c l, s.unpin p = { s with cx := { ctx := c, pins := s.cx.pins.erase p }, sync := { s.sync with sigs := s.sync.sigs ++ l } } := by
  unfold State.unpin State.reclaim
  simp only [State.foldl_signal]
  exact ⟨_, _, rfl⟩

/-- The pin of a ring, if it holds one, dropped. -/
def State.ringUnpin (s : State) (n : Nat) : State :=
  match s.ringPin n with
  | some p => s.unpin p
  | none => s

theorem State.ringUnpin_frame (s : State) (n : Nat) :
    ∃ cx l, s.ringUnpin n = { s with cx := cx, sync := { s.sync with sigs := s.sync.sigs ++ l } } ∧
      ∀ p, s.ringPin n = some p → cx.pins = s.cx.pins.erase p := by
  unfold State.ringUnpin
  cases hp : s.ringPin n with
  | none => exact ⟨s.cx, [], by simp, by simp⟩
  | some p =>
    obtain ⟨c, l, hframe⟩ := s.unpin_frame p
    exact ⟨_, l, hframe, fun q hq => by cases hq; rfl⟩

/-- Every block of a direction has landed and gone on. -/
def State.dirDone (s : State) (n : Nat) (x : Ring) (ccw : Bool) : Prop :=
  s.wrSteps n ccw * s.wrBps n ≤ (x.dir ccw).got ∧ s.wrSteps n ccw * s.wrBps n ≤ (x.dir ccw).fwd

theorem exec_rotationEnd_done {r : BitVec 2} {s : State} {x : Ring} (hx : s.ringOf r.toNat = x) (hst : x.st = 2) (hon : x.on = true)
    (hgrad : s.wrGrad r.toNat = false ∨ (s.wrSize r.toNat ≤ x.gsent ∧ s.wrSize r.toNat ≤ x.gin))
    (hfly : s.ringInFlight r.toNat = false) (hdone : ∀ ccw, s.dirDone r.toNat x ccw) :
    ∃ s' l, exec (.rotationEnd r) s = .next s' ∧ RingAlone r.toNat s s' ∧
      s'.ringOf r.toNat = { x with on := false, rot := x.rot + 1 } ∧
      s'.sync.sigs = s.sync.sigs ++ l ++ [{ src := none, obj := s.wrObj r.toNat + 1, add := BitVec.ofNat 32 1 }] ∧
      (∀ p, s.ringPin r.toNat = some p → s'.cx.pins = s.cx.pins.erase p) ∧ s'.mem = s.mem := by
  let s1 := s.setRing r.toNat { x with on := false, rot := x.rot + 1 }
  have hexec : exec (.rotationEnd r) s = .next ((s1.ringUnpin r.toNat).ringSignal r.toNat 1 1) := by
    show execRotationEnd r s = _
    unfold execRotationEnd
    simp only [hx, Bool.and_eq_true, decide_eq_true_eq]
    exact if_pos ⟨hst, hon, hdone false, hdone true, hfly, hgrad⟩
  obtain ⟨cx, l, hframe, hpins⟩ := s1.ringUnpin_frame r.toNat
  rw [hframe] at hexec
  exact ⟨_, l, hexec, s.ringAlone_setRing r.toNat _, s.ringOf_setRing_same _ _, rfl, hpins, rfl⟩

/-! ## The statement -/

/-- Settles O38, row by row. -/
theorem ringResult : Obligations.RingResult := by
  unfold Obligations.RingResult
  intro r s n x e others sig
  refine ⟨?_, ?_, ?_, ?_, ?_, ?_, ?_, ?_, ?_, ?_⟩
  · exact fun hst hdue => exec_ringHashSend_due rfl hst hdue
  · intro src h hst herr hsrc ph nh
    refine ⟨exec_ringHashReceive_other rfl hst herr hsrc, ?_⟩
    rintro rfl
    exact exec_ringHashReceive_own rfl hst herr hsrc
  · intro hst hon hbad hhome hreach
    have hready : s.rotationReady n e := ⟨hst, hon, hbad, (s.objReached_iff _ _).mpr ⟨hhome, hreach⟩⟩
    refine ⟨exec_rotationStart_pages rfl hready, fun hpages => ?_⟩
    exact ⟨_, exec_rotationStart_noPages rfl hready hpages, rfl, s.ringAlone_setRing n _, s.ringOf_setRing_same n _⟩
  · intro ccw data pin c d k pb cs hpin hon hst hgot hg hue hpages hlen hd ha
    exact exec_ringBlockLanded_result rfl hpin hon hst hgot hg hue hpages hlen hd ha
  · exact fun ccw data => exec_ringBlockLanded_no data
  · intro ccw d k hst hon hgrant hover
    exact exec_ringCreditGrant_result rfl hst hon hgrant hover
  · intro st k uses inn hst hon hg hlt hin hcredit hhome hreach
    have hready : s.gradReady n = true :=
      State.gradReady_of rfl hg hlt hin hcredit ((s.objReached_iff _ _).mpr ⟨hhome, hreach⟩)
    exact ⟨exec_ringGradientForward_sent rfl hst hon hready,
      exec_ringGradientForward_lost rfl hst hon hready⟩
  · exact fun hst hon hgrad hfly hdone => exec_rotationEnd_done rfl hst hon hgrad hfly hdone
  · intro hst hheld cfg gbuf
    obtain ⟨halone, hring, hzero, hobj, hmem⟩ := s.ringAnew_result n
    exact ⟨_, exec_ringReform_suspended hst ((s.ringWhole_iff n).mpr hheld) cfg gbuf, halone, hring, hzero, hobj, hmem⟩
  · intro cfg gbuf hst hrole hcfg u hok hwhole
    obtain ⟨⟨hothers, hregs, hhost, htl⟩, hring, hzero, hobj, hmem⟩ := u.ringAnew_result n
    exact ⟨_, exec_ringReform_spare hst hrole hcfg rfl hok hwhole, hregs, hring, hothers, hzero, hobj, hmem, hhost, htl⟩

end Sys2Proof.Machine
end

section
/-! SUPPORT. The end of a command and the frames of plain writes and protocol messages, as the rows of a collective use them (02 R52;
09 R231; 13 R325; 14 R379). -/
namespace Sys2Proof.Machine

/-! ## A command that ends (02 R52) -/

theorem State.findCmd_of_queues {s t : State} (h : t.host.queues = s.host.queues) (q : Nat) (n : W32) : t.findCmd q n = s.findCmd q n := by
  unfold State.findCmd State.queue
  rw [h]

theorem Runs.findCmd {s : State} {q : Nat} {n : W32} {o : Nat} {c : Cmd} (h : Runs s q n o c) : s.findCmd q n = some c := by
  obtain ⟨hc, -⟩ := h
  exact hc

theorem State.seq_of_findCmd {s : State} {q : Nat} {n : W32} {c : Cmd} (h : s.findCmd q n = some c) : c.seq = n :=
  eq_of_beq (List.find?_some (p := fun c : Cmd => c.seq == n) h)

/-- The record of command n, if it is c, after the end of command m of the same queue. -/
def Cmd.endIf (m : W32) (st : W16) (data : List Byte) (c : Cmd) : Cmd :=
  if c.seq == m then { c with phase := .ended st, data := data } else c

theorem Cmd.seq_endIf (m : W32) (st : W16) (data : List Byte) (c : Cmd) : (Cmd.endIf m st data c).seq = c.seq := by
  unfold Cmd.endIf
  split <;> rfl

theorem State.findCmd_endCmd_queue (s : State) (q : Nat) (m n : W32) (st : W16) (data : List Byte) :
    (s.endCmd q m st data).findCmd q n = (s.findCmd q n).map (Cmd.endIf m st data) := by
  have hseq : (fun c : Cmd => c.seq == n) ∘ Cmd.endIf m st data = fun c => c.seq == n :=
    funext fun c => congrArg (· == n) (Cmd.seq_endIf m st data c)
  have hqueue : (s.endCmd q m st data).queue q =
      { s.queue q with cmds := (s.queue q).cmds.map (Cmd.endIf m st data) } := State.queue_setQueue_same _ _ _
  rw [State.findCmd, hqueue, List.find?_map, hseq]
  rfl

theorem State.findCmd_endCmd_other (s : State) {p q : Nat} (h : p ≠ q) (m n : W32) (st : W16) (data : List Byte) :
    (s.endCmd q m st data).findCmd p n = s.findCmd p n := by
  rw [State.findCmd, State.endCmd, State.updCmd, State.queue_setQueue_other _ _ _ _ h]
  rfl

/-- The end of a command changes the queues alone. -/
theorem State.endCmd_frame (s : State) (q : Nat) (n : W32) (st : W16) (data : List Byte) :
    s.endCmd q n st data = { s with host := { s.host with queues := (s.endCmd q n st data).host.queues } } := rfl

/-- A command whose effect ends in a state with the same queues ends alone. -/
theorem State.ended_endCmd {s t : State} {q : Nat} {n : W32} {c : Cmd} (hqueues : t.host.queues = s.host.queues)
    (hc : s.findCmd q n = some c) (st : W16) (data : List Byte) : Ended s (t.endCmd q n st data) q n st data := by
  have hfind := State.findCmd_of_queues hqueues
  refine ⟨⟨c, hc, ?_⟩, fun p m hne => ?_⟩
  · rw [State.findCmd_endCmd_queue, hfind, hc]
    exact congrArg some (if_pos (beq_iff_eq.mpr (State.seq_of_findCmd hc)))
  · by_cases hp : p = q
    · subst hp
      rw [State.findCmd_endCmd_queue, hfind]
      cases hm : s.findCmd p m with
      | none => rfl
      | some d =>
        have hseq : d.seq ≠ n := fun e => hne (by rw [← e, State.seq_of_findCmd hm])
        exact congrArg some (if_neg (by simpa using hseq))
    · rw [State.findCmd_endCmd_other _ hp, hfind]

/-! ## Plain writes and free values (09 R231) -/

theorem WriteFrame.tl {s t : State} (h : WriteFrame s t) : t.tl = s.tl := by
  unfold WriteFrame at h
  rw [h]

theorem State.putPiece_frame (s : State) (l : Nat) (bs : List Byte) : WriteFrame s (s.putPiece l bs).1 := by
  unfold State.putPiece
  split
  · exact WriteFrame.refl s
  · obtain ⟨hframe, -⟩ := s.clearRound_frame (l / 64)
    exact hframe.trans rfl

theorem State.putRefPiece_frame (s : State) (r : Ref) (bs : List Byte) : WriteFrame s (s.putRefPiece r bs).1 := by
  unfold State.putRefPiece
  split
  · exact WriteFrame.refl s
  · next l _ =>
    dsimp only
    split
    · exact s.putPiece_frame l bs
    · exact (s.putPiece_frame l bs).trans (State.putPiece_frame _ _ bs)

theorem State.putBytesAt_frame (fuel : Nat) (s : State) (r : Ref) (bs : List Byte) : WriteFrame s (s.putBytesAt fuel r bs).1 := by
  induction fuel generalizing s r bs with
  | zero => exact WriteFrame.refl s
  | succ fuel ih =>
    cases bs with
    | nil => exact WriteFrame.refl s
    | cons b bs => exact (s.putRefPiece_frame r _).trans (ih _ _ _)

/-- Free values over a range change memory and the draw of free values, beside what a plain write changes. -/
theorem State.scramble_frame (s : State) (r : Ref) (n : Nat) :
    WriteFrame { s with drawn := s.drawn + n } (s.scramble r n) := State.putBytesAt_frame _ _ _ _

theorem State.markOpt_frame (s : State) (r : Ref) (n : Nat) : s.markOpt r n = { s with trn := (s.markOpt r n).trn } := by
  unfold State.markOpt
  split <;> rfl

/-! ## Messages to many modules (13 R325) -/

theorem State.sendAll_frame (s : State) (l : List (BitVec 12)) (m : Msg) : s.sendAll l m = { s with fab := (s.sendAll l m).fab } := by
  unfold State.sendAll
  generalize l.filter (fun d => some d != s.host.ident) = ds
  induction ds generalizing s with
  | nil => rfl
  | cons d ds ih => rw [List.foldl_cons, ih, State.sendMsg_frame]

/-- A message without data goes to every module of the list but this one. -/
theorem State.posted_sendAll_ctl (s : State) (l : List (BitVec 12)) {m : Msg} (h : m.load = none) :
    Posted s (s.sendAll l m) ((l.filter (fun d => some d != s.host.ident)).map (fun d => (d, .ctl m))) := by
  unfold State.sendAll
  generalize l.filter (fun d => some d != s.host.ident) = ds
  induction ds generalizing s with
  | nil => exact Posted.refl s
  | cons d ds ih => exact (s.posted_sendMsg_ctl d h).trans (ih _)

/-- What is posted depends on the fabric's part of the two states alone. -/
theorem Posted.of_fab {s s' t t' : State} {l : List (BitVec 12 × FabBody)} (h : Posted s t l) (hs : s'.fab = s.fab) (ht : t'.fab = t.fab) :
    Posted s' t' l := by
  unfold Posted
  rw [hs, ht]
  exact h

/-! ## The log (14 R379) -/

theorem OnlyFault.trans {s t u : State} (h : OnlyFault s t) (k : OnlyFault t u) : OnlyFault s u := by
  unfold OnlyFault at *
  rw [h] at k
  exact k

theorem State.onlyFault_log (s : State) (c a : Nat) (st u : W16) (i : BitVec 12) (d : W64) : OnlyFault s (s.log c a st u i d) := by
  unfold OnlyFault
  rw [State.log_frame]

/-- Residue misses of a fabric reduction unit are counted and logged (11 R292). -/
theorem State.onlyFault_fabricMiss (s : State) (u : BitVec 2) (n : Nat) : OnlyFault s (s.fabricMiss u n) := by
  have hcount : OnlyFault s (if n = 0 then s else s.count Cnt.residue n) := by split <;> rfl
  unfold State.fabricMiss
  generalize (if n = 0 then s else s.count Cnt.residue n) = t at hcount ⊢
  generalize List.range n = is
  induction is generalizing t with
  | nil => exact hcount
  | cons i is ih => exact ih _ (hcount.trans (t.onlyFault_log _ _ _ _ _ _))

end Sys2Proof.Machine
end

section
/-! SUPPORT. How a collective ends and what it sends (11 R280, R281, R292 to R297). -/
namespace Sys2Proof.Machine

/-! ## The turn of a group (11 R280) -/

/-- Numbers passed over change the turns and the numbers passed alone. -/
theorem State.collTurn_frame (s : State) (g n : Nat) :
    s.collTurn g n = { s with coll := { s.coll with passed := (s.collTurn g n).coll.passed, turn := (s.collTurn g n).coll.turn } } := by
  induction n generalizing s with
  | zero => rfl
  | succ n ih =>
    unfold State.collTurn
    dsimp only
    split
    · rw [ih]
    · rfl

/-! ## Messages to a group -/

theorem State.toGroup_frame (s : State) (g : Nat) (m : Msg) : s.toGroup g m = { s with fab := (s.toGroup g m).fab } := s.sendAll_frame _ m

theorem State.posted_toGroup_ctl (s : State) (g : Nat) {m : Msg} (h : m.load = none) :
    Posted s (s.toGroup g m) (((s.holders g).filter (fun d => some d != s.host.ident)).map (fun d => (d, .ctl m))) :=
  s.posted_sendAll_ctl _ h

/-! ## The end of the current collective (11 R281, R293 to R297) -/

/-- The status leaves the destination undefined: a timeout or an abort in the data phase. -/
def Coll.spoils (x : Coll) (st : W16) : Bool := x.phase != .hand && (st == Status.collTimeout || st == Status.collAbort)

theorem Coll.spoils_hand {x : Coll} (h : x.phase = .hand) (st : W16) : x.spoils st = false := by simp [Coll.spoils, h]
theorem Coll.spoils_ok (x : Coll) : x.spoils Status.ok = false := Bool.and_false _

/-- ALG of the result data: 0 before the data phase (Table 11.13). -/
def Coll.resultAlg (x : Coll) : Nat := if x.phase = .hand then 0 else x.desc.alg

theorem Coll.resultAlg_hand {x : Coll} (h : x.phase = .hand) : x.resultAlg = 0 := if_pos h

/-- The destination holds free values where the status spoils it. -/
def State.collSpoilt (s : State) (x : Coll) (c : Cmd) (st : W16) : State :=
  let r := if x.desc.step then (s.collDst c, s.wlen) else s.collDstRange c
  if x.spoils st then s.scramble r.1 r.2 else s

theorem State.collSpoilt_of_not {s : State} {x : Coll} {c : Cmd} {st : W16} (h : x.spoils st = false) : s.collSpoilt x c st = s :=
  if_neg (by simp [h])

theorem State.collSpoilt_frame (s : State) (x : Coll) (c : Cmd) (st : W16) :
    s.collSpoilt x c st = { s with
      drawn := (s.collSpoilt x c st).drawn, mem := (s.collSpoilt x c st).mem, flt := (s.collSpoilt x c st).flt } := by
  unfold State.collSpoilt
  extract_lets r
  split
  · have h := s.scramble_frame r.1 r.2
    unfold WriteFrame at h
    rw [h]
  · rfl

/-- The collective is no longer current and its number has had its turn; these messages are still kept. -/
def State.collClosed (s : State) (g : Nat) (seq : W32) (box : List (BitVec 12 × Msg)) : State :=
  let t := s.setColl g none
  ({ t with coll := { t.coll with turn := Tab.put 0 t.coll.turn g (seq + 1), box := box } } : State).collTurn g t.coll.passed.length

theorem State.curColl_collClosed (s : State) (g : Nat) (seq : W32) (box : List (BitVec 12 × Msg)) :
    (s.collClosed g seq box).curColl g = none := by
  unfold State.collClosed
  rw [State.collTurn_frame]
  exact s.curColl_setColl_same g none

theorem State.collClosed_frame (s : State) (g : Nat) (seq : W32) (box : List (BitVec 12 × Msg)) :
    s.collClosed g seq box = { s with coll := (s.collClosed g seq box).coll } := by
  unfold State.collClosed
  extract_lets t
  rw [State.collTurn_frame]
  rfl

/-- A collective whose command is known closes, and its command ends with the result. -/
theorem State.collEnd_of_findCmd {s : State} {x : Coll} {c : Cmd} (hc : s.findCmd x.q x.cmd = some c) (g : Nat) (st : W16)
    (rank field cause : Nat) :
    ∃ box, s.collEnd g x st rank field cause = ((s.collSpoilt x c st).collClosed g x.seq box).endCmd x.q x.cmd st
      (collResult x.seq g rank field cause x.resultAlg x.fl) := by
  have hran : (if (x.phase != .hand) = true then x.desc.alg else 0) = x.resultAlg := by
    unfold Coll.resultAlg
    cases x.phase <;> rfl
  rw [← hran, State.collEnd, hc]
  exact ⟨_, rfl⟩

/-- What the end of group g's current collective leaves: no collective is current there; the registers, the tiles, what goes up to the
host and, unless the destination is spoilt, memory are as they were. -/
structure CollOver (g : Nat) (spoilt : Bool) (s t : State) : Prop where
  cur : t.curColl g = none
  regs : t.regs = s.regs
  tl : t.tl = s.tl
  ident : t.host.ident = s.host.ident
  upTx : t.host.upTx = s.host.upTx
  mem : spoilt = false → t.mem = s.mem

theorem State.collOver_collEnd (s : State) (g : Nat) (x : Coll) (st : W16) (rank field cause : Nat) :
    CollOver g (x.spoils st) s (s.collEnd g x st rank field cause) := by
  cases hc : s.findCmd x.q x.cmd with
  | none =>
    rw [State.collEnd, hc]
    exact ⟨s.curColl_setColl_same g none, rfl, rfl, rfl, rfl, fun _ => rfl⟩
  | some c =>
    obtain ⟨box, hend⟩ := State.collEnd_of_findCmd hc g st rank field cause
    rw [hend]
    refine ⟨State.curColl_collClosed _ g x.seq box, ?_, ?_, ?_, ?_, fun h => ?_⟩
    · rw [State.endCmd_regs, State.collClosed_frame, State.collSpoilt_frame]
    · rw [State.endCmd_tl, State.collClosed_frame, State.collSpoilt_frame]
    · rw [State.endCmd_frame, State.collClosed_frame, State.collSpoilt_frame]
    · rw [State.endCmd_frame, State.collClosed_frame, State.collSpoilt_frame]
    · rw [State.endCmd_mem, State.collClosed_frame, State.collSpoilt_of_not h]

theorem State.ended_collEnd {s : State} {x : Coll} {c : Cmd} (hc : s.findCmd x.q x.cmd = some c) (g : Nat) (st : W16)
    (rank field cause : Nat) :
    Ended s (s.collEnd g x st rank field cause) x.q x.cmd st
      (collResult x.seq g rank field cause x.resultAlg x.fl) := by
  obtain ⟨box, hend⟩ := State.collEnd_of_findCmd hc g st rank field cause
  rw [hend]
  refine State.ended_endCmd ?_ hc _ _
  rw [State.collClosed_frame, State.collSpoilt_frame]

/-- What ends depends on the queues alone. -/
theorem Ended.of_queues {s t u : State} {q : Nat} {n : W32} {st : W16} {data : List Byte} (h : Ended t u q n st data)
    (hq : t.host.queues = s.host.queues) : Ended s u q n st data := by
  unfold Ended at h ⊢
  simpa only [State.findCmd_of_queues hq] using h

/-- The group is told of the end of a collective, which then ends here. -/
theorem State.toGroup_collEnd {s : State} {x : Coll} {c : Cmd} (hc : s.findCmd x.q x.cmd = some c) (g : Nat) (m : Msg) (st : W16)
    (rank field cause : Nat) :
    let t := (s.toGroup g m).collEnd g x st rank field cause
    CollOver g (x.spoils st) s t ∧
      Ended s t x.q x.cmd st (collResult x.seq g rank field cause x.resultAlg x.fl) := by
  intro t
  have hframe := s.toGroup_frame g m
  have hqueues : (s.toGroup g m).host.queues = s.host.queues := by rw [hframe]
  have hover : CollOver g (x.spoils st) (s.toGroup g m) t := State.collOver_collEnd _ g x st rank field cause
  rw [hframe] at hover
  refine ⟨⟨hover.cur, hover.regs, hover.tl, hover.ident, hover.upTx, hover.mem⟩, ?_⟩
  exact (State.ended_collEnd ((State.findCmd_of_queues hqueues _ _).trans hc) g st rank field cause).of_queues hqueues

/-- A collective that fails with an abort ends here with this member's rank (11 R292, R295). -/
theorem State.collFail_abort {s : State} {x : Coll} {c : Cmd} (hc : s.findCmd x.q x.cmd = some c) (g cause : Nat) :
    let t := s.collFail g x Status.collAbort cause
    CollOver g (x.spoils Status.collAbort) s t ∧ Ended s t x.q x.cmd Status.collAbort
      (collResult x.seq g (s.grpRank g) 0 cause x.resultAlg x.fl) :=
  State.toGroup_collEnd hc g _ _ _ _ _

end Sys2Proof.Machine
end

section
/-! SUPPORT. A COLL from its dispatch to its handshake (11 R280 to R282, R295; 10 R246). -/
namespace Sys2Proof.Machine

/-! ## A dispatched COLL (11 R280, R295; 10 R246) -/

theorem State.collBarred_iff (s : State) (c : Cmd) :
    s.collBarred c = true ↔ collStep c = false ∧ s.refAny (s.collDstRange c).1 (s.collDstRange c).2 s.inCommitted = true := by
  rw [State.collBarred, Bool.and_eq_true, Bool.not_eq_true']

theorem State.collBarred_ready (s : State) (l : List (Nat × W32 × Nat × W32)) (c : Cmd) :
    ({ s with coll := { s.coll with ready := l } } : State).collBarred c = s.collBarred c := rfl

/-- A number that is over without having been current changes collectives alone. -/
theorem State.collPass_frame (s : State) (g : Nat) (seq : W32) : s.collPass g seq = { s with coll := (s.collPass g seq).coll } := by
  unfold State.collPass
  extract_lets s1
  rw [State.collTurn_frame]

section
variable {q : BitVec 6} {n : W32} {s : State} {c : Cmd} (hruns : Runs s q.toNat n 0x04 c)
    (hready : ∀ r ∈ s.coll.ready, r.2.2 ≠ (q.toNat, n)) (hcur : ∀ x, s.curColl (collGrp c) = some x → (x.q, x.cmd) ≠ (q.toNat, n))
include hruns hready hcur

/-- A COLL that runs, is neither dispatched already nor current, is put in its group's order or withdraws. -/
theorem exec_coll_dispatched :
    exec (.coll q n) s = if s.collBarred c then .next (s.collGone q.toNat c Status.errRange)
      else .next { s with coll := { s.coll with ready := s.coll.ready ++ [(collGrp c, BitVec.ofNat 32 c.pos, q.toNat, n)] } } := by
  obtain ⟨hc, hphase, hop⟩ := hruns
  have hany : s.coll.ready.any (fun r => r.2.2 == (q.toNat, n)) = false := by simpa using hready
  show execColl q n s = _
  unfold execColl
  rw [hc]
  refine if_neg ?_
  simp only [hphase, hop, hany, not_or, ne_eq, not_true_eq_false, not_false_eq_true, true_and]
  refine ⟨Bool.false_ne_true, ?_⟩
  cases hx : s.curColl (collGrp c) with
  | none => exact Bool.false_ne_true
  | some x => exact fun h => hcur x hx (by simpa using h)

theorem exec_coll_ready
    (hfree : collStep c = true ∨ s.refAny (s.collDstRange c).1 (s.collDstRange c).2 s.inCommitted = false) :
    exec (.coll q n) s = .next { s with coll := { s.coll with
      ready := s.coll.ready ++ [(collGrp c, BitVec.ofNat 32 c.pos, q.toNat, n)] } } := by
  rw [exec_coll_dispatched hruns hready hcur]
  refine if_neg fun hbar => ?_
  obtain ⟨hstep, hany⟩ := (s.collBarred_iff c).mp hbar
  rcases hfree with h | h
  · exact Bool.false_ne_true (hstep.symm.trans h)
  · exact Bool.false_ne_true (h.symm.trans hany)

theorem exec_coll_withdrawn (hbar : s.collBarred c = true) :
    let g := collGrp c
    let k : W32 := BitVec.ofNat 32 c.pos
    ∃ s', exec (.coll q n) s = .next s' ∧ Ended s s' q.toNat n 0x0202 (collResult k g 0 0 0 0 {}) ∧ s'.mem = s.mem ∧
      Posted s s' (((s.holders g).filter (fun m => some m != s.host.ident)).map
        (fun m => (m, .ctl (.collAbort (BitVec.ofNat 8 g) k 2 (s.grpRank g))))) := by
  intro g k
  let m : Msg := .collAbort (BitVec.ofNat 8 g) k 2 (s.grpRank g)
  have hc := hruns.findCmd
  have hexec : exec (.coll q n) s = .next ((s.withdraw g k).endCmd q.toNat n 0x0202 (collResult k g 0 0 0 0 {})) := by
    rw [exec_coll_dispatched hruns hready hcur, if_pos hbar, State.collGone, State.seq_of_findCmd hc]
    rfl
  refine ⟨_, hexec, State.ended_endCmd ?_ hc _ _, ?_, (s.posted_toGroup_ctl g (m := m) rfl).of_fab rfl ?_⟩
  · rw [State.withdraw, State.collPass_frame, State.toGroup_frame]
  · rw [State.endCmd_mem, State.withdraw, State.collPass_frame, State.toGroup_frame]
  · rw [State.endCmd_fab, State.withdraw, State.collPass_frame]

end

/-! ## It becomes current (11 R280, R281, R291) -/

/-- The messages with which a primary or backup of a STEP collective announces itself: none from the lead, which keeps its own record. -/
def State.bkTold (s : State) (g : Nat) (d : CollDesc) : List (BitVec 12 × FabBody) :=
  if s.leadRank g = s.grpRank g then []
  else (s.bkMine d).map (fun m => (s.rankId g (s.leadRank g), .ctl (.backupReady (BitVec.ofNat 4 m.1) m.2)))

theorem State.bkAnnounce_result (s : State) (g : Nat) (d : CollDesc) :
    s.bkAnnounce g d = { s with fab := (s.bkAnnounce g d).fab, trn := (s.bkAnnounce g d).trn } ∧
    Posted s (s.bkAnnounce g d) (s.bkTold g d) := by
  unfold State.bkAnnounce State.bkTold
  generalize s.bkMine d = l
  induction l generalizing s with
  | nil => exact ⟨rfl, by split <;> exact Posted.refl s⟩
  | cons m l ih =>
    rw [List.foldl_cons]
    generalize ht : (if s.leadRank g = s.grpRank g then s.bkAnnounced (BitVec.ofNat 4 m.1) m.2
      else s.sendMsg (s.rankId g (s.leadRank g)) (.backupReady (BitVec.ofNat 4 m.1) m.2)) = t
    have hstep : t = { s with fab := t.fab, trn := t.trn } ∧ Posted s t (if s.leadRank g = s.grpRank g then []
        else [(s.rankId g (s.leadRank g), .ctl (.backupReady (BitVec.ofNat 4 m.1) m.2))]) := by
      rw [← ht]
      split
      · exact ⟨rfl, Posted.refl s⟩
      · exact ⟨by rw [State.sendMsg_frame], s.posted_sendMsg_ctl _ rfl⟩
    obtain ⟨hframe, hposted⟩ := hstep
    obtain ⟨iframe, iposted⟩ := ih t
    have hlead : t.leadRank g = s.leadRank g := by rw [hframe]; rfl
    have hrank : t.grpRank g = s.grpRank g := by rw [hframe]; rfl
    have hid : t.rankId g (s.leadRank g) = s.rankId g (s.leadRank g) := by rw [hframe]; rfl
    rw [hlead, hrank, hid] at iposted
    refine ⟨by rw [iframe, hframe], ?_⟩
    have h := hposted.trans iposted
    split at h
    · next hown => rwa [if_pos hown]
    · next hother => rwa [if_neg hother]

/-- Nothing kept for a collective: nothing is handed to it. -/
theorem State.collUnbox_empty {s : State} (h : s.coll.box = []) (g : Nat) (seq : W32) : s.collUnbox g seq = s := by
  unfold State.collUnbox
  rw [h]
  show { s with coll := { s.coll with box := [] } } = s
  rw [← h]

/-- Before every descriptor is there nothing is compared. -/
theorem State.collMatch_short {s : State} {g : Nat} {x : Coll} (hx : s.curColl g = some x) (h : x.hands.length < (s.members g).length) :
    s.collMatch g = s := by
  rw [State.collMatch, hx]
  exact if_pos (.inr (.inr h))

/-- A collective as it becomes current: it shows its own descriptor. -/
def Coll.fresh (q : Nat) (n seq : W32) (d : CollDesc) (now rank : Nat) : Coll :=
  { q := q, cmd := n, seq := seq, desc := d, since := now, hands := [(rank, collHash d, d)] }

/-- Every member is shown the descriptor of the collective that becomes current, after what its backups have ready is announced. -/
def State.collShown (s : State) (g : BitVec 8) (x : Coll) : State :=
  ((s.setColl g.toNat (some x)).bkAnnounce g.toNat x.desc).toGroup g.toNat (.collHand g x.seq (collHash x.desc) x.desc)

theorem State.collShown_frame (s : State) (g : BitVec 8) (x : Coll) :
    s.collShown g x = { s.setColl g.toNat (some x) with fab := (s.collShown g x).fab, trn := (s.collShown g x).trn } := by
  obtain ⟨hannounce, -⟩ := (s.setColl g.toNat (some x)).bkAnnounce_result g.toNat x.desc
  unfold State.collShown
  rw [State.toGroup_frame, hannounce]

theorem State.posted_collShown (s : State) (g : BitVec 8) (x : Coll) :
    Posted s (s.collShown g x) (s.bkTold g.toNat x.desc ++ ((s.holders g.toNat).filter (fun m => some m != s.host.ident)).map
      (fun m => (m, .ctl (.collHand g x.seq (collHash x.desc) x.desc)))) := by
  obtain ⟨hframe, hposted⟩ := (s.setColl g.toNat (some x)).bkAnnounce_result g.toNat x.desc
  unfold State.collShown
  generalize (s.setColl g.toNat (some x)).bkAnnounce g.toNat x.desc = t at hframe hposted ⊢
  have hholders : t.holders g.toNat = s.holders g.toNat := by rw [hframe]; rfl
  have hident : t.host.ident = s.host.ident := by rw [hframe]; rfl
  rw [← hholders, ← hident]
  exact Posted.trans (hposted.of_fab rfl rfl) (t.posted_toGroup_ctl _ rfl)

section
variable {g : BitVec 8} {s : State} {q : Nat} {n t : W32} {c : Cmd} {d : CollDesc} {l : List (Nat × W32 × Nat × W32)}
  (ht : Tab.get 0 s.coll.turn g.toNat = t) (hd : s.collDesc c = d) (hcur : s.curColl g.toNat = none)
  (hready : s.coll.ready = (g.toNat, t, q, n) :: l) (hc : s.findCmd q n = some c) (hearly : s.coll.early = [])
  (hbar : s.collBarred c = false)
include ht hd hcur hready hc hearly hbar

/-- The first COLL dispatched has its turn. -/
theorem exec_collBecomesCurrent_first :
    exec (.collBecomesCurrent g) s = .next (((({ s with coll := { s.coll with ready := l } } : State).collShown g
      (Coll.fresh q n t d s.now (s.grpRank g.toNat))).collMatch g.toNat).collUnbox g.toNat t) := by
  have hfind : s.coll.ready.find? (fun r => r.1 == g.toNat && r.2.1 == t) = some (g.toNat, t, q, n) := by
    rw [hready]
    exact List.find?_cons_of_pos (by simp)
  have herase : s.coll.ready.erase (g.toNat, t, q, n) = l := by rw [hready, List.erase_cons_head]
  have hnone : s.coll.early.find? (fun e => e.g == g.toNat && e.seq == t) = none := by rw [hearly, List.find?_nil]
  show execCollBecomesCurrent g s = _
  unfold execCollBecomesCurrent
  simp only [hcur, ht, hd, hfind, hc, herase, hnone, State.collBarred_ready, hbar, Bool.false_eq_true, if_false]
  rfl

theorem exec_collBecomesCurrent_result (hbox : s.coll.box = []) (hmem : 2 ≤ (s.members g.toNat).length) :
    ∃ s', exec (.collBecomesCurrent g) s = .next s' ∧ s'.coll.ready = l ∧
      s'.curColl g.toNat = some (Coll.fresh q n t d s.now (s.grpRank g.toNat)) ∧
      (∀ k, k ≠ g.toNat → s'.curColl k = s.curColl k) ∧
      Posted s s' (s.bkTold g.toNat d ++ ((s.holders g.toNat).filter (fun m => some m != s.host.ident)).map
        (fun m => (m, .ctl (.collHand g t (collHash d) d)))) ∧
      s'.mem = s.mem ∧ s'.host = s.host := by
  let x := Coll.fresh q n t d s.now (s.grpRank g.toNat)
  let s1 : State := { s with coll := { s.coll with ready := l } }
  have hexec := exec_collBecomesCurrent_first ht hd hcur hready hc hearly hbar
  have hframe := s1.collShown_frame g x
  have hposted := s1.posted_collShown g x
  generalize s1.collShown g x = u at hexec hframe hposted
  have hcoll : u.coll = (s1.setColl g.toNat (some x)).coll := by rw [hframe]
  have hx : u.curColl g.toNat = some x := by
    rw [State.curColl, hcoll]
    exact s1.curColl_setColl_same _ _
  rw [State.collMatch_short hx (by rw [State.members, hcoll]; exact hmem), State.collUnbox_empty (by rw [hcoll]; exact hbox)] at hexec
  refine ⟨u, hexec, by rw [hcoll]; rfl, hx, fun k hk => ?_, hposted, by rw [hframe]; rfl, by rw [hframe]; rfl⟩
  rw [State.curColl, hcoll]
  exact s1.curColl_setColl_other _ _ k hk

end

end Sys2Proof.Machine
end

section
/-! SUPPORT. The handshake of a collective: descriptors that arrive and are compared (11 R281, R282). -/
namespace Sys2Proof.Machine

/-! ## Descriptors compared (11 R281) -/

theorem findSome?_range_of_unique {β : Type} {f : Nat → Option β} {p r : Nat} {b : β} (hr : r < p) (hb : f r = some b)
    (hother : ∀ i, i < p → i ≠ r → f i = none) : (List.range p).findSome? f = some b := by
  obtain ⟨l, m, hl, hmem⟩ := List.eq_append_cons_of_mem (List.mem_range.mpr hr)
  refine List.findSome?_eq_some_iff.mpr ⟨l, r, m, hl, hb, fun i hi => ?_⟩
  refine hother i (List.mem_range.mp ?_) fun e => hmem (e ▸ hi)
  rw [hl]
  exact List.mem_append_left _ hi

/-- Where a rank's descriptor differs from the reference, and in which field: 0 where only the hashes differ. -/
def handFault (hs : List (Nat × W64 × CollDesc)) (rh : W64) (ref : CollDesc) (r : Nat) : Option (Nat × Nat) :=
  (hs.find? (fun h => h.1 == r)).bind (fun h =>
    match mismatch ref h.2.2 (decide (r ≠ 0)) with
    | some f => some (r, f)
    | none => if h.2.1 = rh then none else some (r, 0))

theorem handFault_equal {hs : List (Nat × W64 × CollDesc)} {rh : W64} {ref : CollDesc} {r : Nat}
    (h : ∀ h ∈ hs, h.1 = r → mismatch ref h.2.2 (decide (h.1 ≠ 0)) = none ∧ h.2.1 = rh) : handFault hs rh ref r = none := by
  unfold handFault
  cases hf : hs.find? (fun h => h.1 == r) with
  | none => rfl
  | some x =>
    have hr : x.1 = r := eq_of_beq (List.find?_some (p := fun h : Nat × W64 × CollDesc => h.1 == r) hf)
    obtain ⟨hm, hh⟩ := h x (List.mem_of_find?_eq_some hf) hr
    rw [hr] at hm
    rw [Option.bind_some, hm]
    exact if_pos hh

theorem handFault_last {hs : List (Nat × W64 × CollDesc)} {rh dh : W64} {ref d : CollDesc} {r f : Nat} (hnew : ∀ h ∈ hs, h.1 ≠ r)
    (h : mismatch ref d (decide (r ≠ 0)) = some f ∨ (mismatch ref d (decide (r ≠ 0)) = none ∧ dh ≠ rh ∧ f = 0)) :
    handFault (hs ++ [(r, dh, d)]) rh ref r = some (r, f) := by
  have hfind : (hs ++ [(r, dh, d)]).find? (fun h => h.1 == r) = some (r, dh, d) := by
    rw [List.find?_append, List.find?_eq_none.mpr (fun x hx => by simpa using hnew x hx)]
    simp
  unfold handFault
  rw [hfind, Option.bind_some]
  rcases h with h | ⟨h, hne, rfl⟩
  · rw [h]
  · rw [h]
    exact if_neg hne

/-- Descriptors are all there and one differs. -/
theorem State.collMatch_differs {s : State} {g : Nat} {x : Coll} {rh : W64} {ref : CollDesc} {r f : Nat} (hx : s.curColl g = some x)
    (hphase : x.phase = .hand) (hsusp : x.susp = false) (hall : (s.members g).length ≤ x.hands.length)
    (href : x.hands.find? (fun h => h.1 == 0) = some (0, rh, ref))
    (hbad : (List.range (s.members g).length).findSome? (handFault x.hands rh ref) = some (r, f)) :
    s.collMatch g = s.collEnd g x Status.collMismatch r f 0 := by
  have hgo : ¬ (x.phase ≠ .hand ∨ x.susp = true ∨ x.hands.length < (s.members g).length) := by
    rw [hphase, hsusp]
    simpa using hall
  rw [State.collMatch, hx]
  dsimp only
  rw [if_neg hgo, href]
  dsimp only
  split
  · next heq =>
    cases hbad.symm.trans heq
    rfl
  · next heq => cases hbad.symm.trans heq

/-! ## A descriptor arrives -/

section
variable {g : BitVec 8} {s : State} {x : Coll} {src : BitVec 12} {r : Nat} {dh : W64} {d : CollDesc}
  (hx : s.curColl g.toNat = some x) (hsrc : s.ranksOf g.toNat src = [r]) (hnew : ∀ h ∈ x.hands, h.1 ≠ r)
include hx hsrc hnew

/-- A descriptor of a member from which none was there joins the others, and then they are compared. -/
theorem exec_collHandshakeReceive_new :
    exec (.collHandshakeReceive g x.seq src dh d) s =
      .next ((s.setColl g.toNat (some { x with hands := x.hands ++ [(r, dh, d)] })).collMatch g.toNat) := by
  have hall : x.hands.all (fun h => h.1 != r) = true := by simpa using hnew
  show Host.Outcome.next (s.collHandFrom g.toNat x.seq src dh d) = _
  simp only [State.collHandFrom, hx, if_true, hsrc, List.filter_cons, hall, List.filter_nil, List.map_cons, List.map_nil]

theorem exec_collHandshakeReceive_waits (hlen : (x.hands ++ [(r, dh, d)]).length < (s.members g.toNat).length) :
    exec (.collHandshakeReceive g x.seq src dh d) s =
      .next (s.setColl g.toNat (some { x with hands := x.hands ++ [(r, dh, d)] })) := by
  rw [exec_collHandshakeReceive_new hx hsrc hnew, State.collMatch_short (s.curColl_setColl_same _ _) hlen]

theorem exec_collHandshakeReceive_differs {c : Cmd} {f : Nat} {rh : W64} {ref : CollDesc}
    (hc : s.findCmd x.q x.cmd = some c) (hphase : x.phase = .hand) (hsusp : x.susp = false)
    (hall : (s.members g.toNat).length ≤ (x.hands ++ [(r, dh, d)]).length) (hr : r < (s.members g.toNat).length)
    (href : (x.hands ++ [(r, dh, d)]).find? (fun h => h.1 == 0) = some (0, rh, ref))
    (hothers : ∀ h ∈ x.hands ++ [(r, dh, d)], h.1 ≠ r → mismatch ref h.2.2 (decide (h.1 ≠ 0)) = none ∧ h.2.1 = rh)
    (hbad : mismatch ref d (decide (r ≠ 0)) = some f ∨ (mismatch ref d (decide (r ≠ 0)) = none ∧ dh ≠ rh ∧ f = 0)) :
    ∃ s', exec (.collHandshakeReceive g x.seq src dh d) s = .next s' ∧ s'.curColl g.toNat = none ∧ s'.mem = s.mem ∧
      Ended s s' x.q x.cmd 0x0401 (collResult x.seq g.toNat r f 0 0 x.fl) := by
  let y : Coll := { x with hands := x.hands ++ [(r, dh, d)] }
  let t := s.setColl g.toNat (some y)
  have hfault : (List.range (t.members g.toNat).length).findSome? (handFault y.hands rh ref) = some (r, f) :=
    findSome?_range_of_unique hr (handFault_last hnew hbad) fun i _ hi =>
      handFault_equal fun h hh e => hothers h hh (e ▸ hi)
  have hover := t.collOver_collEnd g.toNat y Status.collMismatch r f 0
  have hended := State.ended_collEnd (s := t) (x := y) hc g.toNat Status.collMismatch r f 0
  rw [Coll.spoils_hand (x := y) hphase] at hover
  rw [Coll.resultAlg_hand (x := y) hphase] at hended
  refine ⟨_, ?_, hover.cur, hover.mem rfl, hended⟩
  rw [exec_collHandshakeReceive_new hx hsrc hnew]
  exact congrArg Host.Outcome.next
    (State.collMatch_differs (s.curColl_setColl_same _ _) hphase hsusp hall href hfault)

end

end Sys2Proof.Machine
end

section
/-! SUPPORT. The data of a collective: a finished piece lands and is written, and what a collective does on its own after that leaves
memory as it is (11 R282, R283). -/
namespace Sys2Proof.Machine

/-! ## Credits and pieces sent (11 R283) -/

/-- The current collective of group g sends: it waits for what it waited for, and the fabric's part and the current collectives alone
may differ. -/
structure CollSending (g : Nat) (s t : State) : Prop where
  want : (t.curColl g).map Coll.want = (s.curColl g).map Coll.want
  frame : t = { s with fab := t.fab, coll := { s.coll with cur := t.coll.cur } }

theorem CollSending.refl (g : Nat) (s : State) : CollSending g s s := ⟨rfl, rfl⟩

theorem CollSending.trans {g : Nat} {s t u : State} (h : CollSending g s t) (k : CollSending g t u) : CollSending g s u := by
  obtain ⟨hwant, hframe⟩ := h
  obtain ⟨kwant, kframe⟩ := k
  refine ⟨kwant.trans hwant, ?_⟩
  rw [hframe] at kframe
  exact kframe

/-- An update of the current collective that keeps what it waits for, and a message. -/
theorem State.collSending_sendMsg {s : State} {g : Nat} {x y : Coll} (hx : s.curColl g = some x) (hwant : y.want = x.want)
    (d : BitVec 12) (m : Msg) : CollSending g s ((s.setColl g (some y)).sendMsg d m) := by
  refine ⟨?_, by rw [State.sendMsg_frame]; rfl⟩
  rw [State.sendMsg_frame]
  show ((s.setColl g (some y)).curColl g).map Coll.want = _
  rw [State.curColl_setColl_same, hx]
  exact congrArg some hwant

theorem State.collSending_collGrant (s : State) (g n : Nat) : CollSending g s (s.collGrant g n) := by
  induction n generalizing s with
  | zero => exact CollSending.refl g s
  | succ n ih =>
    unfold State.collGrant
    cases hx : s.curColl g with
    | none => exact CollSending.refl g s
    | some x =>
      dsimp only
      split
      · exact CollSending.refl g s
      · split
        · exact CollSending.refl g s
        · refine CollSending.trans ?_ (ih _)
          exact State.collSending_sendMsg hx (by rfl) _ _

theorem State.collSending_collPump (s : State) (g n : Nat) : CollSending g s (s.collPump g n) := by
  induction n generalizing s with
  | zero => exact CollSending.refl g s
  | succ n ih =>
    unfold State.collPump
    cases hx : s.curColl g with
    | none => exact CollSending.refl g s
    | some x =>
      dsimp only
      split
      · exact CollSending.refl g s
      · refine CollSending.trans ?_ (ih _)
        exact State.collSending_sendMsg hx (by rfl) _ _

/-! ## A run with one finished piece -/

theorem State.collTake_no_land {s : State} {g : Nat} {x : Coll} (hx : s.curColl g = some x) (h : x.land = []) (c : Cmd) (n : Nat) :
    s.collTake g c n = s := by
  cases n with
  | zero => rfl
  | succ n => simp [State.collTake, hx, h]

/-- The state in which a collective that was to wait for these pieces has run: memory, the registers and the tiles are as in s, and if it
is still current it waits for them. -/
structure CollRan (g : Nat) (want : List Want) (s t : State) : Prop where
  mem : t.mem = s.mem
  regs : t.regs = s.regs
  tl : t.tl = s.tl
  want : ∀ y, t.curColl g = some y → y.want = want

theorem CollSending.ran {g : Nat} {s t : State} {x : Coll} (h : CollSending g s t) (hx : s.curColl g = some x) : CollRan g x.want s t := by
  obtain ⟨hwant, hframe⟩ := h
  refine ⟨(congrArg State.mem hframe :), (congrArg State.regs hframe :), (congrArg State.tl hframe :), fun y hy => ?_⟩
  rw [hx, hy] at hwant
  exact Option.some.inj hwant

/-- A collective that has run may go on to its norm or end with OK. -/
theorem CollRan.finish {g : Nat} {want : List Want} {s t : State} {y : Coll} (h : CollRan g want s t) (hy : t.curColl g = some y)
    (done : Bool) : CollRan g want s (if done then (if y.desc.step then t.setColl g (some { y with phase := .norm })
      else t.collEnd g y Status.ok 0 0 0) else t) := by
  obtain ⟨hmem, hregs, htl, hwant⟩ := h
  cases done with
  | false => exact ⟨hmem, hregs, htl, hwant⟩
  | true =>
    rw [if_pos rfl]
    split
    · refine ⟨hmem, hregs, htl, fun z hz => ?_⟩
      rw [State.curColl_setColl_same] at hz
      cases hz
      exact hwant y hy
    · have hover := t.collOver_collEnd g y Status.ok 0 0 0
      refine ⟨(hover.mem y.spoils_ok).trans hmem, hover.regs.trans hregs, hover.tl.trans htl, fun z hz => ?_⟩
      cases hover.cur.symm.trans hz

/-- A run that takes what has landed and leaves nothing landed. -/
theorem State.collRun_ran {s t : State} {g : Nat} {x y : Coll} {c : Cmd} (hx : s.curColl g = some x) (hphase : x.phase = .data)
    (hsusp : x.susp = false) (hc : s.findCmd x.q x.cmd = some c) (htake : s.collTake g c (x.land.length + x.folds.length) = t)
    (hy : t.curColl g = some y) : CollRan g y.want t (s.collRun g) := by
  have hgo : ¬ (x.phase ≠ .data ∨ x.susp = true) := by simp [hphase, hsusp]
  unfold State.collRun
  rw [hx]
  dsimp only
  rw [if_neg hgo, hc]
  dsimp only
  rw [htake]
  generalize hu : (t.collGrant g 16).collPump g _ = u
  have hran : CollRan g y.want t u := by
    rw [← hu]
    exact ((t.collSending_collGrant g 16).trans (State.collSending_collPump _ g _)).ran hy
  cases hz : u.curColl g with
  | none => exact hran
  | some z => exact hran.finish hz _

/-- A finished piece that can be written is taken. -/
theorem State.takePiece_fin {s t : State} {v : CollEnv} {x : Coll} {c : Cmd} {pc : Piece} (hkind : pc.kind = .fin)
    (hwrite : s.collWrite c x v.p v.me pc.off pc.data = (t, none)) :
    ∃ y, s.takePiece v x c pc = t.setColl v.g (some y) ∧ y.land = x.land.erase pc ∧ y.want = x.want := by
  unfold State.takePiece
  rw [if_pos hkind, hwrite]
  exact ⟨_, rfl, rfl, rfl⟩

/-- The only piece landed is a finished one, which can be written. -/
theorem State.collRun_fin {s t : State} {g : Nat} {x : Coll} {c : Cmd} {pc : Piece} (hx : s.curColl g = some x) (hphase : x.phase = .data)
    (hsusp : x.susp = false) (hc : s.findCmd x.q x.cmd = some c) (hland : x.land = [pc]) (hkind : pc.kind = .fin)
    (hwrite : s.collWrite c x (s.members g).length (s.grpRank g) pc.off pc.data = (t, none)) :
    CollRan g x.want t (s.collRun g) := by
  obtain ⟨y, htook, hyland, hywant⟩ := State.takePiece_fin (v := s.collEnv g x) hkind hwrite
  have hempty : y.land = [] := by rw [hyland, hland, List.erase_cons_head]
  have hfirst : x.land.find? (x.takeable (s.collEnv g x)) = some pc := by
    rw [hland]
    exact List.find?_cons_of_pos (if_pos hkind)
  have htake : s.collTake g c (x.land.length + x.folds.length) = t.setColl g (some y) := by
    rw [hland, List.length_singleton, Nat.add_comm, State.collTake, hx]
    dsimp only
    rw [hfirst]
    dsimp only
    rw [htook]
    exact State.collTake_no_land (t.curColl_setColl_same g _) hempty c _
  have hran := State.collRun_ran hx hphase hsusp hc htake (t.curColl_setColl_same g _)
  rw [hywant] at hran
  exact ⟨hran.mem, hran.regs, hran.tl, hran.want⟩

/-! ## A piece arrives (11 R283, R292) -/

theorem State.collDst_addr {s : State} (h : s.dpm = false) (c : Cmd) : s.collDst c = .addr (addrOp c 64) := by
  rw [State.collDst, State.refOf, h]
  rfl

/-- What a reduction does not form lies in the destination where its offset says. -/
theorem finOff_of_not_reduces {x : Coll} (h : opReduces x.desc.op = false) (p me off : Nat) : finOff x p me off = off :=
  if_neg fun ⟨hop, _⟩ => by simp [hop, opReduces] at h

theorem State.addrLoc_of_regs {s t : State} (h : t.regs = s.regs) (a : Nat) : t.addrLoc a = s.addrLoc a := by
  have hil : t.il = s.il := by rw [State.il, State.reg, h]; rfl
  rw [State.addrLoc, hil]
  rfl

theorem Holds.of_mem {s t : State} {a : Nat} {bs : List Byte} (h : Holds s a bs) (hmem : t.mem = s.mem) (hregs : t.regs = s.regs) :
    Holds t a bs := by
  intro i b hb
  obtain ⟨l, hl, hv⟩ := h i b hb
  exact ⟨l, (State.addrLoc_of_regs hregs _).trans hl, (State.memByte_of_mem hmem l).trans hv⟩

/-- Finished bytes written where a destination by address is whole. -/
theorem State.collWrite_whole {s : State} {c : Cmd} {x : Coll} {off : Nat} {bs : List Byte} (hop : opReduces x.desc.op = false)
    (hdpm : s.dpm = false) (hbar : s.collBarred c = false) (hw : Whole s (addrOp c 64 + off) bs.length) (p me : Nat) :
    ∃ t, s.collWrite c x p me off bs = (t, none) ∧ Holds t (addrOp c 64 + off) bs ∧ BytesOutside s t (addrOp c 64 + off) bs.length ∧
      t.regs = s.regs ∧ t.tl = s.tl := by
  have href : (s.collDst c).add (finOff x p me off) = .addr (addrOp c 64 + off) := by
    rw [State.collDst_addr hdpm, finOff_of_not_reduces hop, Ref.add]
  obtain ⟨hok, hframe, hholds, houtside⟩ := s.writeRef_addr (addrOp c 64 + off) bs hw
  generalize hu : (s.writeRef (.addr (addrOp c 64 + off)) bs).1 = u at hframe hholds houtside
  have hmark := u.markOpt_frame (.addr (addrOp c 64 + off)) bs.length
  refine ⟨u.markOpt (.addr (addrOp c 64 + off)) bs.length, ?_, ?_, fun l hl => ?_, ?_, ?_⟩
  · rw [State.collWrite, hbar, href, ← hu]
    simp only [Bool.false_eq_true, if_false, hok, Option.isSome_none]
  · rw [hmark]
    exact hholds
  · rw [hmark]
    exact houtside l hl
  · rw [hmark]
    exact hframe.regs
  · rw [hmark]
    exact hframe.tl

theorem State.found_noFind (s : State) : s.found noFind = s := rfl

/-- The collective with one piece landed that it wanted. -/
def Coll.landed (x : Coll) (w : Want) (pc : Piece) : Coll := { x with want := x.want.erase w, land := x.land ++ [pc] }

/-- A wanted piece lands, and the collective runs. -/
theorem State.collPieceFrom_wanted {s : State} {g : Nat} {x : Coll} {kind : PieceKind} {rank off : Nat} {data : List Byte} {w : Want}
    (hx : s.curColl g = some x) (hphase : x.phase ≠ .hand)
    (hwant : x.want.find? (fun v => v.kind == kind && v.rank == rank && v.off == off && v.len == data.length) = some w)
    (src : BitVec 12) (fl : Fl) :
    ∃ slot, s.collPieceFrom g x.seq src kind rank off fl data = (s.setColl g (some
      (x.landed w { kind := kind, rank := rank, off := off, data := data, fl := fl, slot := slot }))).collRun g := by
  simp only [State.collPieceFrom, hx, hphase, hwant, ne_eq, not_true_eq_false, or_self, if_false]
  exact ⟨_, rfl⟩

theorem exec_collPieceReceive_fin {g : BitVec 8} {s : State} {x : Coll} {c : Cmd} {rank off : Nat} {data : List Byte} {w : Want}
    (hx : s.curColl g.toNat = some x) (hc : s.findCmd x.q x.cmd = some c) (hphase : x.phase = .data) (hsusp : x.susp = false)
    (hland : x.land = []) (hop : opReduces x.desc.op = false) (hdpm : s.dpm = false) (hbar : s.collBarred c = false)
    (hw : Whole s (addrOp c 64 + off) data.length)
    (hwant : x.want.find? (fun v => v.kind == .fin && v.rank == rank && v.off == off && v.len == data.length) = some w)
    (src : BitVec 12) (flags : BitVec 5) (sat : W32) :
    ∃ s', exec (.collPieceReceive g x.seq src .fin rank off flags sat data noFind 0 0) s = .next s' ∧
      Holds s' (addrOp c 64 + off) data ∧ BytesOutside s s' (addrOp c 64 + off) data.length ∧
      (∀ y, s'.curColl g.toNat = some y → y.want = x.want.erase w) ∧ s'.regs = s.regs ∧ s'.tl = s.tl := by
  obtain ⟨slot, hlands⟩ := State.collPieceFrom_wanted hx (by simp [hphase]) hwant src (Fl.ofBits flags sat)
  let pc : Piece := { kind := .fin, rank := rank, off := off, data := data, fl := Fl.ofBits flags sat, slot := slot }
  let y := x.landed w pc
  let t := s.setColl g.toNat (some y)
  have hyland : y.land = [pc] := congrArg (· ++ [pc]) hland
  obtain ⟨u, hwrite, hholds, houtside, hregs, htl⟩ := State.collWrite_whole (s := t) (x := y) hop hdpm hbar hw
    (t.members g.toNat).length (t.grpRank g.toNat)
  have hran : CollRan g.toNat y.want u (t.collRun g.toNat) :=
    State.collRun_fin (s.curColl_setColl_same g.toNat (some y)) hphase hsusp hc hyland rfl hwrite
  refine ⟨t.collRun g.toNat, congrArg Host.Outcome.next hlands, hholds.of_mem hran.mem hran.regs, fun l hl => ?_, hran.want,
    hran.regs.trans hregs, hran.tl.trans htl⟩
  exact (State.memByte_of_mem hran.mem l).trans (houtside l hl)

/-- A third residue miss ends the collective here and everywhere (11 R292). -/
theorem exec_collPieceReceive_lost {g : BitVec 8} {s : State} {x : Coll} {c : Cmd} (hx : s.curColl g.toNat = some x)
    (hc : s.findCmd x.q x.cmd = some c) (src : BitVec 12) (kind : PieceKind) (rank off : Nat) (flags : BitVec 5) (sat : W32)
    (data : List Byte) (u : BitVec 2) :
    ∃ s', exec (.collPieceReceive g x.seq src kind rank off flags sat data noFind u 3) s = .next s' ∧ s'.curColl g.toNat = none ∧
      Ended s s' x.q x.cmd 0x0403 (collResult x.seq g.toNat (s.grpRank g.toNat) 0 3 x.resultAlg x.fl) := by
  generalize ht : s.fabricMiss u 3 = t
  have hlog : OnlyFault s t := ht ▸ s.onlyFault_fabricMiss u 3
  unfold OnlyFault at hlog
  have hqueues : t.host.queues = s.host.queues := by rw [hlog]
  have hxt : t.curColl g.toNat = some x := by rw [hlog]; exact hx
  have hct : t.findCmd x.q x.cmd = some c := by rw [hlog]; exact hc
  have hrank : t.grpRank g.toNat = s.grpRank g.toNat := by rw [hlog]; rfl
  have hexec : exec (.collPieceReceive g x.seq src kind rank off flags sat data noFind u 3) s =
      .next (t.collFail g.toNat x Status.collAbort 3) := by
    show execCollPieceReceive g x.seq src kind rank off flags sat data noFind u 3 s = _
    simp only [execCollPieceReceive, State.found_noFind]
    rw [show (3 : BitVec 2).toNat = 3 from rfl, ht, hxt]
    simp only [if_true]
  obtain ⟨hover, hended⟩ := State.collFail_abort hct g.toNat 3
  rw [hrank] at hended
  exact ⟨_, hexec, hover.cur, hended.of_queues hqueues⟩

end Sys2Proof.Machine
end

section
/-! SUPPORT. How a collective ends early or goes on after a takeover (11 R292 to R295), and the statement about collectives. -/
namespace Sys2Proof.Machine

/-! ## Timeouts and outcomes decided elsewhere (11 R293, R295) -/

theorem CollOver.mem_hand {g : Nat} {x : Coll} {st : W16} {s t : State} (h : CollOver g (x.spoils st) s t) (hphase : x.phase = .hand) :
    t.mem = s.mem := h.mem (Coll.spoils_hand hphase st)

theorem exec_collTimeoutExpiry_late {g : BitVec 8} {s : State} {x : Coll} {c : Cmd} (hx : s.curColl g.toNat = some x)
    (hc : s.findCmd x.q x.cmd = some c) (hstep : x.desc.step = false) (hlate : s.collTo c * msec ≤ s.now - x.since) :
    ∃ s', exec (.collTimeoutExpiry g) s = .next s' ∧ s'.curColl g.toNat = none ∧ (x.phase = .hand → s'.mem = s.mem) ∧
      Ended s s' x.q x.cmd Status.collTimeout
        (collResult x.seq g.toNat (s.collLack g.toNat x) 0 0 x.resultAlg x.fl) := by
  obtain ⟨hover, hended⟩ := State.toGroup_collEnd hc g.toNat (.collTimeout g x.seq (s.collLack g.toNat x)) Status.collTimeout
    (s.collLack g.toNat x) 0 0
  refine ⟨_, ?_, hover.cur, hover.mem_hand, hended⟩
  show execCollTimeoutExpiry g s = _
  unfold execCollTimeoutExpiry
  dsimp only
  rw [hx]
  dsimp only
  rw [hc]
  exact if_neg (by rw [hstep]; simpa using hlate)

/-- The outcome of the current collective ends it. -/
theorem State.collOutcome_current {s : State} {g : Nat} {x : Coll} {c : Cmd} (hx : s.curColl g = some x)
    (hc : s.findCmd x.q x.cmd = some c) (st : W16) (rank cause : Nat) :
    let t := s.collOutcome g x.seq st rank cause
    t.curColl g = none ∧ (x.phase = .hand → t.mem = s.mem) ∧
      Ended s t x.q x.cmd st (collResult x.seq g rank 0 cause x.resultAlg x.fl) := by
  have hout : s.collOutcome g x.seq st rank cause = s.collEnd g x st rank 0 cause := by
    rw [State.collOutcome, hx]
    exact if_pos rfl
  have hover := s.collOver_collEnd g x st rank 0 cause
  rw [hout]
  exact ⟨hover.cur, hover.mem_hand, State.ended_collEnd hc g st rank 0 cause⟩

/-- The outcome of a collective still to come is kept. -/
theorem State.collOutcome_later {s : State} {g : Nat} {x : Coll} {n : W32} (hx : s.curColl g = some x) (hne : n ≠ x.seq)
    (hlater : (n - x.seq).toNat < 2 ^ 31) (st : W16) (rank cause : Nat) :
    s.collOutcome g n st rank cause = { s with coll := { s.coll with
      early := s.coll.early ++ [{ g := g, seq := n, st := st, rank := rank, cause := cause }] } } := by
  rw [State.collOutcome, hx]
  exact (if_neg hne.symm).trans (if_pos hlater)

/-! ## COLL_ABORT (11 R295) -/

theorem exec_collAbort_go {s : State} {pk : Packet} {w : W64} {k : Nat} {x : Coll} {c : Cmd} (h : Writes s pk 0xB0008 w)
    (hrsvd : fld w 9 55 = 0) (hgroup : fld w 0 8 = k) (hgo : bit w 8 = true) (hx : s.curColl k = some x)
    (hc : s.findCmd x.q x.cmd = some c) :
    ∃ s', exec (.collAbort pk) s = .next s' ∧ WriteAnswered s s' pk 0 ∧ s'.curColl k = none ∧
      Ended s s' x.q x.cmd Status.collAbort (collResult x.seq k (s.grpRank k) 0 1 x.resultAlg x.fl) := by
  let t := s.takeRx .pxu pk
  obtain ⟨hover, hended⟩ := State.collFail_abort (s := t) (x := x) hc k 1
  have hwrite : t.writeCollAbort w = some (t.collFail k x Status.collAbort 1) := by
    have hxt : t.curColl k = some x := hx
    simp [State.writeCollAbort, hrsvd, hgo, hgroup, hxt]
  let u := t.collFail k x Status.collAbort 1
  obtain ⟨r, hr, hresp⟩ := State.respond_answers (s := s) (s1 := u) h.onPxu.ty_eq hover.ident Status.ok 0 []
  refine ⟨u.postUp r, ?_, ⟨r, hr, congrArg (· ++ [r]) hover.upTx⟩, hover.cur, hended⟩
  rw [← hresp]
  exact congrArg Host.Outcome.next (State.regWr_ok h rfl hwrite)

theorem exec_collAbort_reserved {s : State} {pk : Packet} {w : W64} (h : Writes s pk 0xB0008 w) (hrsvd : fld w 9 55 ≠ 0) :
    ∃ s', exec (.collAbort pk) s = .next s' ∧ OnlyAnswered s s' pk 0x3 0x0202 0 [] :=
  ⟨_, congrArg Host.Outcome.next (State.regWr_no h rfl (if_pos hrsvd)), State.onlyAnswered_respond h.onPxu.ty_eq Status.errRange 0 []⟩

/-! ## After a takeover (11 R294) -/

/-- What a collective sends rank k's spare: all the failed holder had got or was to get for its own part, and the finished data of which
this member is the origin. -/
def Coll.again (x : Coll) (v : CollEnv) (k : Nat) : List (Nat × Msg) :=
  (((x.sent ++ x.out).filter (x.forSpare v k)).map (fun o => (k, o.2))).eraseDups

/-- The collective as it goes on with rank k's spare. -/
def Coll.resumed (x : Coll) (v : CollEnv) (k now : Nat) : Coll :=
  { x with
    susp := false
    out := x.out.filter (fun o => o.1 != k) ++ x.again v k
    sent := x.sent.filter (fun o => o.1 != k)
    since := if x.desc.step then now else x.since
    granted := x.granted.filter (fun q => q != k || x.land.any (fun l => l.slot == some k))
    credit := x.credit.filter (fun q => q != k) }

theorem exec_collResume_hand {g : BitVec 8} {r : BitVec 12} {s : State} {x : Coll} (hx : s.curColl g.toNat = some x)
    (hphase : x.phase = .hand) (hhands : x.hands.length < (s.members g.toNat).length) (hr : r.toNat < (s.members g.toNat).length)
    (hlive : s.rankId g.toNat r.toNat ∉ s.flt.failed) (hspare : s.rankId g.toNat r.toNat ≠ (s.members g.toNat).getD r.toNat 0)
    (hother : s.rankId g.toNat r.toNat ≠ s.ownIdent) (hnorms : x.norms = []) :
    ∃ s' y, exec (.collResume g r) s = .next s' ∧ s'.curColl g.toNat = some y ∧ y.hands = x.hands ∧ y.susp = false ∧
      y.since = (if x.desc.step then s.now else x.since) ∧ y.credit = x.credit.filter (fun j => j != r.toNat) ∧
      y.out = x.out.filter (fun o => o.1 != r.toNat) ++ x.again (s.collEnv g.toNat x) r.toNat ∧
      Posted s s' [(s.rankId g.toNat r.toNat, .ctl (.collHand g x.seq (collHash x.desc) x.desc))] ∧ s'.mem = s.mem ∧ s'.host = s.host := by
  let k := r.toNat
  let y := x.resumed (s.collEnv g.toNat x) k s.now
  let t := s.setColl g.toNat (some y)
  let m : Msg := .collHand g x.seq (collHash x.desc) x.desc
  let u := t.sendMsg (s.rankId g.toNat k) m
  have hcoll : u.coll = t.coll := t.sendMsg_coll _ m
  have hy : u.curColl g.toNat = some y := by
    rw [State.curColl, hcoll]
    exact s.curColl_setColl_same g.toNat (some y)
  have hmatch : u.collMatch g.toNat = u := State.collMatch_short hy (by rw [State.members, hcoll]; exact hhands)
  have hrun : u.collRun g.toNat = u := by
    rw [State.collRun, hy]
    exact if_pos (.inl (by rw [show y.phase = .hand from hphase]; exact CollPhase.noConfusion))
  have hgo : ¬ (k ≥ (s.members g.toNat).length ∨ s.isFailed (s.rankId g.toNat k) = true ∨
      s.rankId g.toNat k = (s.members g.toNat).getD k 0 ∨ s.rankId g.toNat k = s.ownIdent) := by
    rintro (h | h | h | h)
    · omega
    · exact hlive (by simpa [State.isFailed] using h)
    · exact hspare h
    · exact hother h
  have hnone : x.norms.find? (fun h => h.1 == s.grpRank g.toNat) = none := by rw [hnorms, List.find?_nil]
  have hexec : exec (.collResume g r) s = .next u := by
    have hid : (u.collMatch g.toNat).collRun g.toNat = u := by rw [hmatch, hrun]
    rw [← hid]
    show execCollResume g r s = _
    unfold execCollResume
    dsimp only
    rw [hx]
    dsimp only
    rw [if_neg hgo, if_pos hphase, hnone]
    rfl
  exact ⟨u, y, hexec, hy, rfl, rfl, rfl, rfl, rfl, t.posted_sendMsg_ctl _ rfl, t.sendMsg_mem _ m, t.sendMsg_host _ m⟩

/-! ## The statement -/

/-- Settles O39, row by row. -/
theorem collectiveResult : Obligations.CollectiveResult := by
  unfold Obligations.CollectiveResult
  refine ⟨?_, ?_, ?_, fun s pk w => exec_collAbort_reserved⟩
  · intro q n s c hruns hready hcur
    refine ⟨exec_coll_ready hruns hready hcur, ?_⟩
    intro g k hstep hany
    exact exec_coll_withdrawn hruns hready hcur ((s.collBarred_iff c).mpr ⟨hstep, hany⟩)
  · intro g s q n c l t d lead told hcur hready hc hearly hbox hmem hbar
    exact exec_collBecomesCurrent_result rfl rfl hcur hready hc hearly hbar hbox hmem
  · intro g s x c k p alg hx hc
    refine ⟨?_, ?_, ?_, ?_, ?_, ?_, ?_, ?_, ?_⟩
    · intro src dh d r hphase hsusp hsrc hnew hs
      refine ⟨exec_collHandshakeReceive_waits hx hsrc hnew, fun rh ref f hall hr href hothers hbad => ?_⟩
      exact exec_collHandshakeReceive_differs hx hsrc hnew hc hphase hsusp hall hr href hothers hbad
    · intro src rank off flags sat data w a hphase hsusp hland hop hdpm hbar hw hwant
      exact exec_collPieceReceive_fin hx hc hphase hsusp hland hop hdpm hbar hw hwant src flags sat
    · exact exec_collPieceReceive_lost hx hc
    · exact exec_collTimeoutExpiry_late hx hc
    · exact fun rank => ⟨_, rfl, State.collOutcome_current hx hc Status.collTimeout rank.toNat 0⟩
    · exact fun rank cause => ⟨_, rfl, State.collOutcome_current hx hc Status.collAbort rank.toNat cause.toNat⟩
    · exact fun n rank cause hne hlater =>
        congrArg Host.Outcome.next (State.collOutcome_later hx hne hlater Status.collAbort rank.toNat cause.toNat)
    · exact fun pk w hw hrsvd hgroup hgo => exec_collAbort_go hw hrsvd hgroup hgo hx hc
    · exact fun r => exec_collResume_hand hx

end Sys2Proof.Machine
end
